-- ==== Sys2Proof/Word.lean ====
section
/-! DEFINITION. The word types of the Tigus and their plainest arithmetic (R4: bits are numbered from
0 at the least significant position, every multi-byte value is little-endian). -/

namespace Sys2Proof

/-- A general register, a control register, a spill slot (R209, R213, R220). -/
abbrev W64 := BitVec 64

/-- An instruction word, a vector lane, a tile-register element (R306, R209, R211). -/
abbrev W32 := BitVec 32

/-- The smallest addressable unit of pad, external memory and packets (R4). -/
abbrev Byte := BitVec 8

/-- A causal ticket: a 16-bit number modulo 2^16 (R96). -/
abbrev Ticket := BitVec 16

/-- A sparse table: (key, value) pairs, keys strictly rising, no value equal to the key's default.
`Sys2Proof.Machine.AMap` in Machine/Map.lean holds its operations. A byte memory is an
`AMap Byte`, that is a `List Host.Cell`. -/
abbrev AMap (α : Type) := List (Nat × α)

end Sys2Proof
end

