-- ==== Sys2Proof/Operand.lean ====
section
/-! DEFINITION. The data that the constructors of `Instr` carry beside instruction fields: what the
outside world, the host or another unit hands to an event (an event is a row of the opcode table
that has no encoding). -/

namespace Sys2Proof

/-- Wafer units that keep a copy of the stable vector or acknowledge tickets (R101, R103). -/
inductive Agent where
  /-- the tile with this logical index Y × 120 + X -/
  | tile (n : Nat)
  /-- cellar port of stack s -/
  | cellar (s : Nat)
  /-- overflow buffer of field f -/
  | overflow (f : Nat)
  /-- optical port p -/
  | port (p : Nat)
  /-- PCIe path of link n (its corner field) -/
  | pcie (n : Nat)
  /-- the control-space interface of field 0 -/
  | ctrl
deriving DecidableEq, Repr

/-- The sample of one physical wavelength (R57 to R59): the OPT_WLn_HEALTH fields, the symbols corrected since the last sample, and whether
every DATA flit of its lane was uncorrectable throughout. -/
structure WlSample where
  lock : BitVec 2
  heater : BitVec 10
  rxpwr : BitVec 10
  ber : BitVec 8
  eye : BitVec 8
  csym : BitVec 24
  dead : Bool
deriving DecidableEq, Repr

/-- What MEASUREMENT_UPDATE resamples (R26, R58): a port is sampled whole, wavelength 0 first. -/
inductive Measurement where
  | module (vin pin : BitVec 16)
  | field (f : BitVec 6) (iFld : BitVec 11) (temp : BitVec 8)
  | port (p : BitVec 7) (l : List WlSample)
deriving DecidableEq, Repr

/-- A link flit of an optical port (R51): header fields, the crc, the 64-byte payload. `poison` marks the payload's poisoned bytes; the
layout of R51 has no place for it (DESIGN CHOICE, log 57). -/
structure LinkFlit where
  seq : BitVec 13
  ack : BitVec 13
  kind : BitVec 3
  cls : BitVec 2
  last : Bool
  crc : BitVec 32
  payload : BitVec 512
  poison : BitVec 64
deriving DecidableEq, Repr

/-- A place in BAR 0 as a link reaches it (R147). -/
structure BarAddr where
  link : BitVec 2
  off : BitVec 22
deriving DecidableEq, Repr

/-- A read of BAR 0: where, and of how many bytes (R147). -/
structure BarRead where
  link : BitVec 2
  off : BitVec 22
  len : Nat
deriving DecidableEq, Repr

/-- The operations of a request header (R125). -/
structure ReqHead where
  va : BitVec 56
  op : BitVec 4
  len : BitVec 6
  merge : Bool
  ph : BitVec 2
  fn : BitVec 8
  tix : BitVec 14
  tag : BitVec 10
  hops : BitVec 3
  rmask : BitVec 16
  zero : BitVec 8
deriving DecidableEq, Repr

/-- One channel directive of a tile image, in plot-relative coordinates (R40, R82, R83, R317). -/
structure ImgChan where
  n : BitVec 6
  recv : Bool
  px : Nat
  py : Nat
  pch : BitVec 6
  base : BitVec 16
  size : BitVec 4
  pkwin : Bool
deriving DecidableEq, Repr

/-- The pass directive (R317, R294). -/
structure ImgPass where
  pc : BitVec 14
  obase : BitVec 16
  olen : BitVec 13
  bufs : List (BitVec 2 × BitVec 16 × BitVec 16 × BitVec 12)
deriving DecidableEq, Repr

/-- The image of one tile of an image set (R164, R317). -/
structure ImgTile where
  x : Nat
  y : Nat
  /-- instruction-memory words: (byte address / 4, word) -/
  text : List (Nat × W32)
  /-- pad bytes: (address, byte) -/
  pad : List (Nat × Byte)
  chans : List ImgChan
  cq : Option W64
  pass : Option ImgPass
deriving DecidableEq, Repr

/-- An image set as PLOT_LOAD reads it from host memory; the spec gives its contents (R40, R83,
R164, R171, R317), not its binary layout. -/
structure ImageSet where
  w : Nat
  h : Nat
  slice : Nat
  seed : W64
  tiles : List ImgTile
  /-- group number and its member tiles, plot-relative (R171) -/
  groups : List (Nat × List (Nat × Nat))
  /-- regions 0, 1 (EXT), HOST, PEER of R219: base and length -/
  ext0 : Option (BitVec 56 × Nat)
  ext1 : Option (BitVec 56 × Nat)
  host : Option (BitVec 56 × Nat)
  peer : Option (BitVec 56 × Nat)
  /-- the packet of the label svh, when the image defines it (R427) -/
  svh : Option Nat
deriving DecidableEq, Repr

/-- A PCIe completion for a host request (R154). -/
inductive Completion where
  | data (bytes : List Byte)
  | poisoned (bytes : List Byte)
  | unsupported
  | aborted
deriving DecidableEq, Repr

/-- The host atomics that PCIe knows: FetchAdd, Swap and CAS (R146, R154). -/
inductive PcieAtomic where
  | fetchAdd
  | swap
  | cas
deriving DecidableEq, Repr

end Sys2Proof
end

