-- ==== Sys2Proof/Config.lean ====
section
/-! DEFINITION. What the spec leaves open. Every constant here is opaque: it has no body, so nothing
can be proved of the value it takes. The first argument `seed` is the model's own counter
`State.seed`, which every step advances, so that each step meets fresh values; the second argument
tells the uses inside one step apart. notes/assumptions/3.md names them. -/

namespace Sys2Proof.Config

/-- The bits a register read returns before the result of its last writer has landed (R203). -/
opaque freeBits (seed key : Nat) : BitVec 128

/-- A choice between two outcomes that the spec allows (R204, R142, R167 and others). -/
opaque freePick (seed key : Nat) : Bool

/-- A number the spec leaves open. -/
opaque freeNat (seed key : Nat) : Nat

/-- The error that an undervolted slice adds to the column-segment sum `key` of a matrix operation
(R261); the model clamps it to the bound the rule gives. -/
opaque fidError (seed key : Nat) : Int

/-- Which of the admissible results of R378 the transcendental function `fn` returns at the operand
`x`: an index into the list of them. It does not depend on time: R378 fixes one result per operand. -/
opaque vxfPick (fn : Nat) (x : BitVec 32) : Nat

/-- ECDSA P-521 over the SHA-512 digest of a message: whether the signature verifies under a public key (R29, R160). -/
opaque ecdsaValid (key message signature : List Byte) : Bool

/-- The digest of the firmware signing public key that the boot ROM holds (R160). -/
opaque bootDigest : BitVec 512

/-- The public key and the signature that a firmware image carries, the message that the signature covers, and the manifest
verification key that it holds (R160): the spec gives no layout of an image. -/
opaque firmwareKey (image : List Byte) : List Byte
opaque firmwareSignature (image : List Byte) : List Byte
opaque firmwareBody (image : List Byte) : List Byte
opaque manifestKey (image : List Byte) : List Byte

/-- The security version that a firmware image states (R160). -/
opaque firmwareVersion (image : List Byte) : Nat

/-- The field controller microcode that a firmware image holds (R160, R162). -/
opaque microcode (image : List Byte) : List Byte

/-- Word `i` of the Iluvel supervisor, which the production loader places from packet 10,880 on, and the packet of its trap
entry (R226): the spec gives neither. -/
opaque supervisorWord (i : Nat) : BitVec 32
opaque supervisorEntry : Nat

/-- The set of an 8-way slice of the second-level TLB to which a page of an owner belongs (R131). -/
opaque sliceSet (owner page : Nat) : Nat

/-- Bits of the handle of tile `k` of plot `p` (R42, R43): no value of a handle is given, but that it is not 0. -/
opaque handleBits (p k : Nat) : BitVec 64

/-- The responder's signature (R161). -/
opaque ecdsaSign (message : List Byte) (seed : Nat) : List Byte

/-- SHA-512 (R161, R162). -/
opaque sha512 (bytes : List Byte) : BitVec 512

/-- The leaf, device and root certificates (R161): contents set at manufacture. -/
opaque certChain (slot : Nat) : List Byte

/-- A 256-bit nonce of the responder (R161). -/
opaque freeNonce (seed : Nat) : BitVec 256

end Sys2Proof.Config
end

