-- ==== Sys2Proof/Machine/Map.lean ====
section
/-! DEFINITION. Sparse tables. `mget` and `mset` keep the canonical form of a memory: keys strictly
rising, no entry equal to the default `d` that an unlisted key reads as. `mput` is the plain
insertion that the tables of units use. -/

namespace Sys2Proof.Machine

variable {α : Type}

/-- What key `k` holds; an unlisted key holds `d`. -/
def mget (d : α) : AMap α → Nat → α
  | [], _ => d
  | (k', v) :: m, k => if k = k' then v else mget d m k

/-- Insert or replace, keeping the keys rising. -/
def mput : AMap α → Nat → α → AMap α
  | [], k, v => [(k, v)]
  | (k', v') :: m, k, v =>
    if k < k' then (k, v) :: (k', v') :: m
    else if k = k' then (k, v) :: m
    else (k', v') :: mput m k v

/-- Take every entry of a key out. -/
def mdel (m : AMap α) (k : Nat) : AMap α := m.filter (fun e => e.1 != k)

/-- Write `v` at `k`, keeping the canonical form for the default `d`: the default is not listed. -/
def mset [DecidableEq α] (d : α) (m : AMap α) (k : Nat) (v : α) : AMap α :=
  if v = d then mdel m k else mput m k v

/-- Keys strictly rising, all of them at least `lo`, no value equal to `d`. -/
def mwfFrom [DecidableEq α] (d : α) : Nat → AMap α → Bool
  | _, [] => true
  | lo, (k, v) :: m => decide (lo ≤ k) && decide (v ≠ d) && mwfFrom d (k + 1) m

/-- The canonical form of a sparse table whose unlisted keys hold `d`. -/
def mwf [DecidableEq α] (d : α) (m : AMap α) : Bool := mwfFrom d 0 m

/-- Reading `n` bytes from address `a`, little-endian (R4); an unlisted byte reads 0. -/
def readBytes (m : AMap Byte) (a : Nat) : Nat → Nat
  | 0 => 0
  | n + 1 => (mget 0#8 m a).toNat + 256 * readBytes m (a + 1) n

/-- Writing the low `n` bytes of `v` at address `a`, little-endian (R4). -/
def writeBytes (m : AMap Byte) (a : Nat) : Nat → Nat → AMap Byte
  | 0, _ => m
  | n + 1, v => writeBytes (mset 0#8 m a (BitVec.ofNat 8 v)) (a + 1) n (v / 256)

/-- Writing a list of bytes at address `a`. -/
def putBytes (m : AMap Byte) (a : Nat) : List Byte → AMap Byte
  | [] => m
  | b :: bs => putBytes (mset 0#8 m a b) (a + 1) bs

/-- The list of `n` bytes at address `a`. -/
def getBytes (m : AMap Byte) (a : Nat) : Nat → List Byte
  | 0 => []
  | n + 1 => mget 0#8 m a :: getBytes m (a + 1) n

end Sys2Proof.Machine
end

