-- ==== Sys2Proof/Syntax.lean ====
section
/-! DEFINITION. The instruction set: one constructor for each row of spec/opcode_table.json. The rows
with a match and a mask are the 238 Eziax words of R306 to R310; their arguments are the fields of
R307 and R308 with the table's names and widths, without the chain bit, which belongs to the packet
(R200, R201). The rows without an encoding are the steps of the other units of the part (the spec's
table of operations and events); their arguments name the unit and carry what arrives from outside. -/

namespace Sys2Proof

/-- The 238 words and the 168 events of spec/opcode_table.json. -/
inductive Instr where
  /-- NOP (R320). Does nothing. -/
  | nop
  /-- BRKPT (R321). Raises BRKPT after its group has issued. -/
  | brkpt (k : BitVec 18)
  /-- SYSCALL (R321). Raises SYSCALL after its group has issued. -/
  | syscall (k : BitVec 18)
  /-- ERET (R322). Returns from a trap to CTX_EPC and its resume word. -/
  | eret
  /-- CKEQ (R323). Compares two duplicate registers and raises CHECK on a mismatch. -/
  | ckeq (a : BitVec 6) (b : BitVec 6)
  /-- SLEEP (R324). Ends the running start of a context 1 to 3, restarting with a queued arrival or going DORMANT. -/
  | sleep
  /-- CTXGO (R325). Releases at scope TILE and starts a DORMANT context of the tile, returning a status. -/
  | ctxgo (d : BitVec 6) (a : BitVec 6) (b : BitVec 6)
  /-- HALT (R326). Moves the context to HALTED. -/
  | halt
  /-- YIELD (R326). Makes the context ineligible in the next packet slot. -/
  | yield
  /-- ADD (R327). g[d] := x + y. -/
  | add (d : BitVec 6) (a : BitVec 6) (b : BitVec 6)
  /-- SUB (R327). g[d] := x − y. -/
  | sub (d : BitVec 6) (a : BitVec 6) (b : BitVec 6)
  /-- AND (R327). Bitwise AND. -/
  | and (d : BitVec 6) (a : BitVec 6) (b : BitVec 6)
  /-- OR (R327). Bitwise OR. -/
  | or (d : BitVec 6) (a : BitVec 6) (b : BitVec 6)
  /-- XOR (R327). Bitwise XOR. -/
  | xor (d : BitVec 6) (a : BitVec 6) (b : BitVec 6)
  /-- ANDN (R327). x AND NOT y. -/
  | andn (d : BitVec 6) (a : BitVec 6) (b : BitVec 6)
  /-- ORN (R327). x OR NOT y. -/
  | orn (d : BitVec 6) (a : BitVec 6) (b : BitVec 6)
  /-- SHL (R327). Shift left. -/
  | shl (d : BitVec 6) (a : BitVec 6) (b : BitVec 6)
  /-- SHR (R327). Logical shift right. -/
  | shr (d : BitVec 6) (a : BitVec 6) (b : BitVec 6)
  /-- SHA (R327). Arithmetic shift right. -/
  | sha (d : BitVec 6) (a : BitVec 6) (b : BitVec 6)
  /-- ROL (R327). Rotate left. -/
  | rol (d : BitVec 6) (a : BitVec 6) (b : BitVec 6)
  /-- MIN (R327). Signed minimum. -/
  | min (d : BitVec 6) (a : BitVec 6) (b : BitVec 6)
  /-- MAX (R327). Signed maximum. -/
  | max (d : BitVec 6) (a : BitVec 6) (b : BitVec 6)
  /-- MINZ (R327). Unsigned minimum. -/
  | minz (d : BitVec 6) (a : BitVec 6) (b : BitVec 6)
  /-- MAXZ (R327). Unsigned maximum. -/
  | maxz (d : BitVec 6) (a : BitVec 6) (b : BitVec 6)
  /-- MUL (R327). Low 64 bits of the product. -/
  | mul (d : BitVec 6) (a : BitVec 6) (b : BitVec 6)
  /-- MULH (R327). High 64 bits of the signed product. -/
  | mulh (d : BitVec 6) (a : BitVec 6) (b : BitVec 6)
  /-- MULHZ (R327). High 64 bits of the unsigned product. -/
  | mulhz (d : BitVec 6) (a : BitVec 6) (b : BitVec 6)
  /-- DIV (R328). Signed division toward zero, never trapping. -/
  | div (d : BitVec 6) (a : BitVec 6) (b : BitVec 6)
  /-- DIVZ (R328). Unsigned division. -/
  | divz (d : BitVec 6) (a : BitVec 6) (b : BitVec 6)
  /-- REM (R328). Signed remainder. -/
  | rem (d : BitVec 6) (a : BitVec 6) (b : BitVec 6)
  /-- REMZ (R328). Unsigned remainder. -/
  | remz (d : BitVec 6) (a : BitVec 6) (b : BitVec 6)
  /-- CLZ (R327). Count leading zeros. -/
  | clz (d : BitVec 6) (a : BitVec 6)
  /-- CTZ (R327). Count trailing zeros. -/
  | ctz (d : BitVec 6) (a : BitVec 6)
  /-- POPC (R327). Count ones. -/
  | popc (d : BitVec 6) (a : BitVec 6)
  /-- SEXT.B (R327). Sign-extend from 8 bits. -/
  | sextB (d : BitVec 6) (a : BitVec 6)
  /-- SEXT.H (R327). Sign-extend from 16 bits. -/
  | sextH (d : BitVec 6) (a : BitVec 6)
  /-- SEXT.W (R327). Sign-extend from 32 bits. -/
  | sextW (d : BitVec 6) (a : BitVec 6)
  /-- ZEXT.B (R327). Zero-extend from 8 bits. -/
  | zextB (d : BitVec 6) (a : BitVec 6)
  /-- ZEXT.H (R327). Zero-extend from 16 bits. -/
  | zextH (d : BitVec 6) (a : BitVec 6)
  /-- ZEXT.W (R327). Zero-extend from 32 bits. -/
  | zextW (d : BitVec 6) (a : BitVec 6)
  /-- BEXT (R329). Extracts a bit field. -/
  | bext (d : BitVec 6) (a : BitVec 6) (b : BitVec 6)
  /-- BINS (R329). Inserts a bit field into g[d]. -/
  | bins (d : BitVec 6) (a : BitVec 6) (b : BitVec 6)
  /-- ADDI (R330). Adds a sign-extended 13-bit immediate. -/
  | addi (d : BitVec 6) (a : BitVec 6) (i : BitVec 13)
  /-- ANDI (R330). ANDs with a sign-extended immediate. -/
  | andi (d : BitVec 6) (a : BitVec 6) (i : BitVec 13)
  /-- ORI (R330). ORs with a sign-extended immediate. -/
  | ori (d : BitVec 6) (a : BitVec 6) (i : BitVec 13)
  /-- XORI (R330). XORs with a sign-extended immediate. -/
  | xori (d : BitVec 6) (a : BitVec 6) (i : BitVec 13)
  /-- SHLI (R330). Shift left by an immediate. -/
  | shli (d : BitVec 6) (a : BitVec 6) (s : BitVec 6)
  /-- SHRI (R330). Logical shift right by an immediate. -/
  | shri (d : BitVec 6) (a : BitVec 6) (s : BitVec 6)
  /-- SHAI (R330). Arithmetic shift right by an immediate. -/
  | shai (d : BitVec 6) (a : BitVec 6) (s : BitVec 6)
  /-- ROLI (R330). Rotate left by an immediate. -/
  | roli (d : BitVec 6) (a : BitVec 6) (s : BitVec 6)
  /-- LIMM (R331). Loads a sign-extended 19-bit immediate. -/
  | limm (d : BitVec 6) (i : BitVec 19)
  /-- LSH19 (R331). Shifts g[d] left by 19 and ORs in a 19-bit immediate. -/
  | lsh19 (d : BitVec 6) (i : BitVec 19)
  /-- CMP.EQ (R332). Register compare for equality into a predicate. -/
  | cmpEq (p : BitVec 3) (m : BitVec 2) (a : BitVec 6) (b : BitVec 6)
  /-- CMP.NE (R332). Register compare for inequality. -/
  | cmpNe (p : BitVec 3) (m : BitVec 2) (a : BitVec 6) (b : BitVec 6)
  /-- CMP.LT (R332). Signed less-than compare. -/
  | cmpLt (p : BitVec 3) (m : BitVec 2) (a : BitVec 6) (b : BitVec 6)
  /-- CMP.LTZ (R332). Unsigned less-than compare. -/
  | cmpLtz (p : BitVec 3) (m : BitVec 2) (a : BitVec 6) (b : BitVec 6)
  /-- CMP.LE (R332). Signed less-or-equal compare. -/
  | cmpLe (p : BitVec 3) (m : BitVec 2) (a : BitVec 6) (b : BitVec 6)
  /-- CMP.LEZ (R332). Unsigned less-or-equal compare. -/
  | cmpLez (p : BitVec 3) (m : BitVec 2) (a : BitVec 6) (b : BitVec 6)
  /-- CMPI.EQ (R332). Immediate equality compare. -/
  | cmpiEq (p : BitVec 3) (m : BitVec 2) (a : BitVec 6) (i : BitVec 10)
  /-- CMPI.NE (R332). Immediate inequality compare. -/
  | cmpiNe (p : BitVec 3) (m : BitVec 2) (a : BitVec 6) (i : BitVec 10)
  /-- CMPI.LT (R332). Immediate signed less-than compare. -/
  | cmpiLt (p : BitVec 3) (m : BitVec 2) (a : BitVec 6) (i : BitVec 10)
  /-- CMPI.LTZ (R332). Immediate unsigned less-than compare. -/
  | cmpiLtz (p : BitVec 3) (m : BitVec 2) (a : BitVec 6) (i : BitVec 10)
  /-- CMPI.LE (R332). Immediate signed less-or-equal compare. -/
  | cmpiLe (p : BitVec 3) (m : BitVec 2) (a : BitVec 6) (i : BitVec 10)
  /-- CMPI.LEZ (R332). Immediate unsigned less-or-equal compare. -/
  | cmpiLez (p : BitVec 3) (m : BitVec 2) (a : BitVec 6) (i : BitVec 10)
  /-- PAND (R333). Predicate AND with optional source inversion. -/
  | pand (d : BitVec 3) (a : BitVec 3) (b : BitVec 3) (y : BitVec 1) (x : BitVec 1)
  /-- POR (R333). Predicate OR. -/
  | por (d : BitVec 3) (a : BitVec 3) (b : BitVec 3) (y : BitVec 1) (x : BitVec 1)
  /-- PXOR (R333). Predicate XOR. -/
  | pxor (d : BitVec 3) (a : BitVec 3) (b : BitVec 3) (y : BitVec 1) (x : BitVec 1)
  /-- PNOT (R333). Predicate NOT. -/
  | pnot (d : BitVec 3) (a : BitVec 3)
  /-- PMOV (R333). Predicate move. -/
  | pmov (d : BitVec 3) (a : BitVec 3)
  /-- SEL (R333). Selects one of two general registers by a predicate. -/
  | sel (d : BitVec 6) (a : BitVec 6) (b : BitVec 6) (q : BitVec 3)
  /-- PTOG (R333). Predicate to general register. -/
  | ptog (d : BitVec 6) (a : BitVec 3)
  /-- PFROMG (R333). General register nonzero to predicate. -/
  | pfromg (d : BitVec 3) (a : BitVec 6)
  /-- BR (R335). Branches when predicate xor neg is 1. -/
  | br (p : BitVec 3) (n : BitVec 1) (o : BitVec 21)
  /-- BRM (R336). Branches on a uniform mask, and raises UNIFORM otherwise. -/
  | brm (k : BitVec 3) (n : BitVec 1) (o : BitVec 21)
  /-- JMP (R338). Unconditional direct jump. -/
  | jmp (o : BitVec 19)
  /-- CALL (R338). Direct call that writes the link register. -/
  | call (d : BitVec 6) (o : BitVec 19)
  /-- JR (R339). Jumps to the packet in a register. -/
  | jr (a : BitVec 6)
  /-- CALLR (R339). Calls the packet in a register. -/
  | callr (d : BitVec 6) (a : BitVec 6)
  /-- RET (R339). Returns through a register. -/
  | ret (a : BitVec 6)
  /-- LOOPN (R340). Starts a loop-buffer nest with flags from spill slots. -/
  | loopn (a : BitVec 6) (s : BitVec 10) (l : BitVec 6)
  /-- LOOPN.FZ (R340). Starts a loop-buffer nest with all flags zero. -/
  | loopnFz (a : BitVec 6) (l : BitVec 6)
  /-- BRG (R337). Guarded branch that raises CHECK on disagreeing duplicate predicates. -/
  | brg (a : BitVec 3) (b : BitVec 3) (o : BitVec 19)
  /-- CNARW (R344). Narrows capability bounds to a length from the cursor. -/
  | cnarw (d : BitVec 4) (a : BitVec 4) (b : BitVec 6)
  /-- CADV (R345). Advances the capability cursor by a register. -/
  | cadv (d : BitVec 4) (a : BitVec 4) (b : BitVec 6)
  /-- CSEEK (R345). Sets the capability cursor. -/
  | cseek (d : BitVec 4) (a : BitVec 4) (b : BitVec 6)
  /-- CDROP (R343). Drops capability permissions. -/
  | cdrop (d : BitVec 4) (a : BitVec 4) (b : BitVec 6)
  /-- CVOID (R343). Copies a capability with its tag clear. -/
  | cvoid (d : BitVec 4) (a : BitVec 4)
  /-- CCOPY (R343). Copies a capability with its tag. -/
  | ccopy (d : BitVec 4) (a : BitVec 4)
  /-- CRDLO (R343). Reads a capability base. -/
  | crdlo (d : BitVec 6) (a : BitVec 4)
  /-- CRDSZ (R343). Reads a capability length. -/
  | crdsz (d : BitVec 6) (a : BitVec 4)
  /-- CRDCU (R343). Reads a capability cursor. -/
  | crdcu (d : BitVec 6) (a : BitVec 4)
  /-- CRDPM (R343). Reads capability permissions. -/
  | crdpm (d : BitVec 6) (a : BitVec 4)
  /-- CRDSP (R343). Reads a capability space. -/
  | crdsp (d : BitVec 6) (a : BitVec 4)
  /-- CRDVT (R343). Reads a capability tag. -/
  | crdvt (d : BitVec 6) (a : BitVec 4)
  /-- CDIST (R343). Distance between two capability cursors. -/
  | cdist (d : BitVec 6) (a : BitVec 4) (b : BitVec 4)
  /-- CADVI (R345). Advances the capability cursor by an immediate. -/
  | cadvi (d : BitVec 4) (a : BitVec 4) (i : BitVec 13)
  /-- MFC (R346). Reads a control register. -/
  | mfc (g : BitVec 6) (r : BitVec 12)
  /-- MTC (R347). Writes a control register. -/
  | mtc (g : BitVec 6) (r : BitVec 12)
  /-- MSC (R347). Sets bits of a control register. -/
  | msc (g : BitVec 6) (r : BitVec 12)
  /-- MCC (R347). Clears bits of a control register. -/
  | mcc (g : BitVec 6) (r : BitVec 12)
  /-- SPL (R351). Loads a general register from a spill slot. -/
  | spl (g : BitVec 6) (s : BitVec 10)
  /-- SPS (R351). Stores a general register to a spill slot. -/
  | sps (g : BitVec 6) (s : BitVec 10)
  /-- SPLV (R351). Loads a vector from 16 spill slots. -/
  | splv (v : BitVec 5) (s : BitVec 10)
  /-- SPSV (R351). Stores a vector to 16 spill slots. -/
  | spsv (v : BitVec 5) (s : BitVec 10)
  /-- SPLC (R351). Loads a capability from a slot pair with its tag. -/
  | splc (x : BitVec 4) (s : BitVec 10)
  /-- SPSC (R351). Stores a capability to a slot pair with its tag. -/
  | spsc (x : BitVec 4) (s : BitVec 10)
  /-- VADD (R369). Lane-wise 32-bit add. -/
  | vadd (d : BitVec 5) (a : BitVec 5) (b : BitVec 5) (k : BitVec 3)
  /-- VSUB (R369). Lane-wise subtract. -/
  | vsub (d : BitVec 5) (a : BitVec 5) (b : BitVec 5) (k : BitVec 3)
  /-- VMUL (R369). Lane-wise low product. -/
  | vmul (d : BitVec 5) (a : BitVec 5) (b : BitVec 5) (k : BitVec 3)
  /-- VMULH (R369). Lane-wise high product, signed or unsigned. -/
  | vmulh (d : BitVec 5) (a : BitVec 5) (b : BitVec 5) (k : BitVec 3) (z : BitVec 1)
  /-- VMIN (R369). Lane-wise minimum. -/
  | vmin (d : BitVec 5) (a : BitVec 5) (b : BitVec 5) (k : BitVec 3) (z : BitVec 1)
  /-- VMAX (R369). Lane-wise maximum. -/
  | vmax (d : BitVec 5) (a : BitVec 5) (b : BitVec 5) (k : BitVec 3) (z : BitVec 1)
  /-- VABS (R369). Lane-wise absolute value. -/
  | vabs (d : BitVec 5) (a : BitVec 5) (k : BitVec 3)
  /-- VNEG (R369). Lane-wise negation. -/
  | vneg (d : BitVec 5) (a : BitVec 5) (k : BitVec 3)
  /-- VAND (R369). Lane-wise AND. -/
  | vand (d : BitVec 5) (a : BitVec 5) (b : BitVec 5) (k : BitVec 3)
  /-- VOR (R369). Lane-wise OR. -/
  | vor (d : BitVec 5) (a : BitVec 5) (b : BitVec 5) (k : BitVec 3)
  /-- VXOR (R369). Lane-wise XOR. -/
  | vxor (d : BitVec 5) (a : BitVec 5) (b : BitVec 5) (k : BitVec 3)
  /-- VSHL (R369). Lane-wise shift left. -/
  | vshl (d : BitVec 5) (a : BitVec 5) (b : BitVec 5) (k : BitVec 3)
  /-- VSHR (R369). Lane-wise logical shift right. -/
  | vshr (d : BitVec 5) (a : BitVec 5) (b : BitVec 5) (k : BitVec 3)
  /-- VSHA (R369). Lane-wise arithmetic shift right. -/
  | vsha (d : BitVec 5) (a : BitVec 5) (b : BitVec 5) (k : BitVec 3)
  /-- VCLMUL (R369). Low word of the carry-less product. -/
  | vclmul (d : BitVec 5) (a : BitVec 5) (b : BitVec 5) (k : BitVec 3)
  /-- VCLMULH (R369). High word of the carry-less product. -/
  | vclmulh (d : BitVec 5) (a : BitVec 5) (b : BitVec 5) (k : BitVec 3)
  /-- VPOPC (R369). Lane-wise population count. -/
  | vpopc (d : BitVec 5) (a : BitVec 5) (k : BitVec 3)
  /-- FADD (R370). Floating-point add, rounded RNE. -/
  | fadd (d : BitVec 5) (a : BitVec 5) (b : BitVec 5) (k : BitVec 3) (t : BitVec 2) (i : BitVec 1) (u : BitVec 1)
  /-- FSUB (R370). Floating-point subtract. -/
  | fsub (d : BitVec 5) (a : BitVec 5) (b : BitVec 5) (k : BitVec 3) (t : BitVec 2) (i : BitVec 1) (u : BitVec 1)
  /-- FMUL (R370). Floating-point multiply. -/
  | fmul (d : BitVec 5) (a : BitVec 5) (b : BitVec 5) (k : BitVec 3) (t : BitVec 2) (i : BitVec 1) (u : BitVec 1)
  /-- FMIN (R370). Floating-point minimumNumber. -/
  | fmin (d : BitVec 5) (a : BitVec 5) (b : BitVec 5) (k : BitVec 3) (t : BitVec 2) (i : BitVec 1) (u : BitVec 1)
  /-- FMAX (R370). Floating-point maximumNumber. -/
  | fmax (d : BitVec 5) (a : BitVec 5) (b : BitVec 5) (k : BitVec 3) (t : BitVec 2) (i : BitVec 1) (u : BitVec 1)
  /-- FABS (R371). Clears the sign bit. -/
  | fabs (d : BitVec 5) (a : BitVec 5) (k : BitVec 3) (t : BitVec 2)
  /-- FNEG (R371). Inverts the sign bit. -/
  | fneg (d : BitVec 5) (a : BitVec 5) (k : BitVec 3) (t : BitVec 2)
  /-- FCLASS (R371). Writes a one-hot class mask. -/
  | fclass (d : BitVec 5) (a : BitVec 5) (k : BitVec 3) (t : BitVec 2)
  /-- VFMA (R370). Fused multiply-add with one rounding. -/
  | vfma (d : BitVec 5) (a : BitVec 5) (b : BitVec 5) (k : BitVec 3) (t : BitVec 2) (i : BitVec 1) (u : BitVec 1)
  /-- VFMS (R370). Fused multiply-subtract. -/
  | vfms (d : BitVec 5) (a : BitVec 5) (b : BitVec 5) (k : BitVec 3) (t : BitVec 2) (i : BitVec 1) (u : BitVec 1)
  /-- VFNMA (R370). Fused negative multiply-add. -/
  | vfnma (d : BitVec 5) (a : BitVec 5) (b : BitVec 5) (k : BitVec 3) (t : BitVec 2) (i : BitVec 1) (u : BitVec 1)
  /-- VCMP.EQ (R372). Lane-wise equality compare into a mask. -/
  | vcmpEq (d : BitVec 3) (a : BitVec 5) (b : BitVec 5) (k : BitVec 3) (t : BitVec 3)
  /-- VCMP.NE (R372). Lane-wise inequality compare. -/
  | vcmpNe (d : BitVec 3) (a : BitVec 5) (b : BitVec 5) (k : BitVec 3) (t : BitVec 3)
  /-- VCMP.LT (R372). Lane-wise less-than compare. -/
  | vcmpLt (d : BitVec 3) (a : BitVec 5) (b : BitVec 5) (k : BitVec 3) (t : BitVec 3)
  /-- VCMP.LE (R372). Lane-wise less-or-equal compare. -/
  | vcmpLe (d : BitVec 3) (a : BitVec 5) (b : BitVec 5) (k : BitVec 3) (t : BitVec 3)
  /-- VCMP.UNORD (R372). Lane-wise unordered test for floating-point types. -/
  | vcmpUnord (d : BitVec 3) (a : BitVec 5) (b : BitVec 5) (k : BitVec 3) (t : BitVec 3)
  /-- VSEL (R373). Selects lanes by a mask. -/
  | vsel (d : BitVec 5) (a : BitVec 5) (b : BitVec 5) (k : BitVec 3)
  /-- VPERM (R373). Permutes lanes by index. -/
  | vperm (d : BitVec 5) (a : BitVec 5) (b : BitVec 5) (k : BitVec 3)
  /-- VBCAST (R373). Broadcasts a general register to the active lanes. -/
  | vbcast (d : BitVec 5) (a : BitVec 5) (k : BitVec 3)
  /-- VEXT (R373). Extracts one lane to a general register. -/
  | vext (d : BitVec 5) (a : BitVec 5) (b : BitVec 5)
  /-- VINS (R373). Inserts a general register into one lane. -/
  | vins (d : BitVec 5) (a : BitVec 5) (b : BitVec 5)
  /-- VRED.ADD (R375). Add reduction over the active lanes by the fixed tree. -/
  | vredAdd (d : BitVec 5) (a : BitVec 5) (t : BitVec 2) (k : BitVec 3)
  /-- VRED.MIN (R375). Minimum reduction. -/
  | vredMin (d : BitVec 5) (a : BitVec 5) (t : BitVec 2) (k : BitVec 3)
  /-- VRED.MAX (R375). Maximum reduction. -/
  | vredMax (d : BitVec 5) (a : BitVec 5) (t : BitVec 2) (k : BitVec 3)
  /-- VRED.AND (R375). AND reduction. -/
  | vredAnd (d : BitVec 5) (a : BitVec 5) (t : BitVec 2) (k : BitVec 3)
  /-- VRED.OR (R375). OR reduction. -/
  | vredOr (d : BitVec 5) (a : BitVec 5) (t : BitVec 2) (k : BitVec 3)
  /-- VRED.XOR (R375). XOR reduction. -/
  | vredXor (d : BitVec 5) (a : BitVec 5) (t : BitVec 2) (k : BitVec 3)
  /-- VIOTA (R373). Writes each active lane's rank. -/
  | viota (d : BitVec 5) (k : BitVec 3)
  /-- KAND (R373). Mask AND. -/
  | kand (d : BitVec 3) (a : BitVec 3) (b : BitVec 3)
  /-- KOR (R373). Mask OR. -/
  | kor (d : BitVec 3) (a : BitVec 3) (b : BitVec 3)
  /-- KXOR (R373). Mask XOR. -/
  | kxor (d : BitVec 3) (a : BitVec 3) (b : BitVec 3)
  /-- KNOT (R373). Mask NOT. -/
  | knot (d : BitVec 3) (a : BitVec 3)
  /-- KPOP (R373). Counts the ones of a mask. -/
  | kpop (d : BitVec 5) (a : BitVec 3)
  /-- KFROMG (R373). Loads a mask from a general register. -/
  | kfromg (d : BitVec 3) (a : BitVec 5)
  /-- VCVT (R377). Converts all lanes between formats with a rounding mode. -/
  | vcvt (d : BitVec 5) (a : BitVec 5) (t : BitVec 4) (s : BitVec 4) (r : BitVec 3) (x : BitVec 1) (i : BitVec 1) (u : BitVec 1)
  /-- VEXP2 (R378). Lane-wise 2^x. -/
  | vexp2 (d : BitVec 5) (a : BitVec 5) (k : BitVec 3)
  /-- VLOG2 (R378). Lane-wise log2 x. -/
  | vlog2 (d : BitVec 5) (a : BitVec 5) (k : BitVec 3)
  /-- VRCP (R378). Lane-wise reciprocal. -/
  | vrcp (d : BitVec 5) (a : BitVec 5) (k : BitVec 3)
  /-- VRSQ (R378). Lane-wise reciprocal square root. -/
  | vrsq (d : BitVec 5) (a : BitVec 5) (k : BitVec 3)
  /-- VTANH (R378). Lane-wise tanh. -/
  | vtanh (d : BitVec 5) (a : BitVec 5) (k : BitVec 3)
  /-- VSIG (R378). Lane-wise sigmoid. -/
  | vsig (d : BitVec 5) (a : BitVec 5) (k : BitVec 3)
  /-- LD.S8 (R354). Sign-extending 1-byte pad load. -/
  | ldS8 (g : BitVec 6) (c : BitVec 4) (o : BitVec 12)
  /-- LD.S16 (R354). Sign-extending 2-byte pad load. -/
  | ldS16 (g : BitVec 6) (c : BitVec 4) (o : BitVec 12)
  /-- LD.S32 (R354). Sign-extending 4-byte pad load. -/
  | ldS32 (g : BitVec 6) (c : BitVec 4) (o : BitVec 12)
  /-- LD.S64 (R354). 8-byte pad load. -/
  | ldS64 (g : BitVec 6) (c : BitVec 4) (o : BitVec 12)
  /-- LD.Z8 (R354). Zero-extending 1-byte pad load. -/
  | ldZ8 (g : BitVec 6) (c : BitVec 4) (o : BitVec 12)
  /-- LD.Z16 (R354). Zero-extending 2-byte pad load. -/
  | ldZ16 (g : BitVec 6) (c : BitVec 4) (o : BitVec 12)
  /-- LD.Z32 (R354). Zero-extending 4-byte pad load. -/
  | ldZ32 (g : BitVec 6) (c : BitVec 4) (o : BitVec 12)
  /-- LD.ACQ (R355). Acquiring pad load of 4 or 8 bytes at a scope. -/
  | ldAcq (g : BitVec 6) (c : BitVec 4) (s : BitVec 3) (w : BitVec 1) (o : BitVec 7)
  /-- ST.S8 (R354). 1-byte pad store. -/
  | stS8 (g : BitVec 6) (c : BitVec 4) (o : BitVec 12)
  /-- ST.S16 (R354). 2-byte pad store. -/
  | stS16 (g : BitVec 6) (c : BitVec 4) (o : BitVec 12)
  /-- ST.S32 (R354). 4-byte pad store. -/
  | stS32 (g : BitVec 6) (c : BitVec 4) (o : BitVec 12)
  /-- ST.S64 (R354). 8-byte pad store. -/
  | stS64 (g : BitVec 6) (c : BitVec 4) (o : BitVec 12)
  /-- ST.REL (R355). Releasing pad store of 4 or 8 bytes at a scope. -/
  | stRel (g : BitVec 6) (c : BitVec 4) (s : BitVec 3) (w : BitVec 1) (o : BitVec 7)
  /-- LDV (R356). Masked 128-byte vector load. -/
  | ldv (v : BitVec 5) (c : BitVec 4) (k : BitVec 3) (o : BitVec 12)
  /-- STV (R356). Masked 128-byte vector store. -/
  | stv (v : BitVec 5) (c : BitVec 4) (k : BitVec 3) (o : BitVec 12)
  /-- LDVG (R357). Gathers one element per active lane. -/
  | ldvg (d : BitVec 5) (c : BitVec 4) (a : BitVec 5) (k : BitVec 3) (s : BitVec 2)
  /-- STVS (R357). Scatters one element per active lane. -/
  | stvs (d : BitVec 5) (c : BitVec 4) (a : BitVec 5) (k : BitVec 3) (s : BitVec 2)
  /-- LDC (R359). Loads a tagged capability from a pad granule. -/
  | ldc (d : BitVec 4) (c : BitVec 4) (o : BitVec 12)
  /-- STC (R359). Stores a capability with its tag to a pad granule. -/
  | stc (d : BitVec 4) (c : BitVec 4) (o : BitVec 12)
  /-- AADD (R361). Pad atomic add. -/
  | aadd (d : BitVec 6) (c : BitVec 4) (b : BitVec 6) (w : BitVec 1) (a : BitVec 1) (l : BitVec 1) (s : BitVec 2)
  /-- AAND (R361). Pad atomic AND. -/
  | aand (d : BitVec 6) (c : BitVec 4) (b : BitVec 6) (w : BitVec 1) (a : BitVec 1) (l : BitVec 1) (s : BitVec 2)
  /-- AOR (R361). Pad atomic OR. -/
  | aor (d : BitVec 6) (c : BitVec 4) (b : BitVec 6) (w : BitVec 1) (a : BitVec 1) (l : BitVec 1) (s : BitVec 2)
  /-- AXOR (R361). Pad atomic XOR. -/
  | axor (d : BitVec 6) (c : BitVec 4) (b : BitVec 6) (w : BitVec 1) (a : BitVec 1) (l : BitVec 1) (s : BitVec 2)
  /-- AMIN (R361). Pad atomic signed minimum. -/
  | amin (d : BitVec 6) (c : BitVec 4) (b : BitVec 6) (w : BitVec 1) (a : BitVec 1) (l : BitVec 1) (s : BitVec 2)
  /-- AMAX (R361). Pad atomic signed maximum. -/
  | amax (d : BitVec 6) (c : BitVec 4) (b : BitVec 6) (w : BitVec 1) (a : BitVec 1) (l : BitVec 1) (s : BitVec 2)
  /-- AMINZ (R361). Pad atomic unsigned minimum. -/
  | aminz (d : BitVec 6) (c : BitVec 4) (b : BitVec 6) (w : BitVec 1) (a : BitVec 1) (l : BitVec 1) (s : BitVec 2)
  /-- AMAXZ (R361). Pad atomic unsigned maximum. -/
  | amaxz (d : BitVec 6) (c : BitVec 4) (b : BitVec 6) (w : BitVec 1) (a : BitVec 1) (l : BitVec 1) (s : BitVec 2)
  /-- ASWP (R361). Pad atomic swap. -/
  | aswp (d : BitVec 6) (c : BitVec 4) (b : BitVec 6) (w : BitVec 1) (a : BitVec 1) (l : BitVec 1) (s : BitVec 2)
  /-- ACAS (R361). Pad atomic compare-and-swap. -/
  | acas (d : BitVec 6) (c : BitVec 4) (b : BitVec 6) (w : BitVec 1) (a : BitVec 1) (l : BitVec 1) (s : BitVec 2)
  /-- TLD (R384). Queues a load of tile-register rows from the pad. -/
  | tld (t : BitVec 3) (c : BitVec 4) (r : BitVec 5) (a : BitVec 1) (l : BitVec 1) (s : BitVec 3)
  /-- TST (R384). Queues a store of tile-register rows to the pad. -/
  | tst (t : BitVec 3) (c : BitVec 4) (r : BitVec 5) (a : BitVec 1) (l : BitVec 1) (s : BitVec 3)
  /-- TZERO (R385). Zeroes a tile register. -/
  | tzero (t : BitVec 3)
  /-- TZERO.INV (R385). Invalidates and frees a tile register. -/
  | tzeroInv (t : BitVec 3)
  /-- TMOV (R385). Copies one tile register to another. -/
  | tmov (t : BitVec 3) (s : BitVec 3)
  /-- TLDV (R385). Writes a vector into 32 columns of a tile-register row. -/
  | tldv (t : BitVec 3) (v : BitVec 5) (r : BitVec 5) (b : BitVec 3)
  /-- TSTV (R385). Reads 32 columns of a tile-register row into a vector. -/
  | tstv (t : BitVec 3) (v : BitVec 5) (r : BitVec 5) (b : BitVec 3)
  /-- TSTAT (R385). Samples a tile register's status without waiting. -/
  | tstat (t : BitVec 3) (g : BitVec 6)
  /-- MMA (R387). Queues a matrix multiply-accumulate of an A block against a macro set. -/
  | mma (t : BitVec 3) (c : BitVec 4) (f : BitVec 3) (r : BitVec 5) (s : BitVec 3) (b : BitVec 1) (z : BitVec 1) (l : BitVec 1)
  /-- MMAS (R387). Queues a segmented matrix operation writing one part per register. -/
  | mmas (t : BitVec 3) (c : BitVec 4) (f : BitVec 3) (r : BitVec 5) (s : BitVec 3) (b : BitVec 1) (z : BitVec 1) (l : BitVec 1)
  /-- MLDB (R389). Queues a write of a whole macro set from the pad. -/
  | mldb (c : BitVec 4) (f : BitVec 3) (b : BitVec 1) (i : BitVec 1)
  /-- MGO (R392). Queues a nest from a slot. -/
  | mgo (s : BitVec 2)
  /-- MGO.CO (R394). Queues a cooperative nest over a tile rectangle. -/
  | mgoCo (s : BitVec 2)
  /-- MPAUSE (R396). Pauses another context's running nest at an iteration boundary. -/
  | mpause
  /-- MRESUME (R396). Resumes a paused nest. -/
  | mresume
  /-- MWAIT (R395). Waits for the context's direct matrix operations and raises their statuses. -/
  | mwait
  /-- MWAIT.NEST (R395). Waits for a nest slot to be DONE and frees it. -/
  | mwaitNest (s : BitVec 2)
  /-- MWAKE (R397). Starts wakes of gated bands. -/
  | mwake (b : BitVec 4)
  /-- MSHAPE (R397). Sets the participating bands. -/
  | mshape (b : BitVec 4)
  /-- MFID (R397). Sets fidelity level and rate and starts a new direct-issue run. -/
  | mfid (l : BitVec 2) (r : BitVec 2)
  /-- MREP (R398). Repeats the next packet's word 2 n times with address and register streams. -/
  | mrep (n : BitVec 10) (a : BitVec 5) (b : BitVec 5) (d : BitVec 5)
  /-- SCACC (R390). Queues a scaled accumulation of a partial tile register. -/
  | scacc (d : BitVec 3) (c : BitVec 4) (p : BitVec 3) (r : BitVec 5) (i : BitVec 1) (u : BitVec 1)
  /-- SEND (R403). Takes window and emits a channel payload from a pad buffer. -/
  | send (g : BitVec 6) (h : BitVec 6) (c : BitVec 4) (a : BitVec 1) (l : BitVec 1) (s : BitVec 3)
  /-- SENDT (R403). Sends 8 bytes from a register on a channel. -/
  | sendt (g : BitVec 6) (h : BitVec 6) (a : BitVec 1) (l : BitVec 1) (s : BitVec 3)
  /-- RECV (R405). Consumes the oldest payload of an unarmed channel, sending the deferred return. -/
  | recv (g : BitVec 6) (h : BitVec 6)
  /-- CHWAIT (R406). Waits for earlier sends to read their buffers, or sends the deferred return. -/
  | chwait (h : BitVec 6)
  /-- CHARM (R407). Arms or disarms a receive channel for a handler context. -/
  | charm (g : BitVec 6) (h : BitVec 6)
  /-- CHSTAT (R408). Samples CHN_STAT with a ready bit. -/
  | chstat (g : BitVec 6) (h : BitVec 6)
  /-- XLD (R412). Engine load from external memory into the pad. -/
  | xld (t : BitVec 4) (c : BitVec 4) (slot : BitVec 2) (a : BitVec 1) (l : BitVec 1) (sc : BitVec 3) (p : BitVec 1)
  /-- XST (R412). Engine store from the pad to external memory. -/
  | xst (t : BitVec 4) (c : BitVec 4) (slot : BitVec 2) (a : BitVec 1) (l : BitVec 1) (sc : BitVec 3)
  /-- XRED (R412). Engine reduction into external memory. -/
  | xred (t : BitVec 4) (c : BitVec 4) (slot : BitVec 2) (a : BitVec 1) (l : BitVec 1) (sc : BitVec 3) (o : BitVec 3) (n : BitVec 3) (m : BitVec 1)
  /-- XATOM (R412). Engine atomic on external memory. -/
  | xatom (t : BitVec 4) (c : BitVec 4) (slot : BitVec 2) (a : BitVec 1) (l : BitVec 1) (sc : BitVec 3) (f : BitVec 4) (w : BitVec 1)
  /-- XPF (R412). Engine prefetch that warms translations. -/
  | xpf (t : BitVec 4) (c : BitVec 4) (slot : BitVec 2) (a : BitVec 1) (sc : BitVec 3)
  /-- XWAIT (R414). Waits for an engine command, consumes it, and raises its status. -/
  | xwait (t : BitVec 4)
  /-- XTEST (R415). Tests an engine token without waiting. -/
  | xtest (t : BitVec 4) (d : BitVec 6)
  /-- BARR (R418). Barrier arrival with release at scope GRP, returning the phase token. -/
  | barr (g : BitVec 6) (w : BitVec 2)
  /-- BWAIT (R419). Waits for the group phase to pass a token. -/
  | bwait (g : BitVec 6) (p : BitVec 3) (w : BitVec 2)
  /-- BTEST (R419). Tests whether the phase has passed a token. -/
  | btest (g : BitVec 6) (p : BitVec 3) (w : BitVec 2)
  /-- WKPOST (R420). Posts a nest descriptor to a walker. -/
  | wkpost (c : BitVec 4) (w : BitVec 2)
  /-- WKNEXT (R421). Makes the tile eligible and waits for an iteration or exhaustion. -/
  | wknext (p : BitVec 3) (w : BitVec 2)
  /-- HWIN (R422). Applies the host ingress buffer to the pad. -/
  | hwin (g : BitVec 6)
  /-- SWAP (R423). Commits the guarded pass and opens the next. -/
  | swap
  /-- PWRQ (R424). Requests a current grant class. -/
  | pwrq (k : BitVec 4)
  /-- PWRREL (R424). Returns the grant to class 4. -/
  | pwrrel
  /-- STG (R363). Stores a value only if it equals its duplicate, and raises CHECK otherwise. -/
  | stg (a : BitVec 6) (c : BitVec 4) (b : BitVec 6) (s : BitVec 2) (o : BitVec 7)
  /-- POWER_UP (R17). When input power appears, the management controller runs the ordered power-up sequence from the 6 V bus to a ready wafer. -/
  | powerUp
  /-- POWER_DOWN (R18). The power-up steps run in reverse: slice rails fall before the core rail, and the core rail before the 6 V bus. -/
  | powerDown
  /-- CONVERTER_FAIL (R16). An edge converter fails; from the second failure on, the power limit drops by 2.4 kW, field budgets scale, and at 26.4 kW or less every plot is suspended. -/
  | converterFail
  /-- FLOW_LOW (R23). Coolant flow stays below 50 L/min for 1 s; every thermal step is set to 8 and the limit drops to 18 kW. -/
  | flowLow
  /-- FLOW_RESTORED (R23). Flow stays at or above 50 L/min for 1 s, and the converter-based power limit is restored. -/
  | flowRestored
  /-- THERMAL_STEP_UP (R24). Every 100 µs while the hottest sensor is at or above 95 °C, the field thermal step rises by 1, up to 8. -/
  | thermalStepUp (f : BitVec 6)
  /-- THERMAL_STEP_DOWN (R24). Every 1 ms while the hottest sensor is below 90 °C, the field thermal step falls by 1, down to 0. -/
  | thermalStepDown (f : BitVec 6)
  /-- FIELD_TRIP (R24). An over-temperature condition power-gates the field, sets tripped, and removes the field. -/
  | fieldTrip (f : BitVec 6)
  /-- DROOP_ALARM (R21). A droop sensor reads below 368 mV, and within one cycle the field clock period is stretched by 3/2. -/
  | droopAlarm (f : BitVec 6)
  /-- DROOP_END (R21). Every sensor of the field has read above 380 mV for 64 consecutive cycles, and the stretch ends. -/
  | droopEnd (f : BitVec 6)
  /-- MEASUREMENT_UPDATE (R26). Every 10 µs the measured fields vin, pin, i_fld and temp, and the port health fields, are resampled. -/
  | measurementUpdate (m : Measurement)
  /-- GRAFT_REQUEST (R47). A write of 1 to MAP_GREQ.go, or a threshold request, starts a graft sending the graft start on class 0, or is ignored or queued. -/
  | graftRequest (t : BitVec 14)
  /-- GRAFT_QUEUED_START (R89). A waiting graft request starts after the earlier graft of the field commits. -/
  | graftQueuedStart (f : BitVec 6)
  /-- GRAFT_TILE_STOPPED (R90). The failing tile's contexts stop at packet boundaries and it returns its tickets (step 2). -/
  | graftTileStopped (f : BitVec 6)
  /-- GRAFT_DRAINED (R90). The router buffers are empty and the graft engine begins copying the tile state to the spare on class 3. -/
  | graftDrained (f : BitVec 6)
  /-- GRAFT_COPY_DONE (R90). The copy completes and the map update is sent on class 0 to every router that holds the entry. -/
  | graftCopyDone (f : BitVec 6) (ok : Bool)
  /-- GRAFT_MAP_SWITCH (R90). Once every router has acknowledged, all routers switch in one cycle, the generation is incremented, and the spare resumes. -/
  | graftMapSwitch (f : BitVec 6)
  /-- FULL_REMAP (R93). The affected plots are pre-empted, the map is recomputed keeping logical coordinates, changed rows are loaded, and the plots are restored or suspended. -/
  | fullRemap
  /-- LINK_FAIL (R78). A link passes its uncorrectable threshold, or its far router stops answering credits for 4,096 cycles, and it is marked failed at both ends. -/
  | linkFail (site : BitVec 14) (l : BitVec 3)
  /-- ROUTER_FORWARD (R74). A router receives a flit, routes the packet by dimension order or the escape set, and forwards or ejects it. -/
  | routerForward (j : Nat)
  /-- LINK_FLIT_RECEIVE (R52). An optical port receives a link flit and delivers DATA flits in sequence, or discards later flits and sends NAK. -/
  | linkFlitReceive (p : BitVec 7) (flit : LinkFlit)
  /-- NAK_RECEIVE (R52). The sender receives a NAK and resends from the named sequence number plus one. -/
  | nakReceive (p : BitVec 7) (q : BitVec 13)
  /-- IDLE_SEND (R52). With no other traffic for 64 flit times, the port sends an IDLE carrying ack. -/
  | idleSend (p : BitVec 7)
  /-- ALLOW_RECEIVE (R53). An ALLOW flit returns per-class allowance units to the sender. -/
  | allowReceive (p : BitVec 7) (cls : BitVec 2) (units : BitVec 13)
  /-- WAVELENGTH_FAIL (R59). A data wavelength fails, and the port maps the spare onto it or narrows. -/
  | wavelengthFail (p : BitVec 7) (w : BitVec 4) (also : BitVec 9)
  /-- NARROW_RECEIVE (R62). A port receives NARROW, stops DATA flits, answers with its mask and computes the new width. -/
  | narrowReceive (p : BitVec 7) (mask : BitVec 4)
  /-- NARROW_RESTRIPED (R62). Restriping and deskew complete, and the end sends RESUME carrying its ack. -/
  | narrowRestriped (p : BitVec 7)
  /-- RESUME_RECEIVE (R62). A port receives RESUME and resends from the acknowledged number plus one. -/
  | resumeReceive (p : BitVec 7) (ack : BitVec 13)
  /-- NARROW_TIMEOUT (R63). No NARROW answer arrives within 1 ms, and the port goes DOWN. -/
  | narrowTimeout (p : BitVec 7)
  /-- LASER_WINDOW (R65). At the end of each 100 µs use window, the port moves between BLOOM and BUD by the policy thresholds. -/
  | laserWindow (p : BitVec 7) (pct : BitVec 8)
  /-- PORT_DARK_TIMEOUT (R65). A port idle in BUD for dark_ms goes DARK. -/
  | portDarkTimeout (p : BitVec 7)
  /-- PORT_WAKE (R65). A packet queued for a BUD or DARK port brings it to BLOOM. -/
  | portWake (p : BitVec 7)
  /-- BRINGUP_DONE (R60). Port bring-up ends with wafer ids and rates exchanged and the laser in BLOOM, or with queued requests completing with PEERUNREACH. -/
  | bringupDone (p : BitVec 7) (ok : Bool) (far : BitVec 8) (farSlow : Bool) (bad : BitVec 9) (farMask : BitVec 4)
  /-- PEER_REQUEST_ARRIVAL (R56). A peer request arriving at a wafer is served there, forwarded with an incremented hop count, or answered PEERUNREACH. -/
  | peerRequestArrival (p : BitVec 7) (cls : BitVec 2)
  /-- PEER_ANSWER_RETURN (R431). An answer to a peer request retraces the recorded ports to the requester. -/
  | peerAnswerReturn (p : BitVec 7) (cls : BitVec 2) (tag : BitVec 10) (status : BitVec 4)
  /-- RECONF_DRAINED (R66). A held port's drain completes and the port reports ready for the switch move. -/
  | reconfDrained (p : BitVec 7)
  /-- RECONF_DRAIN_TIMEOUT (R66). The drain has not ended 100 ms after hold: unanswered requests complete with PEERUNREACH and the port reports ready. -/
  | reconfDrainTimeout (p : BitVec 7)
  /-- RECONF_RELOCK (R66). Light returns, the port retrains, starts the link with the new peer, writes OPT_PEER and clears hold. -/
  | reconfRelock (p : BitVec 7) (far : BitVec 8) (farSlow : Bool)
  /-- LIGHT_TIMEOUT (R432). No light 50 ms after the second call, or no relock 2 ms after light returns, gives FAILED and the port goes DOWN. -/
  | lightTimeout (p : BitVec 7)
  /-- HELD_PACKET_TIMEOUT (R67). A held peer packet still waiting 100 ms after hold, or with no valid new entry, completes with PEERUNREACH. -/
  | heldPacketTimeout (p : BitVec 7)
  /-- BLOCK_ISSUE (R97). The egress sequencer serves a tile's block request with 64 tickets, or withholds the block and sets wstall. -/
  | blockIssue (f : BitVec 6)
  /-- TICKET_IDLE_RETURN (R99). After 1,024 cycles without a stamped write, the tile returns the unused remainder of its block. -/
  | ticketIdleReturn (a : Agent)
  /-- SEQUENCER_RECALL (R99). The sequencer recalls a block that has been out for 2,048 cycles while everything after it is acknowledged. -/
  | sequencerRecall (f : BitVec 6) (a : Agent)
  /-- RECALL_ANSWER (R99). A tile receives a recall and returns its remaining tickets within 16 cycles. -/
  | recallAnswer (a : Agent)
  /-- ACK_FLIT_SEND (R101). An acknowledging agent sends its gathered tickets when the flit holds 24 tickets or its oldest ticket reaches 16 cycles. -/
  | ackFlitSend (a : Agent)
  /-- ACK_RECEIVE (R102). The sequencer marks the acknowledged or returned tickets and advances its stable point S. -/
  | ackReceive (f : BitVec 6)
  /-- STABLE_POST (R103). A sequencer posts a changed S into the trellis, at most once every 16 cycles. -/
  | stablePost (f : BitVec 6)
  /-- TRELLIS_BROADCAST (R103). The trellis broadcasts the stable vector G to every tile, cellar port and overflow buffer, at least every 64 cycles. -/
  | trellisBroadcast
  /-- G_UPDATE (R104). A receiver updates its copy of G, clamps V, and releases met packets from its early buffer. -/
  | gUpdate (a : Agent)
  /-- OVERFLOW_RETURN (R110). The overflow buffer returns a packet to its destination once it is met. -/
  | overflowReturn (f : BitVec 6)
  /-- CAUSAL_STALL (R112). A packet held 2^22 cycles with an unmoved dependence sets stall and is reported, and a resynchronisation follows. -/
  | causalStall (f : BitVec 6)
  /-- FIELD_REMOVAL (R115). A field is removed: its G entry freezes with REMOVED set, its contexts are lost and the affected plots fail. -/
  | fieldRemoval (f : BitVec 6)
  /-- VINTAGE_RESYNC (R117). All plots are pre-empted, links are drained, sequencers and G are reset, the vintage is incremented, and the plots are restored. -/
  | vintageResync
  /-- CHANNEL_PAYLOAD_ARRIVAL (R85). A channel packet reaches the ejection port and is held by the delivery rule, or written into the ring. -/
  | channelPayloadArrival (j : Nat)
  /-- PAYLOAD_FULLY_WRITTEN (R85). The last line of a payload is in the pad; the receive-path entry retires and the ticket is acknowledged. -/
  | payloadFullyWritten (t : BitVec 14) (ch : BitVec 6)
  /-- WINDOW_RETURN_SEND (R86). Coalesced window returns leave in one kind-1 packet, no later than 16 cycles after the oldest return. -/
  | windowReturnSend (t : BitVec 14) (ch : BitVec 6)
  /-- WINDOW_RETURN_RECEIVE (R86). The sender adds returned lines and packets to its window, capped at 2^size. -/
  | windowReturnReceive (j : Nat)
  /-- CELLAR_REQUEST (R131). A cellar port applies the delivery rule, translates, checks, and then serves or forwards an external request. -/
  | cellarRequest (k : BitVec 6)
  /-- TLB_HOME_QUERY (R131). A remote home slice answers a second-level TLB query. -/
  | tlbHomeQuery (k : BitVec 6)
  /-- WALK_DONE (R131). A page-table walk completes, fills the home slice and the first-level TLB, and the waiting requests proceed. -/
  | walkDone (k : BitVec 6)
  /-- FORWARD_RESPONSE (R134). A forwarded response returns; the forwarding port answers the requester and acknowledges the write's ticket. -/
  | forwardResponse (k : BitVec 6)
  /-- EXTERNAL_RESPONSE (R126). A response reaches the tile, writes read data with its poison into the pad, merges the stamp, and records the element status. -/
  | externalResponse (j : Nat)
  /-- LINE_REQUEST_EMIT (R413). The tile emits the next line request of an engine command, drawing a ticket for stamped writes. -/
  | lineRequestEmit (t : BitVec 14)
  /-- STAMP_WAIT_RELEASE (R107). A send or request waiting for too many pending entries leaves once enough become stable. -/
  | stampWaitRelease (t : BitVec 14)
  /-- CQ_ENTRY (R416). An XATOM reply to PEER lands in the completion queue, is applied at pa or kept, and may start the handler. -/
  | cqEntry (t : BitVec 14)
  /-- COUNTER_WRITEBACK (R135). A port writes its gathered access-counter increments back within 10 µs. -/
  | counterWriteback (k : BitVec 6)
  /-- COUNTER_DECAY (R135). Every 2^decay ms the racking engine halves every counter of the port's tables. -/
  | counterDecay (k : BitVec 6)
  /-- RACK_COMMAND (R136). A write of MEM_RACKQ word +0x28 enqueues a racking command, or drops it and counts bad. -/
  | rackCommand (k : BitVec 6) (leaf : BitVec 64)
  /-- RACK_COPY_DONE (R136). The last line of a racking is copied and the page enters SWITCH, holding its accesses. -/
  | rackCopyDone (k : BitVec 6) (va : BitVec 56)
  /-- RACK_SWITCH_DONE (R136). Forwarded requests under the old entry are done; the new entry is written, a shoot-down runs, and the held requests are released. -/
  | rackSwitchDone (k : BitVec 6) (va : BitVec 56)
  /-- RACK_ABORT (R137). The new frame's stack or port fails during COPY; the old entry stays and abort is counted. -/
  | rackAbort (k : BitVec 6) (va : BitVec 56)
  /-- MEM_RACKDONE_READ (R148). A read of MEM_RACKDONE pops one racking completion record, or returns 0. -/
  | memRackdoneRead (r : BarRead)
  /-- SHOOTDOWN (R138). A write of MEM_SHOOT while not busy starts a shoot-down to every member of the owner. -/
  | shootdown (k : BitVec 6) (v : BitVec 64)
  /-- SHOOTDOWN_INVALIDATE (R138). A member port drops the matching entries and acknowledges once its translated requests are performed. -/
  | shootdownInvalidate (k : BitVec 6) (m : BitVec 6)
  /-- SHOOTDOWN_ACK (R138). The initiating port counts acknowledgements and clears busy when all are in. -/
  | shootdownAck (k : BitVec 6) (m : BitVec 6)
  /-- STACK_RETIRE (R143). A write of RETIRING to MEM_STK.state begins the retirement of a stack. -/
  | stackRetire (k : BitVec 6)
  /-- REGISTER_WRITE (R148). A write to a register with no row of its own changes only its RW and W1C fields by their rules. -/
  | registerWrite (a : BarAddr) (dword : Bool) (v : BitVec 64)
  /-- BAR2_WRITE (R151). A BAR 2 write is cut into 64-byte host ingress entries sent toward the tile. -/
  | bar2Write (n : BitVec 2) (off : BitVec 36) (data : List Byte) (poison : Bool)
  /-- BAR2_READ (R150). A BAR 2 read returns pad bytes, or completes with Unsupported Request or Completer Abort. -/
  | bar2Read (n : BitVec 2) (off : BitVec 36) (len : BitVec 13)
  /-- BAR2_ATOMICOP (R150). An AtomicOp to BAR 2 completes with Unsupported Request. -/
  | bar2Atomicop (n : BitVec 2)
  /-- HOST_INGRESS_ENTRY (R151). A kind-13 entry reaches the tile's host ingress buffer, or waits in the corner field's posted queue. -/
  | hostIngressEntry (n : BitVec 2)
  /-- POSTED_QUEUE_TIMEOUT (R152). An ingress entry that has waited 1 ms is dropped, hwdrop is counted and HWN_PEND.lost is set. -/
  | postedQueueTimeout (n : BitVec 2)
  /-- BAR4_READ (R153). A BAR 4 read is translated at the owning cellar port and completes with data or Unsupported Request. -/
  | bar4Read (n : BitVec 2) (off : BitVec 34) (len : BitVec 13)
  /-- BAR4_WRITE (R153). A BAR 4 write becomes a stamped write of the corner field, or is dropped and counted in b4err. -/
  | bar4Write (n : BitVec 2) (off : BitVec 34) (data : List Byte) (poison : Bool)
  /-- BAR4_ATOMICOP (R153). An AtomicOp to BAR 4 is performed at the cellar port, or completes with Unsupported Request. -/
  | bar4Atomicop (n : BitVec 2) (off : BitVec 34) (op : PcieAtomic) (w64 : Bool) (a : BitVec 64) (c : BitVec 64)
  /-- HOST_COMPLETION (R154). A PCIe completion for an owner-60 request maps to an element status. -/
  | hostCompletion (n : BitVec 2) (cpl : Completion)
  /-- HOST_COMPLETION_TIMEOUT (R154). A host request with no completion within 50 ms completes with BADREQ. -/
  | hostCompletionTimeout (n : BitVec 2)
  /-- CTRL_ACCESS (R149). The control-space interface performs an owner-63 access on BAR 0 registers in arrival order and answers it. -/
  | ctrlAccess
  /-- LINK_TRAIN (R145). A PCIe link trains to the best generation and width it shares with its partner. -/
  | linkTrain (n : BitVec 2) (gen : BitVec 3) (width : BitVec 5)
  /-- LINK_DOWN (R158). A PCIe link goes down, and it loses wafer ownership if it held it. -/
  | linkDown (n : BitVec 2)
  /-- CLAIM (R158). Mailbox command 0x01 makes the link the owner if no link, or this link, owns the wafer, and otherwise answers BUSY. -/
  | claim (n : BitVec 2)
  /-- UNCLAIM (R158). Mailbox command 0x02 gives up ownership of the wafer. -/
  | unclaim (n : BitVec 2)
  /-- PLOT_CREATE (R42). Mailbox command 0x10 runs the allocation query and returns a plot number, base and handles, or BADSHAPE or NOFIT. -/
  | plotCreate (n : BitVec 2) (w : Nat) (h : Nat) (align : Bool) (nowrap : Bool) (x0 : BitVec 7) (y0 : BitVec 7)
  /-- PLOT_LOAD (R164). Mailbox command 0x11 reads and checks the image set and stores it, or answers BADIMAGE. -/
  | plotLoad (n : BitVec 2) (plot : BitVec 16) (img : ImageSet) (test : Bool)
  /-- PLOT_START (R193). Mailbox command 0x12 checks pools, grants the release classes, writes the tiles and releases the plot. -/
  | plotStart (n : BitVec 2) (plot : BitVec 16)
  /-- PLOT_STATUS (R163). Mailbox command 0x13 returns the plot state and any failed sector. -/
  | plotStatus (n : BitVec 2) (plot : BitVec 16)
  /-- PLOT_RETIRE (R167). Mailbox command 0x14 retires the plot at once, pre-empting it without a save if it is running. -/
  | plotRetire (n : BitVec 2) (plot : BitVec 16)
  /-- REMAP (R93). Mailbox command 0x15 runs a full remap and answers OK when it completes. -/
  | remap (n : BitVec 2)
  /-- RESYNC (R117). Mailbox command 0x16 runs a vintage resynchronisation and answers OK when it completes. -/
  | resync (n : BitVec 2)
  /-- FIELD_CLEAR (R24). Mailbox command 0x20 clears a tripped field once every sensor is below 60 °C, and otherwise answers FAILED. -/
  | fieldClear (n : BitVec 2) (f : BitVec 6) (cool : Bool)
  /-- PORT_RESTART (R63). Mailbox command 0x21 runs a full bring-up of a DOWN port. -/
  | portRestart (n : BitVec 2) (p : BitVec 7)
  /-- SWITCH_RECONF (R432). The first SWITCH_RECONF call holds and drains the named ports and reports each ready or FAILED. -/
  | switchReconf (n : BitVec 2) (ports : List (BitVec 7)) (table : List (BitVec 8 × BitVec 64))
  /-- SWITCH_RECONF_SECOND (R432). The second SWITCH_RECONF call, after the switch has moved, relocks the named ports and installs the new peer tables. -/
  | switchReconfSecond (n : BitVec 2) (ports : List (BitVec 7)) (table : List (BitVec 8 × BitVec 64))
  /-- SET_CREATE (R127). Mailbox command 0x23 creates an immutable interleave set with its table stack and root. -/
  | setCreate (n : BitVec 2) (members : BitVec 48) (tstk : BitVec 6) (root : BitVec 36)
  /-- SET_DELETE (R127). Mailbox command 0x24 deletes a set that has no valid leaf entry left. -/
  | setDelete (n : BitVec 2) (s : BitVec 4)
  /-- REDW_WRITE (R142). Mailbox command 0x25 writes a reduction window, which takes effect in every router within 300 cycles. -/
  | redwWrite (n : BitVec 2) (i : Nat) (v : BitVec 64)
  /-- PEERWIN_WRITE (R124). Mailbox command 0x26 writes a peer window. -/
  | peerwinWrite (n : BitVec 2) (i : Nat) (v : BitVec 64)
  /-- MAP_QUERY (R156). Mailbox command 0x27 returns the site, state and generation of a logical tile. -/
  | mapQuery (n : BitVec 2) (lx : BitVec 7) (ly : BitVec 7)
  /-- WAFER_ID (R55). Mailbox command 0x28 writes OPT_SELF.wafer while every port is DARK or DOWN, and otherwise answers BUSY. -/
  | waferId (n : BitVec 2) (id : BitVec 8)
  /-- PEER_WRITE (R56). Mailbox command 0x29 writes one OPT_PEER entry, or answers BUSY during a reconfiguration. -/
  | peerWrite (n : BitVec 2) (i : BitVec 8) (v : BitVec 64)
  /-- STACK_ROOT (R156). Mailbox command 0x2A writes MEM_STK.root, or answers BADARG for a bad root. -/
  | stackRoot (n : BitVec 2) (k : Nat) (root : BitVec 36)
  /-- SET_ROOT (R156). Mailbox command 0x2B writes MEM_SETROOT of a defined set. -/
  | setRoot (n : BitVec 2) (k : Nat) (root : BitVec 36)
  /-- PHYS_COPY (R157). Mailbox command 0x2C copies between host memory and stack-physical addresses sector by sector, without translation. -/
  | physCopy (n : BitVec 2) (toHost : Bool) (ha : BitVec 50) (k : Nat) (pa : BitVec 36) (len : BitVec 26)
  /-- AGENT_QUERY (R434). Mailbox command 0x2D returns the logical coordinate of an agent's attachment. -/
  | agentQuery (n : BitVec 2) (kind : Nat) (num : Nat)
  /-- FW_STAGE (R160). Mailbox command 0x30 verifies a firmware image and writes it into the bank that is not running. -/
  | fwStage (n : BitVec 2) (image : List Byte)
  /-- BAD_MAILBOX_COMMAND (R156). A command with an unlisted code completes with BADCMD. -/
  | badMailboxCommand (n : BitVec 2) (code : BitVec 16)
  /-- GET_VERSION (R161). The SPDM responder answers GET_VERSION. -/
  | getVersion
  /-- GET_CAPABILITIES (R161). The SPDM responder answers GET_CAPABILITIES. -/
  | getCapabilities
  /-- NEGOTIATE_ALGORITHMS (R161). The SPDM responder negotiates ECDSA P-521 with SHA-512. -/
  | negotiateAlgorithms
  /-- GET_DIGESTS (R161). The SPDM responder returns the certificate digests for slot 0. -/
  | getDigests
  /-- GET_CERTIFICATE (R161). The SPDM responder returns the slot 0 certificate chain. -/
  | getCertificate (slot : BitVec 8) (off : BitVec 16) (len : BitVec 16)
  /-- CHALLENGE (R161). The SPDM responder signs a challenge response. -/
  | challenge (slot : BitVec 8) (nonce : BitVec 256)
  /-- GET_MEASUREMENTS (R162). The SPDM responder returns measurement blocks 1 to 5, signed or unsigned. -/
  | getMeasurements (op : BitVec 8) (signed : Bool) (nonce : BitVec 256)
  /-- CHUNK_SEND (R161). The SPDM responder accepts one chunk of a large request. -/
  | chunkSend (last : Bool) (chunk : List Byte)
  /-- CHUNK_GET (R161). The SPDM responder returns one chunk of a large response. -/
  | chunkGet (seq : BitVec 16)
  /-- SPDM_UNSUPPORTED (R161). An unsupported SPDM request is answered with ERROR UnsupportedRequest. -/
  | spdmUnsupported (code : BitVec 8)
  /-- SLICE_EXPIRY (R181). A plot's time slice ends, and a waiting overlapping plot causes a pre-emption. -/
  | sliceExpiry (plot : BitVec 16)
  /-- PREEMPTION (R184). The management controller pre-empts a plot: contexts stop, external requests drain, images are saved twice, and the plot becomes SWAPPED. -/
  | preemption (plot : BitVec 16)
  /-- RESTORE (R186). A plot's images are read with mirror fallback, written to the tiles, the trellis state is restored and the tiles are released, or the plot fails. -/
  | restore (plot : BitVec 16)
  /-- PLOT_COMPLETION (R166). After the last context 0 halts, the plot is stopped, drained, cleared and becomes RETIRED. -/
  | plotCompletion (plot : BitVec 16)
  /-- BARRIER_COMPLETE (R173). The trellis root counts the last arrival and broadcasts completion, and each member advances its phase. -/
  | barrierComplete (plot : BitVec 16) (g : BitVec 8)
  /-- WALKER_HANDOFF (R177). A walker hands an iteration to an eligible tile, which loads g58 to g63 and starts or continues the context, or refuses it. -/
  | walkerHandoff (plot : BitVec 16) (w : BitVec 2)
  /-- FIELD_GRANT_SERVE (R191). The field controller grants the head request when it fits the pool and the 50 A per µs pacing. -/
  | fieldGrantServe (f : BitVec 6)
  /-- POWER_GRANT (R190). A grant reaches the tile, which sets the class and wakes the waiting context. -/
  | powerGrant (t : BitVec 14)
  /-- MONITOR_OVERRUN (R194). The monitor estimate exceeds the grant for 256 consecutive cycles; the tile throttles and makes POWER pending. -/
  | monitorOverrun (t : BitVec 14) (est : BitVec 4)
  /-- THROTTLE_END (R194). The estimate has been at or below the grant for 64 consecutive cycles, and throttling ends. -/
  | throttleEnd (t : BitVec 14)
  /-- BAND_GATE (R195). A band idle for MAT_IDLE cycles gates its power switch. -/
  | bandGate (t : BitVec 14) (bd : BitVec 2)
  /-- BAND_WAKE_ADMIT (R195). The field controller admits a band wake within the limit of 32 per µs. -/
  | bandWakeAdmit (f : BitVec 6)
  /-- BAND_WAKE_DONE (R195). A band becomes usable 220 cycles after admission. -/
  | bandWakeDone (t : BitVec 14) (bd : BitVec 2)
  /-- BALLAST (R196). When field load falls faster than 50 A per µs, zero-operand array cycles are run and then withdrawn in steps. -/
  | ballast (f : BitVec 6) (on : Bool)
  /-- SLICE_RAIL_FAULT (R197). A slice rail out of tolerance promotes that slice in every tile of the field and counts sfault. -/
  | sliceRailFault (f : BitVec 6) (sl : BitVec 2)
  /-- TIMING_REPLAY (R207). An issue group with a timing error is replayed, freezing the core for two cycles. -/
  | timingReplay (t : BitVec 14)
  /-- RAS_WINDOW_EXPIRY (R305). A RAS window ends, and the window counts and hit bits return to 0. -/
  | rasWindowExpiry (t : BitVec 14)
  /-- SCRUB (R291). Every 64 cycles the scrubber reads and corrects one pad line, and every 4,096 idle cycles it checks one macro-set row. -/
  | scrub (t : BitVec 14)
  /-- IMEM_UNCORRECTABLE (R300). An uncorrectable instruction-memory word stops the fetching context and requests a graft, or a rewrite from the stored image. -/
  | imemUncorrectable (t : BitVec 14) (word : BitVec 15)
  /-- TRAP_ENTRY (R228). Once the context's in-flight results have landed, the trap registers are written and the context enters the S-mode handler. -/
  | trapEntry (t : BitVec 14) (x : BitVec 2) (cause : BitVec 8) (info : BitVec 64)
  /-- ASYNC_TRAP_TAKE (R229). A pending PREEMPT, POWER or TIMER is taken at a packet boundary in U mode. -/
  | asyncTrapTake (t : BitVec 14) (x : BitVec 2)
  /-- TIMER_EXPIRY (R229). CTX_TIMER reaches 0 from 1 and TIMER becomes pending. -/
  | timerExpiry (t : BitVec 14) (x : BitVec 2)
  /-- LOOP_BACK (R341). At the end of the body's last packet, the nest advances its indices and loops back, or ends. -/
  | loopBack (t : BitVec 14) (x : BitVec 2)
  /-- RNG_APPEND (R246). While its queue holds fewer than 64 words, the generator appends one word per cycle. -/
  | rngAppend (t : BitVec 14)
  /-- POISON_ROLLBACK (R296). Poison consumed in an open protected pass discards the outbox, reissues the logged loads, restores the snapshot and restarts at PASS_PC. -/
  | poisonRollback (t : BitVec 14)
  /-- RNG_SEED_WRITE (R246). A write of RNG_SEED restarts the counter and empties the random-bit queue. -/
  | rngSeedWrite (t : BitVec 14) (v : BitVec 64)
  /-- CHN_CFG_WRITE (R82). An S-mode write of CHN_CFG is accepted only on an idle channel and resets its state, and otherwise sets cfgrej. -/
  | chnCfgWrite (t : BitVec 14) (ch : BitVec 6) (v : BitVec 64)
  /-- CAU_VEC_WRITE (R119). An S-mode write of CAU_VEC sets v to the wmax of v and the written value. -/
  | cauVecWrite (t : BitVec 14) (f : BitVec 6) (v : BitVec 64)
  /-- PASS_CFG_WRITE (R295). A write of PASS_CFG by context 0 that sets en opens a pass, and during an open pass it ends protection. -/
  | passCfgWrite (t : BitVec 14) (v : BitVec 64)
  /-- RAS_THRESH_WRITE (R305). A write of RAS_THRESH sets the thresholds and starts a new window. -/
  | rasThreshWrite (t : BitVec 14) (v : BitVec 64)
  /-- MAT_FINJ_WRITE (R426). A write of MAT_FINJ sets the injection and restarts its column-segment count. -/
  | matFinjWrite (t : BitVec 14) (v : BitVec 64)
  /-- MAT_FID_WRITE (R263). A write of MAT_FID by MTC, MSC or MCC ends the context's direct-issue run and starts a new one. -/
  | matFidWrite (t : BitVec 14) (x : BitVec 2) (v : BitVec 64)
  /-- MAT_NEST_WRITE (R391). A write to a nest slot takes effect only while the slot is FREE. -/
  | matNestWrite (t : BitVec 14) (sl : BitVec 2) (j : BitVec 3) (v : BitVec 64)
  /-- MATRIX_OP_START (R388). An array operation begins its first plane cycle once the array, bands and set are free. -/
  | matrixOpStart (t : BitVec 14)
  /-- MATRIX_ROW_END (R426). A row's last plane cycle ends and its column-segments, mismatches and injections are recorded. -/
  | matrixRowEnd (t : BitVec 14)
  /-- MATRIX_OP_COMPLETE (R388). An array operation's last row lands, clears in-flight, and advances or ends its nest. -/
  | matrixOpComplete (t : BitVec 14)
  /-- MLDB_COMPLETE (R389). The K row 255 of an MLDB is written, and the set records its format. -/
  | mldbComplete (t : BitVec 14)
  /-- TRANSFER_COMPLETE (R384). A TLD or TST finishes its rows and clears the target's in-flight bit. -/
  | transferComplete (t : BitVec 14)
  /-- ILLEGAL_WORD (R310). A packet holding a word that is no instruction raises ILLEGAL for the whole packet before any of its words issues. -/
  | illegalWord (t : BitVec 14) (x : BitVec 2)
  /-- PACKET_FETCH_FAULT (R199). A context's fetch of a packet index above 10,921, or a U-mode fetch in the supervisor region, raises ILLEGAL or PRIV with no word issuing. -/
  | packetFetchFault (t : BitVec 14) (x : BitVec 2)
  /-- SLICE_RAIL_FAULT_END (R197). A field regulator's slice-rail fault ends, and the slices promoted for it return to their reduced rail. -/
  | sliceRailFaultEnd (f : BitVec 6) (sl : BitVec 2)
  /-- ATOMICOP_REQUESTER_ENABLE (R154). The host sets or clears a function's AtomicOp Requester Enable bit, which changes HOST_LINKn.atom and decides whether host atomics complete with PERM. -/
  | atomicopRequesterEnable (n : BitVec 2) (on : Bool)
deriving DecidableEq, Repr

end Sys2Proof
end

