-- ==== Sys2Proof/Machine/State.lean ====
section
/-! DEFINITION. The state of the whole Tigus wafer module, as plain data: the tiles with their
contexts, the fields, the fabric, the optical ports, the stacks with their cellar ports, the host
side, the plots, and what is in flight between them. Control registers are held as 64-bit words in
the layout the spec prints, in sparse tables keyed by their index (R213) or their BAR 0 offset
(R147); the value an unlisted register has is its reset value (`tileReset`, `ctxReset`, `bar0Reset`
in Machine/Map.lean's accessors). Tiles are keyed by their logical index Y * 120 + X (R125), so a
graft or a remap moves no state: it changes the map alone (R37). -/

namespace Sys2Proof.Machine

open Host Sys2Proof

/-- Why a step stops with a fault. -/
inductive Fault where
  /-- Raised by an event that names a tile, port or stack the wafer does not have (a logical tile
  index of 15,360 or more, a port of 96 or more, a stack of 48 or more: R27, R48, R121). Safe: no such
  unit exists, so nothing happens there. -/
  | offWafer
deriving DecidableEq, Repr

/-- Why a step has no meaning. -/
inductive Refusal where
  /-- Raised by an arm of `exec` whose instruction has no meaning yet. Safe: nothing is claimed of it. -/
  | notModelled (mnemonic : String)
deriving DecidableEq, Repr

/-- The contents of a register: up to 128 bits, the capability tag (R215) and the poison bit (R292). -/
structure RVal where
  bits : BitVec 128 := 0
  tag : Bool := false
  poison : Bool := false
deriving DecidableEq, Repr

/-- A result that has issued and not yet landed (R203 to R205): it lands in some cycle from
`issued + 1` to `due`, and `rank` says which of two results lands later. -/
structure Flight where
  reg : Nat
  val : RVal
  issued : Nat
  due : Nat
  rank : Nat
  /-- a spill load or a spill store: lands in exactly `issued + 1`, so its own group reads the old value -/
  exact : Bool := false
  /-- the status of a CTXGO that has not committed: the value is not known yet (R325) -/
  go : Bool := false
deriving DecidableEq, Repr

/-- What word 0 of the packet in progress does once every word of the packet has issued (R202, R322,
R324, R326, R334, R421). -/
inductive EndAct where
  | next
  | jump (target : Nat)
  | eret
  | halt
  | sleep
  | yield
deriving DecidableEq, Repr

/-- The repeat state of MREP (R398, R399). -/
structure Repeat where
  /-- true until the head has been read -/
  head : Bool
  word : BitVec 32
  left : Nat
  m : Nat
  st0 : Nat
  st1 : Int
  st2 : Int
  smode : Bool
deriving DecidableEq, Repr

/-- How the running start of context 1, 2 or 3 began (R88, R177, R324, R325, R416). -/
inductive Start where
  | none
  | arrival (ch lines : Nat)
  | completion (token ctx : Nat)
deriving DecidableEq, Repr

/-- A ticket pair of a stamp (R106). -/
structure Pair where
  f : Nat
  t : Ticket
deriving DecidableEq, Repr

/-- A causal stamp (R106): `own` is pair 0 of a stamped write, and `null` fills the pairs that are not used. -/
structure Stamp where
  own : Option Pair
  deps : List Pair
  vint : BitVec 8
  merge : Bool := false
  null : Pair := ⟨0, 0⟩
deriving DecidableEq, Repr

/-- The four pairs of a stamp. The unused ones of a packet with the merge bit are copies of pair 0 (R106, R108). -/
def Stamp.pairs (st : Stamp) : List Pair :=
  let l := st.own.toList ++ st.deps
  (l ++ List.replicate (4 - l.length) (if st.merge then st.own.getD st.null else st.null)).take 4

/-- The 96 bits of a stamp (R106). -/
def Stamp.bits (st : Stamp) : BitVec 96 :=
  BitVec.ofNat 96 (st.pairs.foldr (fun q n => q.f % 64 + q.t.toNat * 2 ^ 6 + n * 2 ^ 22) 0 + st.vint.toNat * 2 ^ 88)

/-- A handler arrival: the payload of an armed channel (R88), or a completed command of the completion
queue (R416). -/
structure Arrival where
  ch : Nat
  addr : Nat
  len : Nat
  src : Nat
  stamp : Stamp
  lost : Option Pair
  lines : Nat
  cq : Option (Nat × Nat) := none
deriving DecidableEq, Repr

/-- A fidelity run (R263): level, rate, column-segments of the period, detected errors of the period
per slice, promoted slices. -/
structure FidRun where
  level : Nat := 0
  rate : Nat := 0
  cseg : Nat := 0
  err : List Nat := [0, 0, 0]
  promo : BitVec 3 := 0
  pend : BitVec 3 := 0
  /-- place in the tile's issue order of the operation with the newest pending promotion -/
  pseq : Nat := 0
deriving DecidableEq, Repr

/-- A status of a matrix or tile operation: its cause, its CTX_EINFO, and the operation's place in the tile's issue order (R296). -/
structure MatStatus where
  cause : BitVec 8
  info : W64
  seq : Nat := 0
deriving DecidableEq, Repr

/-- One hardware context (R168, R209). -/
structure Ctx where
  regs : AMap RVal := []
  flights : List Flight := []
  /-- CTX_, LB_, MAT_SHAPE, MAT_FID, XEN_TOK and XEN_DESC of this context (R213, R269, R409) -/
  creg : AMap W64 := []
  pc : Nat := 0
  /-- first word of the packet still to issue -/
  first : Nat := 0
  atEnd : EndAct := .next
  /-- what a packet that a trap cut short was to do at its end (R202, R227); ERET takes it back -/
  savedEnd : EndAct := .next
  /-- a packet has begun and has not ended (R168, R206) -/
  midPacket : Bool := false
  /-- no word of this context issues before this cycle (R312) -/
  hold : Nat := 0
  rep : Option Repeat := none
  start : Start := .none
  arrivals : List Arrival := []
  /-- packets this context has begun (R206) -/
  packets : Nat := 0
  /-- consecutive slots passed over (R169) -/
  passed : Nat := 0
  yielded : Bool := false
  /-- observed count o[X] (R281) -/
  obs : BitVec 8 := 0
  /-- the direct-issue fidelity run (R263), its number, and earlier runs with operations still queued -/
  run : FidRun := {}
  runNo : Nat := 0
  /-- bands and level and rate as matrix words of this context see them (R397) -/
  matShape : BitVec 4 := 15
  matFid : BitVec 4 := 0
  oldRuns : AMap FidRun := []
  /-- statuses waiting for MWAIT, or for the next packet boundary (R293, R264) -/
  matPend : List MatStatus := []
  boundPend : List MatStatus := []
  /-- a WKNEXT or PWRQ of this context whose outcome has arrived (R177, R190) -/
  handed : Option (Nat × List W64) := none
  /-- the walker that handed it over -/
  handedBy : Nat := 0
  exhausted : Bool := false
  granted : Bool := false
  /-- slot and token of a BWAIT that found d = 0 and waits (R174) -/
  bwait : Option (Nat × BitVec 16) := none
  /-- an MWAIT of this context that issued and waits (R395) -/
  mwaits : Bool := false
  /-- the place in the tile's issue order at which a waiting word of this context with ACQ or REL issued (R276) -/
  waitSeq : Option Nat := none
  /-- the tile's issue order at the last HALT or SLEEP of this context: no status of an earlier operation is raised at a packet boundary
  (R400) -/
  sleptAt : Nat := 0
deriving DecidableEq, Repr

/-- A control-register write on its way (R206, R347): the write, the context, the value of that
context's packet count and the tile's slot count from which it is in effect. -/
structure CregWrite where
  ctx : Nat
  idx : Nat
  val : W64
  op : Nat
  packetDue : Nat
  slotDue : Nat
  /-- already performed; `old` is what the writing context still reads until `packetDue` -/
  applied : Bool := false
  old : W64 := 0
  /-- the cycle from which it may be performed: issue + 2, when it leaves the commit stage (R208, R347) -/
  performAt : Nat := 0
  /-- it changes what MFC reads and nothing else: of MSHAPE or MFID, or overtaken by one (R397) -/
  regOnly : Bool := false
deriving DecidableEq, Repr

/-- The agent of a region-tracker entry, by what retires it (R222). -/
inductive TrkKind where
  | send (ctx ch : Nat)
  /-- a SEND of the context that waits for its window (R403) -/
  | sendWait (ctx : Nat)
  | engine (ctx token : Nat)
  | direct (ctx : Nat)
  | nest (slot : Nat)
  | tile (ctx t : Nat) (acq : Bool)
  | receive (ch : Nat)
  | completion
  | hostWindow (ctx : Nat)
deriving DecidableEq, Repr

/-- A region-tracker entry (R222): its number, its agent, whether that writes the pad, and the byte range [lo, hi). -/
structure TrkEntry where
  n : Nat
  kind : TrkKind
  writes : Bool
  lo : Nat
  hi : Nat
  /-- the place of its command in the tile's issue order (R296) -/
  seq : Nat := 0
deriving DecidableEq, Repr

/-- A tile register (R211): 32 rows of 256 elements, its status and its owner. -/
structure TReg where
  data : AMap W32 := []
  valid : Bool := false
  dirty : Bool := false
  owner : Option Nat := none
deriving DecidableEq, Repr

/-- A macro set (R250): cells keyed K * 256 + N, segment exponents keyed i * 256 + N, the matrix
format code last written, the poison mark (R290). -/
structure MacroSet where
  cells : AMap (BitVec 9) := []
  eb : AMap (BitVec 9) := []
  fmt : Nat := 1
  poisoned : Bool := false
deriving DecidableEq, Repr

/-- An operation of the array queue (R380): MMA, MMAS or SCACC, or a whole nest. -/
structure MatOp where
  /-- 0 MMA, 1 MMAS, 2 SCACC, 3 nest -/
  kind : Nat
  ctx : Nat
  td : Nat
  tp : Nat := 0
  addr : Nat := 0
  fmt : Nat := 0
  rows : Nat := 0
  segs : Nat := 0
  set : Nat := 0
  z : Bool := false
  fl : Bool := false
  fzi : Bool := false
  bands : BitVec 4 := 0
  level : Nat := 0
  slot : Nat := 0
  coop : Bool := false
  /-- every target register it can name -/
  tds : List Nat := []
  /-- its place in the tile's issue order; the fidelity run of its context it belongs to -/
  seq : Nat := 0
  gen : Nat := 0
  /-- rows done; `begun` once the first plane cycle has begun (R388) -/
  row : Nat := 0
  begun : Bool := false
  /-- lowest row that consumed poison -/
  bad : Option Nat := none
deriving DecidableEq, Repr

/-- An MLDB of the load queue (R389). -/
structure LdOp where
  ctx : Nat
  addr : Nat
  fmt : Nat
  set : Nat
  fzi : Bool
  seq : Nat := 0
deriving DecidableEq, Repr

/-- A TLD or TST of the transfer queue (R384). -/
structure XferOp where
  ctx : Nat
  store : Bool
  t : Nat
  addr : Nat
  rows : Nat
  seq : Nat := 0
deriving DecidableEq, Repr

/-- What a started or queued nest carries beside its slot words (R392, R393, R267). -/
structure NestRun where
  cap : RVal := {}
  idx : List Nat := [0, 0, 0, 0, 0, 0]
  iter : Nat := 0
  run : FidRun := {}
  pend : List MatStatus := []
  /-- place of its MGO in the tile's issue order -/
  seq : Nat := 0
deriving DecidableEq, Repr

/-- A payload of a receive channel (R85, R405). -/
structure Payload where
  /-- the sending tile's logical index -/
  from_ : Nat
  addr : Nat
  len : Nat
  src : Nat
  stamp : Stamp
  lost : Option Pair
  /-- lines and skip it occupies in the ring -/
  lines : Nat
deriving DecidableEq, Repr

/-- The hidden state of one channel (R82 to R88): payloads being written, payloads fully written and
unconsumed, the deferred return of RECV, returns being coalesced (lines, packets), and the number of
sends whose buffers have been read. -/
structure Chan where
  writing : List Payload := []
  ready : List Payload := []
  deferred : Option (Nat × Nat) := none
  ret : Option (Nat × Nat) := none
deriving DecidableEq, Repr

/-- A byte of data on its way, with its poison. -/
abbrev PByte := Byte × Bool

/-- A host ingress entry (R151): line address, byte mask with data, poison. -/
structure Ingress where
  line : Nat
  bytes : List (Nat × Byte)
  poison : Bool
deriving DecidableEq, Repr

/-- What a packet carries. -/
inductive Body where
  /-- kind 0: a channel payload -/
  | payload (chan : Nat) (data : List PByte)
  /-- kind 1: a window return -/
  | winret (chan lines pkts : Nat)
  /-- kind 2: an external request; `cmd` is the requesting command (context, token, element, pad address),
  `port` the cellar port or other agent it is addressed to -/
  | request (head : ReqHead) (data : List PByte) (ctx token elem pad : Nat)
  /-- kind 3: a response; `lost` is the lost pair of a CAUSAL_LOSS status (R116) -/
  | response (tag : Nat) (status : Nat) (data : List PByte) (lost : Option Pair) (ctx token elem pad : Nat)
  /-- kind 13: a host ingress entry (R151) -/
  | ingress (e : Ingress)
  /-- any other kind, with its number -/
  | other (kind : Nat)
deriving DecidableEq, Repr

/-- The command, element and pad address a request answers to. -/
structure Requester where
  tile : Nat
  ctx : Nat
  token : Nat
  elem : Nat
  pad : Nat
  tag : Nat
deriving DecidableEq, Repr

/-- The place of a quarantined page's map bit of a sector: table stack, byte and bit (R140). -/
structure QuarBit where
  k : Nat
  byte : Nat
  bit : Nat
deriving DecidableEq, Repr

/-- Where a packet is to be ejected: a tile, or the agent attached at a tile's router (R434). -/
structure Packet where
  dst : Agent
  src : Agent
  dx : Nat
  dy : Nat
  sx : Nat
  sy : Nat
  cls : Nat
  stamp : Option Stamp
  body : Body
  /-- present position, dateline set, escape set (R74, R79), and whether it is at its ejection port -/
  px : Nat
  py : Nat
  set1 : Bool := false
  esc : Bool := false
  arrived : Bool := false
  /-- escape set: it has made a hop that is not west; the link by which it came in -/
  turned : Bool := false
  inDir : Option Nat := none
  /-- in the tunnel from a displaced tile to this anchor (R76) -/
  via : Option Nat := none
  /-- bits [63:59] of its route head, and its nflit where that is not its own number of flits less one (R69) -/
  rsv : BitVec 5 := 0
  nflit : Option (BitVec 6) := none
  /-- met in an overflow buffer (R110), and the pair that was lost there, where the buffer judged it so (R116) -/
  met : Bool := false
  lost : Option Pair := none
  /-- XRED packets that a router merged into this one (R108) -/
  absorbed : List Requester := []
  /-- a forwarded request to a checked page (R141), a forwarded reduction (R132, R134), and the map bit of a forwarded request to a
  quarantined page (R140) -/
  chk : Bool := false
  red : Bool := false
  quar : Option QuarBit := none
  /-- its place among the requests of its cellar port that have left step 1 of R131 (R132) -/
  turn : Nat := 0
deriving DecidableEq, Repr

/-- A stamped packet that has issued and not yet left its tile (R274, R107): a payload of channel `ch` for
channel `pch` of tile `dst`, read from the buffer [addr, addr + len) as it is emitted unless `data` holds it;
or the place of an engine command (its token), or of a cooperative nest (its slot), whose stamped packets stand here. -/
structure Emission where
  seq : Nat
  ctx : Nat
  ch : Nat := 0
  cmd : Option Nat := none
  nest : Option Nat := none
  dst : Nat := 0
  pch : Nat := 0
  addr : Nat := 0
  len : Nat := 0
  data : Option (List PByte) := none
  acq : Bool := false
  rel : Bool := false
  scope : Nat := 0
  /-- held in the outbox with its data not yet copied there: the outbox line that is to take them (R295) -/
  box : Option Nat := none
deriving DecidableEq, Repr

/-- The entry only keeps a place. -/
def Emission.place (e : Emission) : Bool := e.cmd.isSome || e.nest.isSome

/-- An engine command (R411 to R414): 0 XLD, 1 XST, 2 XRED, 3 XATOM, 4 XPF. -/
structure Cmd where
  ctx : Nat
  token : Nat
  op : Nat
  /-- the arg field of the word -/
  arg : Nat := 0
  acq : Bool := false
  rel : Bool := false
  scope : Nat := 0
  cnt : List Nat
  /-- bytes of an element on the pad side, and on the external side -/
  elem : Nat
  xlen : Nat
  pad : Int
  ext : Int
  pstride : List Int
  xstride : List Int
  /-- next element, and the external bytes of it already requested -/
  next : Nat := 0
  off : Nat := 0
  /-- requests awaiting responses -/
  out : Nat := 0
  /-- lowest failing element, the pad address of its lowest failing request, its status -/
  bad : Option (Nat × Nat × Nat) := none
  /-- the lost pair of a CAUSAL_LOSS status (R116, R230) -/
  lost : Option Pair := none
  swait : Bool := false
  seq : Nat := 0
  /-- its ACQ and REL waits have ended and RC has advanced for REL (R276, R281) -/
  begun : Bool := false
  /-- the set definitions in force at issue (R127) -/
  setDefs : List W64 := []
  /-- it has no token any more: a held command released from the outbox, with its write data (R295, R298), or a load
  reissued by a rollback (R296) -/
  ghost : Bool := false
  store : List PByte := []
  /-- of a command whose write data stand in the outbox: the first line that takes them, while the copy waits for ACQ; and whether it is
  the token's own entry, which is complete once the copy is made (R295) -/
  box : Option Nat := none
  copying : Bool := false
  /-- XATOM to space PEER, whose replies pass through the completion queue (R416) -/
  peerAtom : Bool := false
  /-- of a command whose elements may overlap in the pad: element, pad address and data of what is written, in element order (R412) -/
  wrote : List (Nat × Nat × List PByte) := []
deriving DecidableEq, Repr

/-- An entry of the completion queue (R416). -/
structure CqEntry where
  slot : Nat
  old : W64
  elem : Nat
  token : Nat
  ctx : Nat
  status : Nat
  pad : Nat
deriving DecidableEq, Repr

/-- The hidden state of the guarded pass (R295 to R298). -/
structure Pass where
  snap : AMap RVal := []
  snapIdx : W64 := 0
  snapBody : W64 := 0
  log : List Cmd := []
  held : List Emission := []
  /-- engine commands whose write data stand in the outbox (R295) -/
  heldCmds : List Cmd := []
  /-- window lines, packets and wp advance that each held send took: channel, lines, pk, positions -/
  taken : List (Nat × Nat × Nat × Nat) := []
  heldRet : List (Nat × Nat × Nat) := []
  /-- rp and the deferred return of each channel at the opening, and the payloads consumed since -/
  rpOpen : List (Nat × Nat × Option (Nat × Nat)) := []
  eaten : List (Nat × Payload) := []
  /-- a rollback has begun (1) or waits for its reissued commands (2) (R296) -/
  roll : Nat := 0
  /-- the tile's issue order at the opening: what was issued in the pass has this place or a later one (R296, R298) -/
  openSeq : Nat := 0
deriving DecidableEq, Repr

/-- A PWRQ or PWRREL that waits in the tile or in the field (R190). -/
structure PwrReq where
  /-- 4 stands for the release of the tile's plot (R193) -/
  ctx : Nat
  cls : Nat
deriving DecidableEq, Repr

/-- The tag of a pad line: a writer context and a count (R281). A line that nothing has written has the tag that the receive path would
have left at release, (0, (0 − 128) mod 256): the spec gives none (DESIGN CHOICE, log 59). -/
structure LineTag where
  ctx : BitVec 2 := 0
  cnt : BitVec 8 := 128
deriving DecidableEq, Repr

/-- A ticket that a tile drew: for which context's write, at which place of the tile's issue order; and whether the sequencer has it
acknowledged (R98, R166, R276). -/
structure Drawn where
  pair : Pair
  ctx : Nat
  seq : Nat
  acked : Bool := false
deriving DecidableEq, Repr

/-- A link that a command of a tile has written: the command's context and its place in the tile's issue order (R276, R288). -/
structure LinkWrite where
  link : Nat
  ctx : Nat
  seq : Nat
deriving DecidableEq, Repr

/-- A CTXGO whose release is done (R325): in cycle `due` it starts context k at packet pc, if that is DORMANT then, and its status lands in
register reg of its own context. -/
structure CtxGo where
  ctx : Nat
  reg : Nat
  k : Nat
  pc : Nat
  due : Nat
  seed : Nat
deriving DecidableEq, Repr

/-- One logical tile. -/
structure Tile where
  ctxs : AMap Ctx := []
  /-- every tile control register that is not per context (R213) -/
  creg : AMap W64 := []
  imem : AMap Byte := []
  /-- 64-bit instruction-memory words that read uncorrectable (R290, R300) -/
  imemBad : List Nat := []
  /-- such words that the field controller has rewritten from the stored image (R300) -/
  imemFixed : List Nat := []
  pad : AMap Byte := []
  padPoison : AMap Bool := []
  capTags : AMap Bool := []
  lineTags : AMap LineTag := []
  /-- issue cycles: the clock of landing windows, which frozen cycles do not advance (R207, R358) -/
  cycle : Nat := 0
  /-- cycles of the field's clock since power-up, as this tile's core has counted them (CORE_CYCLE) -/
  clock : W64 := 0
  /-- context in the middle of a packet; context served last in rank 2 of R169; packet slots begun -/
  active : Option Nat := none
  served : Nat := 3
  slots : Nat := 0
  cpend : List CregWrite := []
  rc : BitVec 8 := 0
  trk : List TrkEntry := []
  tregs : AMap TReg := []
  sets : AMap MacroSet := []
  aq : List MatOp := []
  lq : List LdOp := []
  tq : List XferOp := []
  nests : AMap NestRun := []
  paused : Option Nat := none
  finj : Nat := 0
  chans : AMap Chan := []
  ebuf : List Packet := []
  emitq : List Emission := []
  /-- the tile's issue order of agent commands -/
  opSeq : Nat := 0
  /-- a second block that arrived while the first still had tickets (R97) -/
  blockNext2 : Option Ticket := none
  /-- bands that have run an array cycle since they were last gated (R195) -/
  bandRan : BitVec 4 := 0
  /-- the pending POWER trap met no context that could take it: the next to issue a packet does (R194) -/
  powerLoose : Bool := false
  /-- CTXGOs that commit in a cycle to come (R325) -/
  goes : List CtxGo := []
  /-- the next match tag of a request (R125) -/
  nextTag : Nat := 0
  /-- an MPAUSE waits for the running nest's iteration boundary (R267) -/
  pauseReq : Bool := false
  cmds : List Cmd := []
  cq : List CqEntry := []
  cqHead : Nat := 0
  ingress : List Ingress := []
  pass : Pass := {}
  rngq : List (BitVec 1024) := []
  pwrq : List PwrReq := []
  pwrOut : Option PwrReq := none
  /-- links that commands of this tile have written since the last flush of them, and links whose flush is under way (R276, R288) -/
  hostLinks : List LinkWrite := []
  flushing : List LinkWrite := []
  /-- tickets delivered at this tile's ejection port and not yet acknowledged (R101) -/
  acks : List Pair := []
  /-- tickets that this tile drew and that its sequencers do not yet have acknowledged (R166), or whose writes a peer has not (R276) -/
  drawn : List Drawn := []
  /-- the estimate as it stood at the last MONITOR_OVERRUN, and consecutive cycles with the estimate at most g, up to 64 (R194) -/
  powEst : Nat := 0
  under : Nat := 0
  /-- scrubber position: pad line, macro row (R291) -/
  scrubLine : Nat := 0
  scrubRow : Nat := 0
  plot : Option Nat := none
  released : Bool := false
  /-- stopped by a graft or a pre-emption -/
  stopped : Bool := false
  /-- its state is being copied or saved: nothing on it moves -/
  frozen : Bool := false
  /-- a graft of this tile has been requested and the request is not yet served (R44, R47, R300) -/
  greq : Bool := false
  /-- class 0 traffic that came while the tile was under graft: the newest broadcast, ticket blocks with their fields (R92) -/
  heldG : Option (AMap (Ticket × Bool)) := none
  heldBlocks : List (Nat × Ticket) := []
  /-- ctx and walker whose WKNEXT made the tile eligible (R177) -/
  eligible : List Nat := []
  /-- group numbers of the four group slots (R171) -/
  groups : List Nat := []
deriving DecidableEq, Repr

/-- What an image sector of the pad carries beside its bytes (R231): the four capability tags of its line, its line tag, and its
poison. -/
structure SavedSide where
  caps : BitVec 4 := 0
  tag : LineTag := {}
  poison : Bool := false
deriving DecidableEq, Repr

/-- The 16-bit sideband tag of such a sector (R231). -/
def SavedSide.bits (d : SavedSide) : BitVec 16 :=
  (0#2 ++ (d.tag.cnt ++ d.tag.ctx)) ++ d.caps

/-- A saved tile image (R231): the items of the image, its pad's sideband, and the stacks that hold its two copies, where they could
be written (R184, R187). -/
structure TileImage where
  rest : Tile
  side : AMap SavedSide := []
  primary : Option Nat := none
  mirror : Option Nat := none
deriving DecidableEq, Repr

/-- A graft in progress in a field (R90): tile, step reached, chosen spare site. -/
structure Graft where
  tile : Nat
  step : Nat
  spare : Nat
deriving DecidableEq, Repr

/-- A port's ingress or a BAR 4 path (R99): its one-entry causal vector, its block (next ticket, tickets left), a second
block, and whether a request is outstanding. -/
structure TicketAgent where
  v : Ticket := 0xFFFF
  next : Ticket := 0
  left : Nat := 0
  next2 : Option Ticket := none
  req : Bool := false
deriving DecidableEq, Repr

/-- One field's controller: sequencer, overflow buffer, power pool, grafts (R12, R89, R97, R188). -/
structure Field where
  /-- cycles of the field's clock since power-up, as far as a tile of it has seen them (R214) -/
  clk : W64 := 0
  iLim : Nat := 1250
  /-- the field's map generation (R45) -/
  gen : BitVec 8 := 0
  /-- sequencer (R97, R102): next ticket, stable point, marked tickets after it -/
  next : Ticket := 0
  stable : Ticket := 0xFFFF
  marked : List Ticket := []
  blockQ : List Agent := []
  /-- blocks out: agent, first ticket -/
  blocks : List (Agent × Ticket) := []
  recalled : List Agent := []
  /-- the packet and the pair of the stall that the field controller has reported (R112): where it was bound for, and the pair -/
  stalled : Option (Agent × Pair) := none
  /-- acknowledgement flits on their way to this sequencer (R101) -/
  ackIn : List (List Ticket) := []
  /-- the agent of this field's BAR 4 path -/
  b4 : TicketAgent := {}
  /-- stable point last posted into the trellis (R103) -/
  posted : Ticket := 0xFFFF
  removed : Bool := false
  ovf : List Packet := []
  /-- the overflow buffer's copy of G (R103) -/
  ovfG : AMap (Ticket × Bool) := []
  graft : Option Graft := none
  graftQ : List Nat := []
  pwrQ : List (Nat × PwrReq) := []
  /-- grants on their way to their tiles (R190) -/
  pwrSent : List (Nat × PwrReq) := []
  /-- granted current in units of 0.5 A; increase granted in the present 1 µs window (R191) -/
  granted : Nat := 0
  ramp : Nat := 0
  wakeQ : List (Nat × Nat) := []
  wakesIn : Nat := 0
  railFault : BitVec 3 := 0
  sfault : BitVec 8 := 0
  tripped : Bool := false
  /-- the head request waits for the 1 µs window (R191) -/
  rampw : Bool := false
  /-- running plots that caused grafts of this field (R20) -/
  grafters : List Nat := []
deriving DecidableEq, Repr

/-- A request to or from a peer wafer that a port holds (R66, R431): its tag on the link, once it has left; the port by which it entered and its token
there, or the request of this wafer. -/
structure PeerPkt where
  head : ReqHead
  data : List PByte
  tag : Nat
  via : Option (Nat × Nat)
  pkt : Option Packet
deriving DecidableEq, Repr

/-- A DATA flit that a port keeps: until it is acknowledged (R52), or until its packet leaves the ingress buffer (R53). -/
structure DataFlit where
  seq : BitVec 13
  cls : BitVec 2
  last : Bool
  payload : BitVec 512
  poison : BitVec 64
deriving DecidableEq, Repr

/-- The content of a link control flit (R51, R52, R53, R62). -/
inductive LinkCtl where
  | idle
  /-- NAK, with the last good sequence number -/
  | nak (q : BitVec 13)
  | drain
  /-- NARROW, with the whole-lane mask -/
  | narrow (mask : BitVec 4)
  | resume
  /-- ALLOW, with a class and units -/
  | allow (cls : BitVec 2) (units : Nat)
deriving DecidableEq, Repr

/-- A flit that a port has sent: a DATA flit whole; a control flit with its ack and its content, whose places in the payload no rule
gives. -/
inductive LinkOut where
  | data (f : LinkFlit)
  | control (ack : BitVec 13) (c : LinkCtl)
deriving DecidableEq, Repr

/-- A peer request that has entered by a port and waits there for a ticket (R54): its token, and the class and number of the flits it
still holds in the ingress buffer. -/
structure Entered where
  head : ReqHead
  data : List PByte
  token : Nat
  cls : BitVec 2
  flits : Nat
deriving DecidableEq, Repr

/-- One optical port beside its OPT_ registers (R52, R53, R59, R62, R65, R66). -/
structure Port where
  disabled : Bool := false
  /-- DOWN by R63, or after a failed bring-up -/
  down : Bool := false
  slow : Bool := false
  wlBad : BitVec 9 := 0
  heater0 : BitVec 10 := 0
  txSeq : BitVec 13 := 0
  rxNext : BitVec 13 := 0
  /-- a NAK has been sent and the flit it asks for has not come -/
  nakked : Bool := false
  /-- the replay buffer, oldest first (R52) -/
  replay : List DataFlit := []
  /-- the flits sent, oldest first -/
  sent : List LinkOut := []
  allow2 : Nat := 2048
  allow3 : Nat := 2048
  /-- the ingress buffer: DATA flits received in order; the units freed there and not yet returned (R53) -/
  ingress : List DataFlit := []
  freed2 : Nat := 0
  freed3 : Nat := 0
  nextTag : Nat := 0
  /-- peer requests not yet sent; sent and unanswered -/
  queue : List PeerPkt := []
  unanswered : List PeerPkt := []
  /-- requests that entered by this port and whose answers are not yet sent: token and tag on the link (R66) -/
  serving : List (Nat × Nat) := []
  nextToken : Nat := 0
  /-- answers owed through this port: token, status, data -/
  owed : List (Nat × Nat × List PByte) := []
  entered : List Entered := []
  /-- steps 1 to 4 of R62; this end's mask, the far end's once its NARROW has come, and the RESUMEs sent and received -/
  narrowing : Bool := false
  myMask : BitVec 4 := 15
  farMask : Option (BitVec 4) := none
  resumed : Bool := false
  farResumed : Bool := false
  /-- the lane of a wavelength that the spare has replaced retrains (R59) -/
  training : Bool := false
  /-- wavelengths that lost lock in BUD and await R59 on the return to BLOOM (R65) -/
  lostInBud : BitVec 9 := 0
  /-- samples in a row, by wavelength, with ber below ber_min (R59) -/
  lowBer : AMap Nat := []
  /-- windows in a row below lo / above hi (R65) -/
  below : Nat := 0
  above : Nat := 0
  /-- DRAIN is sent and its acknowledgement awaited before the port dims (R65) -/
  dimming : Bool := false
  /-- DRAIN has been sent since the last DATA flit; the far end's DRAIN has come (R66) -/
  drained : Bool := false
  farDrain : Bool := false
  /-- reconfiguration stage: 0 none, 1 draining, 2 ready, 3 waiting for light (R66, R432) -/
  reconf : Nat := 0
  /-- outcome for the SWITCH_RECONF calls: 0 none yet, 1 ready, 2 OK, 3 FAILED -/
  outcome : Nat := 0
  /-- the ingress agent (R54) -/
  ing : TicketAgent := {}
  acks : List Pair := []
deriving DecidableEq, Repr

/-- A first- or second-level TLB entry (R131): the owner code, page base, page size in bits, leaf. -/
structure TlbEntry where
  owner : Nat
  base : Nat
  bits : Nat
  leaf : W64
  /-- address of the leaf entry, and of the 2 MiB region's access counter, in the table stack (R129) -/
  entry : Nat := 0
  cnt : Option Nat := none
deriving DecidableEq, Repr

/-- A racking in progress (R136): owner and page, page size in bits, new leaf, old leaf, address of the entry,
COPY or SWITCH, held requests, or a page held for want of a quarantine frame (R140). -/
structure Racking where
  va : Nat
  bits : Nat
  leaf : W64
  old : W64
  entry : Nat
  switch : Bool := false
  held : List Packet := []
  quar : Bool := false
deriving DecidableEq, Repr

/-- A stack and its cellar port (R121 to R144). -/
structure Stack where
  disabled : Bool := true
  bin : Nat := 0
  mem : AMap Byte := []
  /-- sideband sector tags, 16 bits (R141) -/
  tags : AMap (BitVec 16) := []
  /-- poison record: sector numbers in order of entry (R139) -/
  poison : List Nat := []
  /-- requests held until met: early buffer (R110) -/
  ebuf : List Packet := []
  /-- requests that have left step 1 of R131, met, lost or returned by the overflow buffer, in the order in which they left it; how many
  have -/
  ready : List Packet := []
  turns : Nat := 0
  /-- served but not yet answerable: more than four pending pairs (R105) -/
  late : List Packet := []
  pvec : AMap Ticket := []
  gvec : AMap (Ticket × Bool) := []
  tlb : List TlbEntry := []
  slice : List TlbEntry := []
  /-- requests waiting for a remote home slice, and for a walk (R131) -/
  homeQ : List Packet := []
  walkQ : List Packet := []
  /-- forwarded requests awaiting their responses (R134) -/
  fwd : List (Nat × Packet) := []
  fwdKey : Nat := 0
  hotQ : List Nat := []
  /-- gathered counter increments: table stack, counter address, region, count (R135) -/
  counts : List (Nat × Nat × Nat × Nat) := []
  rackQ : List (Nat × Nat × W64) := []
  racks : List Racking := []
  rackDone : List W64 := []
  qframes : List Nat := []
  /-- members that have not yet acknowledged the shoot-down in progress, and those that invalidated -/
  shootWait : List Nat := []
  shootInval : List Nat := []
  acks : List Pair := []
  vint : BitVec 8 := 0
deriving DecidableEq, Repr

/-- A walker of a plot (R175 to R178). -/
structure Walker where
  /-- 0 IDLE, 1 ACTIVE, 2 EXHAUSTED (R176) -/
  state : Nat := 0
  gen : BitVec 8 := 0
  handed : Nat := 0
  cnt : List Nat := [0, 0, 0, 0, 0, 0]
  order : List Nat := [0, 1, 2, 3, 4, 5]
  ctx : Nat := 0
  entry : Nat := 0
  group : Nat := 0
  home : Nat := 0
  /-- next iteration, index j at place j, and iterations refused and still to give (R177) -/
  idx : List Nat := [0, 0, 0, 0, 0, 0]
  refused : List (List Nat) := []
  /-- eligible tiles in the order their eligibility reached the walker: those whose WKNEXT waits, and, for contexts 1 to 3, those whose
  context became DORMANT -/
  waiting : List Nat := []
  idle : List Nat := []
deriving DecidableEq, Repr

/-- A group of a plot in the trellis (R171, R173): member tiles, phase, tiles arrived. -/
structure Group where
  members : List Nat := []
  phase : BitVec 16 := 0
  arrived : List Nat := []
deriving DecidableEq, Repr

/-- A plot (R163 to R187). -/
structure Plot where
  /-- state code of R163 -/
  state : Nat := 0
  created : Bool := false
  w : Nat := 0
  h : Nat := 0
  x0 : Nat := 0
  y0 : Nat := 0
  img : Option ImageSet := none
  groups : AMap Group := []
  walkers : AMap Walker := []
  /-- saved tile images and the vintage of the save (R185) -/
  saved : List (Nat × TileImage) := []
  savedVint : BitVec 8 := 0
  failed : BitVec 64 := 0
  /-- had a slice in this round (R181) -/
  served : Bool := false
  order : Nat := 0
  /-- a pre-emption is under way: walker hand-offs are refused (R184) -/
  stopping : Bool := false
  /-- PLOT_RETIRE has been asked for: the stopped plot is retired, not saved (R167) -/
  dying : Bool := false
  /-- its tiles are reserved, and its release waits for their power grants (R192, R193) -/
  granting : Bool := false
  /-- test loader (R427) -/
  test : Bool := false
  /-- how many plots had been created when it was (R163) -/
  made : Nat := 0
deriving DecidableEq, Repr

/-- A non-posted request of the wafer that awaits its PCIe completion (R154, R157, R276), with its link: a packet's, the read that
flushes a tile's writes, or the read of the next sector of a PHYS_COPY. -/
inductive HostReq where
  | request (link : Nat) (pkt : Packet)
  | flush (link tile : Nat)
  | copy (link : Nat)
deriving DecidableEq, Repr

def HostReq.link : HostReq → Nat
  | .request n _ => n
  | .flush n _ => n
  | .copy n => n

/-- A TLP that the wafer sends to the host (R146, R154, R157): a memory write, a memory read, an AtomicOp with its function. Poisoned
bytes make the TLP poisoned. -/
inductive HostTlp where
  | write (addr : Nat) (data : List PByte)
  | read (addr len : Nat)
  | atomic (addr fn : Nat) (data : List PByte)
deriving DecidableEq, Repr

/-- A PHYS_COPY under way (R157): its direction, host address, stack, stack-physical address, and the bytes still to copy. -/
structure PhysCopy where
  toHost : Bool
  ha : Nat
  stack : Nat
  pa : Nat
  left : Nat
deriving DecidableEq, Repr

/-- A BAR 4 access that waits for a ticket (R153): the cellar port or optical port it goes to, its request, 0 read, 1 write or
2 AtomicOp, and the tag of its TLP. -/
structure Bar4 where
  dst : Agent
  head : ReqHead
  data : List PByte
  kind : Nat
  tag : Nat
deriving DecidableEq, Repr

/-- An access of a link that stands in its corner field's posted queue (R152): an ingress entry and its tile; or, behind such an entry, a
piece of a BAR 4 access (kind, tag, offset, length, function, data), or a BAR 0 write. -/
inductive PostedWrite where
  | entry (tile : Nat) (e : Ingress)
  | bar4 (kind tag off len fn : Nat) (data : List PByte)
  | register (off : Nat) (dword : Bool) (v : W64)
deriving DecidableEq, Repr

/-- The completion of a host read or AtomicOp (R147, R150, R153): data, Unsupported Request, or Completer Abort. -/
inductive Reply where
  | data (l : List PByte)
  | unsupported
  | aborted
deriving DecidableEq, Repr

/-- A connection of the SPDM responder (R161): how far it got (1 version, 2 capabilities, 3 algorithms), the version in use, and the
large request and the large response that are sent in chunks. -/
structure SpdmConn where
  stage : Nat := 0
  ver : BitVec 8 := 0
  req : List Byte := []
  resp : List Byte := []
deriving DecidableEq, Repr

/-- A message of the SPDM responder: its transport, version, code and body. -/
structure SpdmMsg where
  via : Nat
  ver : BitVec 8
  code : Nat
  body : List Byte
deriving DecidableEq, Repr

/-- The host side: links, mailboxes, event ring, aperture queues, firmware, SPDM (07). -/
structure HostSide where
  owner : Option Nat := none
  /-- mailbox command and response buffers, and the MSI-X region, keyed by BAR 0 offset (R147, R155) -/
  mbx : AMap Byte := []
  /-- event ring bytes (R159) -/
  ring : AMap Byte := []
  /-- MSI-X vectors signalled: link and vector, newest last (R146) -/
  msix : List (Nat × Nat) := []
  /-- the posted queues of the links (R152) -/
  posted : List (Nat × PostedWrite) := []
  /-- completions sent to the host: link and completion, newest last (R150, R153) -/
  replies : List (Nat × Reply) := []
  outstanding : List HostReq := []
  /-- TLPs sent to the host: link and TLP, newest last (R154, R157) -/
  tlps : List (Nat × HostTlp) := []
  /-- non-posted TLPs of the host that have completions to come: link, tag, completions (R146) -/
  asked : List (Nat × Nat × Nat) := []
  /-- the PHYS_COPY of each link's mailbox (R157) -/
  copies : List (Nat × PhysCopy) := []
  bar4 : List (Nat × Bar4) := []
  /-- tickets gathered by the PCIe paths: link and pair (R101) -/
  acks : List (Nat × Pair) := []
  /-- module time in µs (R159) -/
  timeUs : W64 := 0
  /-- the firmware banks, the running bank, the recorded security version (R160) -/
  bank0 : List Byte := []
  bank1 : List Byte := []
  running : Nat := 0
  /-- the bank that the next power-up tries first -/
  bootBank : Nat := 0
  version : Nat := 0
  /-- the whole result of the last command of a mailbox, where its response buffer holds the first 4,088 bytes (R42, R155) -/
  results : AMap (List Byte) := []
  /-- digests of R162, indices 1 to 3, taken at power-up; index 5 is computed from the registers that it covers -/
  digests : AMap (BitVec 512) := []
  /-- the SPDM responder's connections, keyed by transport: 0 to 3 DOE of PCIe function n, 4 MCTP (R161) -/
  spdm : AMap SpdmConn := []
  /-- messages the responder sent, newest last -/
  spdmSent : List SpdmMsg := []
  plotsMade : Nat := 0
  /-- every tile handle given out: the handle, the creation it belongs to, the tile's place in its plot (R42, R43) -/
  handles : List (W64 × Nat × Nat) := []
  /-- the new peer table of a reconfiguration (R66, R432) -/
  peerTable : List (Nat × W64) := []
  /-- a reconfiguration is between its two calls (R432) -/
  reconfOpen : Bool := false
  /-- mailboxes whose commands have not begun, in the order of their go writes (R155) -/
  goQ : List Nat := []
  /-- mailbox commands that wait for an event: link, code, ports or plot named -/
  waiting : List (Nat × Nat × List Nat) := []
  /-- PLOT_STARTs so far: the order of the run queue (R181) -/
  runSeq : Nat := 0
deriving DecidableEq, Repr

/-- Why the management controller treats a site as defective (R34). -/
inductive SiteFault where
  /-- `site` differs from the record's position -/
  | position
  | reserved
  /-- more than eight repairs in a bank, or more than two valid matrix-row repairs in a set -/
  | repairs
  /-- rep_idx + rep_n exceeds rep_cnt -/
  | index
  | code
  /-- fmax is below fmax_floor -/
  | slow
  /-- all four links are failed -/
  | links
deriving DecidableEq, Repr

/-- The module's power supplies and manifest flash (01, R29). -/
structure Module where
  /-- power-up step completed, 0 to 7 (R17) -/
  step : Nat := 0
  flash : AMap Byte := []
  flashLen : Nat := 0
  flowLow : Bool := false
  /-- every plot is held suspended for want of converters (R16) -/
  held : Bool := false
  /-- the step of R17 at which power-up stopped with a fault that was reported; 0 for none -/
  fault : Nat := 0
  /-- the reasons for which sites were found defective, as power-up logged them (R34) -/
  siteLog : List (Nat × SiteFault) := []
deriving DecidableEq, Repr

/-- How the word in progress ended. -/
inductive Issue where
  | done
  | trapped
  | waits
deriving DecidableEq, Repr

/-- What the core is issuing: tile, context, the word, the first and last word of its issue group, and how the word ended. -/
structure Cur where
  tile : Nat := 0
  ctx : Nat := 0
  word : Nat := 0
  first : Nat := 0
  last : Nat := 0
  raw : W32 := 0
  ended : Issue := .done
  /-- cause and CTX_EINFO of a word that trapped -/
  cause : Nat := 0
  info : W64 := 0
  /-- the trap reports a status, and what the word has done stands (R116, R395, R414) -/
  kept : Bool := false
  /-- what the repeat stream st0 adds to the word's address operand (R398) -/
  addrOff : Nat := 0
  /-- the registers that later words of this group write (R202, R203) -/
  hidden : List Nat := []
  /-- a waiting group is looked at again: its own checks are made when its wait ends, not before (R348) -/
  trial : Bool := false
  /-- a word of this group pops the random-bit queue (R246) -/
  popped : Option (BitVec 1024) := none
deriving DecidableEq, Repr

/-- Who moves next: an event of the table with the choices made in it, or the core of a tile with the storage errors that its
accesses find. -/
inductive Move where
  | event (i : Instr) (choices : AMap Nat)
  | core (tile : Nat) (choices : AMap Nat)
deriving DecidableEq, Repr

/-- An entry of the tile map (R35): the site, or absent; whether pass 2 or a graft placed it. -/
structure MapEntry where
  site : Option Nat := none
  moved : Bool := false
deriving DecidableEq, Repr

/-- A tile site: its manifest record (R32), and whether it has become defective (R36). `links` has a bit for each failed
link: N, E, S and W, and above them the skip links in the same order (R68). -/
structure Site where
  usable : Bool := false
  fmax : Nat := 0
  trims : BitVec 12 := 0
  links : BitVec 8 := 0
deriving DecidableEq, Repr

/-- The whole state. -/
structure State where
  module : Module := {}
  fields : AMap Field := []
  /-- the tile map, keyed by logical index; sites, keyed by site number -/
  map : AMap MapEntry := []
  sites : AMap Site := []
  tiles : AMap Tile := []
  ports : AMap Port := []
  cellars : AMap Stack := []
  /-- BAR 0 registers, keyed by offset (R147) -/
  bar0 : AMap W64 := []
  host : HostSide := {}
  plots : AMap Plot := []
  /-- the stable vector G of the trellis (R103) -/
  gvec : AMap (Ticket × Bool) := []
  /-- broadcasts of G on their way, newest first (R103) -/
  gcasts : List (AMap (Ticket × Bool)) := []
  /-- packets in flight, oldest first -/
  net : List Packet := []
  /-- detours installed: site and number of the failed link (R80) -/
  detours : List (Nat × Nat) := []
  vint : BitVec 8 := 0
  /-- a full remap, and a resynchronisation, have to follow (R47, R77, R80, R92, R93; R112, R117, R303) -/
  remapDue : Bool := false
  resyncDue : Bool := false
  /-- the sites that the remap is for, with a mask of the links failed there, or 0 for the site itself; the plots that it has
  pre-empted (R93, R94) -/
  remapSites : List (Nat × BitVec 8) := []
  remapOut : List Nat := []
  /-- the plots that the resynchronisation has pre-empted (R117) -/
  resyncOut : List Nat := []
  /-- tickets of writes that the control-space interface has performed and not yet acknowledged (R101, R149) -/
  ctrlAcks : List Pair := []
  /-- attachment sites of agents: kind * 256 + number to logical tile index (R434) -/
  attach : AMap Nat := []
  cur : Cur := {}
  schedule : List Move := []
  focus : Nat := 0
  /-- what the surroundings do in the present step: errors that strike a bit, which of several broadcasts arrives, which
  entry a full structure gives up; an unlisted key means 0, no error and the first -/
  choices : AMap Nat := []
  /-- the model's own counter of free values: every step advances it -/
  seed : Nat := 0
deriving DecidableEq, Repr

/-- The module right after reset: input power absent, nothing released, every register at the value
the spec states (an unlisted register), every field whose reset the spec gives as "—" at 0
(DESIGN CHOICE, notes/assumptions/1.md). -/
def State.reset : State := {}

end Sys2Proof.Machine
end

