-- ==== Sys2Proof/Machine/Ops.lean ====
section
/-! DEFINITION. The shared operations: bit fields, the tables of units, control registers with their
reset values, registers with their landing windows (R203 to R205), taking a trap and returning from
one (R227, R228), waits (R168, R312), the pad with its poison, tags and region tracker (R221, R222,
R280 to R282, R292). -/

namespace Sys2Proof.Machine

open Host Sys2Proof

/-- What a meaning answers. -/
abbrev Res := Outcome State Fault Refusal

/-! ### Bit fields -/

/-- Field [lo + n - 1 : lo] of a word, as a number. -/
def fld (w : W64) (lo n : Nat) : Nat := (w.toNat >>> lo) % 2 ^ n

/-- The word with field [lo + n - 1 : lo] set to the low bits of `v`. -/
def setFld (w : W64) (lo n v : Nat) : W64 :=
  BitVec.ofNat 64 (w.toNat - ((w.toNat >>> lo) % 2 ^ n) <<< lo + (v % 2 ^ n) <<< lo)

/-- Bit `i` of a word. -/
def bit (w : W64) (i : Nat) : Bool := w.getLsbD i

def setBit (w : W64) (i : Nat) (b : Bool) : W64 := setFld w i 1 b.toNat

/-- The low `n` bits of `v` as a two's-complement integer (R318, sext). -/
def sext (v n : Nat) : Int :=
  let x := v % 2 ^ n
  if x < 2 ^ (n - 1) then (x : Int) else (x : Int) - 2 ^ n

/-- An integer wrapped to a number of `n` bits (R318, wrap). -/
def wrap (x : Int) (n : Nat) : Nat := (x % 2 ^ n).toNat

/-- `x` limited to at most `hi`: the saturating counters of the spec. -/
def sat (x hi : Nat) : Nat := if x ≤ hi then x else hi

/-- Add `by'` to a saturating counter field. -/
def incFld (w : W64) (lo n by' : Nat) : W64 := setFld w lo n (sat (fld w lo n + by') (2 ^ n - 1))

def w64 (n : Nat) : W64 := BitVec.ofNat 64 n

/-- Remove the first entry of a list that satisfies `p`. -/
def eraseFirst {α : Type} (p : α → Bool) : List α → List α
  | [] => []
  | x :: xs => if p x then xs else x :: eraseFirst p xs

/-- Replace entry `i` of a list. -/
def setAt {α : Type} (l : List α) (i : Nat) (x : α) : List α := l.set i x

/-- Rebuild the first entry that satisfies `p`. -/
def mapFirst {α : Type} (p : α → Bool) (f : α → α) : List α → List α
  | [] => []
  | x :: xs => if p x then f x :: xs else x :: mapFirst p f xs

/-! ### Tickets (R96) -/

/-- `a` exceeds `b`: the difference modulo 2^16 lies in 1 to 32,767 (R96). -/
def exceeds (a b : Ticket) : Bool := 1 ≤ (a - b).toNat && (a - b).toNat ≤ 32767

/-- a ⪰ b (R96). -/
def atOrAfter (a b : Ticket) : Bool := decide ((a - b).toNat < 32768)

/-- wmax of R96: a if a ⪰ b, and b otherwise. -/
def wmax (a b : Ticket) : Ticket := if atOrAfter a b then a else b

/-! ### Reset values of control registers (R213, R214 and each chapter's own table) -/

/-- Reset value of a tile control register. -/
def tileReset (idx : Nat) : W64 :=
  if 0x600 ≤ idx ∧ idx ≤ 0x63F then 0xFFFFFFFF#64        -- CAU_VECf: v = g = 0xFFFF (R119)
  else if idx = 0x402 then 0x1000#64                      -- MAT_IDLE (R269)
  else if idx = 0x501 then 1#64                           -- PWR_GRANT.cls (R198)
  else if idx = 0x787 then w64 (0x40 + 0x800 * 2 ^ 8 + 0x40 * 2 ^ 20 + 0x400 * 2 ^ 28 + 0x10 * 2 ^ 40 + 4 * 2 ^ 48)
  else 0#64

/-- Reset value of a context's own control register. -/
def ctxReset (idx : Nat) : W64 := if idx = 0x400 then 0xF#64 else 0#64

/-! ### The layout of BAR 0 (R147) -/

def offLimit : Nat := 0x00000
def offStatus : Nat := 0x00008
def offFld (f : Nat) : Nat := 0x00200 + 8 * f
def offCau (f : Nat) : Nat := 0x00400 + 8 * f
def offLink (n : Nat) : Nat := 0x00800 + 8 * n
def offMbx (n : Nat) : Nat := 0x00840 + 8 * n
def offEvt : Nat := 0x00880
def offMbxBuf (n : Nat) : Nat := 0x10000 + n * 0x2000
def offSelf : Nat := 0x20000
def offPeer (i : Nat) : Nat := 0x20800 + 8 * i
def offPort (p : Nat) : Nat := 0x30000 + 0x100 * p
def offState (p : Nat) : Nat := offPort p
def offWlmap (p : Nat) : Nat := offPort p + 0x08
def offPolicy (p : Nat) : Nat := offPort p + 0x10
def offOptLink (p : Nat) : Nat := offPort p + 0x18
def offHealth (p w : Nat) : Nat := offPort p + 0x40 + 8 * w
def offSet (k : Nat) : Nat := 0x40000 + 8 * k
def offRedw (i : Nat) : Nat := 0x40080 + 8 * i
def offPeerwin (i : Nat) : Nat := 0x40100 + 8 * i
def offSetroot (k : Nat) : Nat := 0x40400 + 8 * k
def offStack (k : Nat) : Nat := 0x50000 + 0x100 * k
def offStk (k : Nat) : Nat := offStack k
def offRack (k : Nat) : Nat := offStack k + 0x08
def offPois (k : Nat) : Nat := offStack k + 0x10
def offShoot (k : Nat) : Nat := offStack k + 0x18
def offRackq (k : Nat) : Nat := offStack k + 0x20
def offRackdone (k : Nat) : Nat := offStack k + 0x30
def offRing : Nat := 0x80000

/-- Reset value of a BAR 0 register (R25, R57, R144). HOST_CAU_FLD is computed on a read. -/
def bar0Reset (off : Nat) : W64 :=
  if off = offLimit then w64 (0xE10 + 0x4E2 * 2 ^ 12 + 0x69 * 2 ^ 24 + 0x1F4 * 2 ^ 32 + 0x44C * 2 ^ 41)
  else if 0x30000 ≤ off ∧ off < 0x36000 then
    if off % 0x100 = 0x00 then 0xC#64                                   -- width DOWN
    else if off % 0x100 = 0x08 then 0xF#64                              -- spare_for none
    else if off % 0x100 = 0x10 then w64 (10 + 40 * 2 ^ 8 + 16 * 2 ^ 16 + 0x28 * 2 ^ 40)
    else 0#64
  else if 0x50000 ≤ off ∧ off < 0x53000 ∧ off % 0x100 = 0x08 then w64 (0xFFFF + 10 * 2 ^ 16)
  else 0#64

/-- Control registers of which each context holds its own copy (R213, R269, R409). -/
def perCtx (idx : Nat) : Bool :=
  (0x010 ≤ idx && idx ≤ 0x016) || (0x100 ≤ idx && idx ≤ 0x108) || idx == 0x400 || idx == 0x401 ||
  idx == 0x480 || (0x490 ≤ idx && idx ≤ 0x4AF)

/-! ### Tables of units -/

def State.tile (s : State) (t : Nat) : Tile := mget {} s.tiles t
def State.setTile (s : State) (t : Nat) (T : Tile) : State := { s with tiles := mput s.tiles t T }
def State.modTile (s : State) (t : Nat) (f : Tile → Tile) : State := s.setTile t (f (s.tile t))

def Tile.ctx (T : Tile) (x : Nat) : Ctx := mget {} T.ctxs x
def Tile.setCtx (T : Tile) (x : Nat) (c : Ctx) : Tile := { T with ctxs := mput T.ctxs x c }
def Tile.modCtx (T : Tile) (x : Nat) (f : Ctx → Ctx) : Tile := T.setCtx x (f (T.ctx x))

def State.ctx (s : State) (t x : Nat) : Ctx := (s.tile t).ctx x
def State.modCtx (s : State) (t x : Nat) (f : Ctx → Ctx) : State := s.modTile t (·.modCtx x f)

def Tile.cr (T : Tile) (idx : Nat) : W64 := mget (tileReset idx) T.creg idx
def Tile.setCr (T : Tile) (idx : Nat) (v : W64) : Tile :=
  { T with creg := mset (tileReset idx) T.creg idx v }
def Tile.modCr (T : Tile) (idx : Nat) (f : W64 → W64) : Tile := T.setCr idx (f (T.cr idx))

def Ctx.cr (c : Ctx) (idx : Nat) : W64 := mget (ctxReset idx) c.creg idx
def Ctx.setCr (c : Ctx) (idx : Nat) (v : W64) : Ctx :=
  { c with creg := mset (ctxReset idx) c.creg idx v }
def Ctx.modCr (c : Ctx) (idx : Nat) (f : W64 → W64) : Ctx := c.setCr idx (f (c.cr idx))

def State.reg0 (s : State) (off : Nat) : W64 := mget (bar0Reset off) s.bar0 off
def State.setReg0 (s : State) (off : Nat) (v : W64) : State :=
  { s with bar0 := mset (bar0Reset off) s.bar0 off v }
def State.modReg0 (s : State) (off : Nat) (f : W64 → W64) : State := s.setReg0 off (f (s.reg0 off))

def State.field (s : State) (f : Nat) : Field := mget {} s.fields f
def State.setField (s : State) (f : Nat) (F : Field) : State := { s with fields := mput s.fields f F }
def State.modField (s : State) (f : Nat) (g : Field → Field) : State := s.setField f (g (s.field f))

def State.port (s : State) (p : Nat) : Port := mget {} s.ports p
def State.setPort (s : State) (p : Nat) (P : Port) : State := { s with ports := mput s.ports p P }
def State.modPort (s : State) (p : Nat) (f : Port → Port) : State := s.setPort p (f (s.port p))

def State.stack (s : State) (k : Nat) : Stack := mget {} s.cellars k
def State.setStack (s : State) (k : Nat) (K : Stack) : State := { s with cellars := mput s.cellars k K }
def State.modStack (s : State) (k : Nat) (f : Stack → Stack) : State := s.setStack k (f (s.stack k))

def State.plot (s : State) (p : Nat) : Plot := mget {} s.plots p
def State.setPlot (s : State) (p : Nat) (P : Plot) : State := { s with plots := mput s.plots p P }
def State.modPlot (s : State) (p : Nat) (f : Plot → Plot) : State := s.setPlot p (f (s.plot p))

/-- The choice of the present step under a key, and whether an error strikes there. -/
def State.chosen (s : State) (key : Nat) : Nat := mget 0 s.choices key
def State.strikes (s : State) (key : Nat) : Bool := s.chosen key != 0

/-- The tile and context whose word is issuing. -/
def State.here (s : State) : Tile := s.tile s.cur.tile
def State.me (s : State) : Ctx := s.here.ctx s.cur.ctx
def State.modHere (s : State) (f : Tile → Tile) : State := s.modTile s.cur.tile f
def State.modMe (s : State) (f : Ctx → Ctx) : State := s.modCtx s.cur.tile s.cur.ctx f

/-! ### Context state (R168) and mode -/

def dormant : Nat := 0
def ready : Nat := 1
def running : Nat := 2
def waiting : Nat := 3
def trapped : Nat := 4
def halted : Nat := 5

def Ctx.st (c : Ctx) : Nat := fld (c.cr 0x010) 0 3
def Ctx.reason (c : Ctx) : Nat := fld (c.cr 0x010) 3 3
/-- State and wait reason of CTX_STATUS; its ctx field is computed on a read. -/
def Ctx.setSt (c : Ctx) (st reason : Nat) : Ctx := c.setCr 0x010 (w64 (st + 8 * reason))

/-- CTX_MODE.s: true in S mode. -/
def Ctx.sMode (c : Ctx) : Bool := bit (c.cr 0x015) 0

/-! ### Registers (R209). A register file key: g n, p n, k n, c n, lane i of v n, spill slot, pair tag. -/

def gKey (n : Nat) : Nat := n
def pKey (n : Nat) : Nat := 64 + n
def kKey (n : Nat) : Nat := 80 + n
def cKey (n : Nat) : Nat := 96 + n
def vKey (n lane : Nat) : Nat := 128 + 32 * n + lane
def spKey (slot : Nat) : Nat := 2048 + slot
def spTagKey (slot : Nat) : Nat := 4096 + slot / 2

/-- The registers that read a constant and discard writes: g0, p0, k0, c0 (R209). -/
def fixedReg (key : Nat) : Option RVal :=
  if key = 0 then some {}
  else if key = 64 then some { bits := 1 }
  else if key = 80 then some { bits := 0xFFFFFFFF }
  else if key = 96 then some {}
  else none

/-- A value the spec leaves undefined (R203): the bits are free, and a read of it never traps for its poison. A capability
register returns free bits without a tag, or one of the two values that it holds around the landing: undefined or not, no tagged
capability comes of it that none was derived to be (R216). -/
def freeVal (seed key : Nat) (old new : RVal) : RVal :=
  let free : RVal := { bits := Config.freeBits seed key }
  if 96 ≤ key ∧ key < 112 then
    match Config.freeNat seed (2 ^ 22 + key) % 3 with
    | 0 => free
    | 1 => { old with poison := false }
    | _ => { new with poison := false }
  else free

/-- Reading a register in cycle `cyc` (R202, R203): a fixed register reads its constant; a register with a result still in
flight reads a free value, but for a spill result of the same cycle, which is not visible yet (R203, R220). -/
def Ctx.read (c : Ctx) (cyc seed key : Nat) : RVal :=
  match fixedReg key with
  | some v => v
  | none =>
    let old : RVal := mget {} c.regs key
    match c.flights.find? (fun f => f.reg == key && !(f.exact && f.issued == cyc)) with
    | some f => freeVal seed key old f.val
    | none => old

/-- The value written at once, outside any landing window (release, starts, hand-offs, restore). -/
def Ctx.write (c : Ctx) (key : Nat) (v : RVal) : Ctx :=
  if (fixedReg key).isSome then c else { c with regs := mset {} c.regs key v }

/-- The rank of a new result: four times the cycle in which it lands, a free one of its window, with a free order among the results
of one cycle; but of two spill stores of one group the later word's value remains (R203, R204, R220). -/
def landRank (c : Ctx) (cyc seed key lat : Nat) (exact : Bool) : Nat :=
  let n := Config.freeNat seed (2 ^ 20 + key + 2 ^ 13 * c.flights.length)
  4 * (cyc + 1 + (if exact then 0 else n % lat)) + (if 2048 ≤ key then 0 else n / lat % 4)

/-- A flight takes its place among those of its context: they stand in the order in which they land. -/
def Ctx.fly (c : Ctx) (f : Flight) : Ctx :=
  { c with flights := c.flights.takeWhile (fun g => g.rank ≤ f.rank) ++ f :: c.flights.dropWhile (fun g => g.rank ≤ f.rank) }

/-- A result that lands within `lat` cycles (R203). The flights stand in the order in which they land, so that of two results
whose windows overlap either may be the later (R204). -/
def Ctx.land (c : Ctx) (cyc seed key : Nat) (v : RVal) (lat : Nat) (exact : Bool) : Ctx :=
  if (fixedReg key).isSome then c else
  c.fly { reg := key, val := v, issued := cyc, due := cyc + lat, rank := landRank c cyc seed key lat exact, exact := exact }

/-- A result whose window goes on has been overtaken by a later one that is known to have landed: the register keeps that. -/
def Flight.overtaken (landed : List Flight) (f : Flight) : Flight :=
  match (landed.filter (fun g => g.reg == f.reg && decide (f.rank ≤ g.rank))).getLast? with
  | some g => { f with val := g.val, go := false }
  | none => f

/-- Every result due by `cyc` is in its register. -/
def Ctx.settleUpTo (c : Ctx) (cyc : Nat) : Ctx :=
  let landed := c.flights.filter (fun f => f.due ≤ cyc)
  { c with regs := landed.foldl (fun m f => mset {} m f.reg f.val) c.regs,
           flights := (c.flights.filter (fun f => cyc < f.due)).map (Flight.overtaken landed) }

/-- Every result in flight has landed (R205), but for the status of a CTXGO that commits within the two cycles in which its context
issues nothing (R325). -/
def Ctx.settle (c : Ctx) : Ctx :=
  let landed := c.flights.filter (fun f => !f.go)
  { c with regs := landed.foldl (fun m f => mset {} m f.reg f.val) c.regs,
           flights := (c.flights.filter (·.go)).map (Flight.overtaken landed) }

/-- The registers that a start writes hold its values, whatever earlier result for them was still in flight (R180). -/
def Ctx.landOff (c : Ctx) (keys : List Nat) : Ctx := { c with flights := c.flights.filter (fun f => !keys.contains f.reg) }

/-- The status of a CTXGO is known: its flight carries it (R325). -/
def Ctx.landGo (c : Ctx) (reg issued : Nat) (v : RVal) : Ctx :=
  { c with flights := c.flights.map (fun f => if f.go && f.reg == reg && f.issued == issued then { f with val := v, go := false } else f) }

/-- A register read of the issuing word, in its group's issue cycle. A register that another word of the group writes reads a
free value, unless that is a spill load's (R202, R203). -/
def State.rd (s : State) (key : Nat) : RVal :=
  if s.cur.hidden.contains key ∧ (fixedReg key).isNone then
    let old : RVal := mget {} s.me.regs key
    freeVal s.seed key old old
  else s.me.read s.here.cycle s.seed key
/-- The issuing word reads the register before its result has landed, so that what it reads is undefined (R203). -/
def State.early (s : State) (key : Nat) : Bool :=
  (fixedReg key).isNone &&
    (s.cur.hidden.contains key || s.me.flights.any (fun f => f.reg == key && !(f.exact && f.issued == s.here.cycle)))

/-- A result of the issuing word. -/
def State.landAs (s : State) (key : Nat) (v : RVal) (lat : Nat) (exact : Bool) : State :=
  s.modMe (·.land s.here.cycle s.seed key v lat exact)
abbrev State.land (s : State) (key : Nat) (v : RVal) (lat : Nat) : State := s.landAs key v lat false
/-- A spill result, which lands in exactly issue + 1. -/
abbrev State.landExact (s : State) (key : Nat) (v : RVal) : State := s.landAs key v 1 true
/-- A result of a word that waits: the context issues no later word until it has landed (R312). -/
def State.landHold (s : State) (key : Nat) (v : RVal) : State :=
  (s.land key v 2).modMe (fun c => { c with hold := s.here.cycle + 2 })

def State.g (s : State) (n : Nat) : RVal := s.rd (gKey n)
def State.p (s : State) (n : Nat) : RVal := s.rd (pKey n)
def State.k (s : State) (n : Nat) : RVal := s.rd (kKey n)
def State.c (s : State) (n : Nat) : RVal := s.rd (cKey n)
def State.lane (s : State) (n i : Nat) : RVal := s.rd (vKey n i)

def RVal.w (v : RVal) : W64 := v.bits.setWidth 64
def RVal.lo32 (v : RVal) : W32 := v.bits.setWidth 32
def RVal.isTrue (v : RVal) : Bool := v.bits.getLsbD 0
def gval (v : W64) (poison : Bool) : RVal := { bits := v.setWidth 128, poison := poison }
def lval (v : W32) (poison : Bool) : RVal := { bits := v.setWidth 128, poison := poison }
def pval (b : Bool) (poison : Bool) : RVal := { bits := if b then 1 else 0, poison := poison }

/-- Number of elements of an engine command (R412). -/
def Cmd.elems (c : Cmd) : Nat := c.cnt.foldl (fun n k => n * (k + 1)) 1

/-! ### Taking a trap (R205, R227, R228, R230) -/

/-- The counters that a trap advances: RAS_CHECK for CHECK from one of its three words (R230, R289, R323, R337, R363), RAS_POISON.traps
for POISON (R293, R305), PWR_MON.traps for POWER (R194, R198). -/
def Tile.countTrap (T : Tile) (cause : Nat) (info : W64) : Tile :=
  if cause = 0x08 then (if fld info 2 2 = 3 then T else T.modCr 0x781 (incFld · (16 * fld info 2 2) 16 1))
  else if cause = 0x0B then T.modCr 0x782 (incFld · 16 16 1)
  else if cause = 0x09 then T.modCr 0x502 (incFld · 29 8 1)
  else T

/-- Trap entry of a context: every in-flight result lands, CTX_EPC takes the packet and the resume word,
CTX_CAUSE and CTX_EINFO the cause; the mode moves to S with the old mode in ps, ntrap tells a trap taken
in S mode; the next packet is packet `vec`, CTX_EVEC.pc, word 0 (R228). -/
def Ctx.trapEntryAt (c : Ctx) (vec pc resume cause : Nat) (info : W64) : Ctx :=
  let c := c.settle
  let mode := c.cr 0x015
  let mode := if bit mode 0 then setBit mode 2 true else mode
  let mode := setBit (setBit mode 1 (bit mode 0)) 0 true
  let c := ((((c.setCr 0x011 (w64 (pc % 2 ^ 14 + resume * 2 ^ 14))).setCr 0x012 (w64 cause)).setCr 0x013 info).setCr
    0x015 mode).setSt trapped 0
  { c with
    pc := vec, first := 0, savedEnd := c.atEnd, atEnd := .next, midPacket := false
    bwait := none, mwaits := false, waitSeq := none }

/-- Trap entry with CTX_EVEC as it stands. -/
def Ctx.trapEntry (c : Ctx) (pc resume cause : Nat) (info : W64) : Ctx :=
  c.trapEntryAt (fld (c.cr 0x014) 0 14) pc resume cause info

/-- The value of control register i of context x that is in effect for that context: the old one of its own write until its packet after
next (R206). -/
def Tile.inEffect (T : Tile) (x i : Nat) : W64 :=
  match T.cpend.find? (fun w => w.ctx == x && w.idx == i && w.applied) with
  | some w => w.old
  | none => if perCtx i then (T.ctx x).cr i else T.cr i

/-- The registers that trap entry writes: CTX_EPC, CTX_CAUSE, CTX_EINFO, CTX_MODE. -/
def trapRegs : List Nat := [0x011, 0x012, 0x013, 0x015]

/-- Writes of the context to the trap registers that are still on their way come before what trap entry writes there (R208, R228). -/
def Tile.dropTrapWrites (T : Tile) (x : Nat) : Tile := { T with cpend := T.cpend.filter (fun w => w.ctx != x || !trapRegs.contains w.idx) }

/-- CTX_TIMER of one context after `k` cycles in which it was neither DORMANT nor HALTED (R229). -/
def Ctx.passTimer (c : Ctx) (k : Nat) : Ctx :=
  let n := fld (c.cr 0x016) 0 32
  if c.st = dormant ∨ c.st = halted ∨ n = 0 ∨ k = 0 then c
  else
    let c := c.setCr 0x016 (w64 (n - k))
    if n ≤ k then c.modCr 0x015 (setBit · 5 true) else c

/-- CTX_TIMER of one context after a cycle (R229). -/
def Ctx.tickTimer (c : Ctx) : Ctx := c.passTimer 1

/-! ### The power monitor (R194) -/

/-- Consecutive cycles over g at which the monitor acts (R194). -/
def monitorOver : Nat := 256
/-- Consecutive cycles with the estimate at most g at which a throttle ends (R194). -/
def monitorUnder : Nat := 64

/-- PWR_MON and the monitor's count after a cycle in which the estimate is `e`: cur, and over, the consecutive cycles over g up to 256,
at which it stays until MONITOR_OVERRUN takes it (R194, R198). -/
def Tile.monitor (T : Tile) (e : Nat) : Tile :=
  let high := decide (fld (T.cr 0x501) 0 4 < e)
  let run := if high then min monitorOver (fld (T.cr 0x502) 4 9 + 1) else 0
  { T.modCr 0x502 (fun w => setFld (setFld w 0 4 e) 4 9 run) with under := if high then 0 else min monitorUnder (T.under + 1) }

/-- One cycle of the monitor: the current that a tile draws follows from no rule, so the estimate is a free value (log 40). Of several
cycles in one step, `j` numbers them. -/
def Tile.monitorCycle (T : Tile) (seed t j : Nat) : Tile := T.monitor (Config.freeNat seed (2 ^ 24 + 2 ^ 14 * j + t) % 16)

/-- `d` cycles of the monitor of a core that is idle meanwhile: for a free number of the last of them the estimate was over g without a
break, and before them it was not. -/
def Tile.passMonitor (T : Tile) (seed t d : Nat) : Tile :=
  let e := Config.freeNat seed (2 ^ 24 + t) % 16
  let g := fld (T.cr 0x501) 0 4
  let r := Config.freeNat seed (2 ^ 23 + 2 ^ 14 + t) % d
  let run := fun (n : Nat) => min monitorOver (if r + 1 = d then n + d else r + 1)
  if g < e then { T.modCr 0x502 (fun w => setFld (setFld w 0 4 e) 4 9 (run (fld w 4 9))) with under := 0 }
  else { T.modCr 0x502 (fun w => setFld (setFld w 0 4 e) 4 9 0) with under := min monitorUnder (if r + 1 = d then T.under + d else r + 1) }

/-- `n` frozen cycles: the clock, the timers and the monitor run, nothing else moves (R207, R229, R358). -/
def Tile.freeze (T : Tile) (seed t : Nat) : Nat → Tile
  | 0 => T
  | n + 1 =>
    let T₁ : Tile := { T with clock := T.clock + 1, ctxs := T.ctxs.map (fun e => (e.1, e.2.tickTimer)) }
    Tile.freeze (T₁.monitorCycle seed t (n + 1)) seed t n

/-- CORE_RTRK.used and high after a change (R222). -/
def Tile.trkCount (T : Tile) : Tile :=
  T.modCr 0x004 (fun w =>
    let w := setFld w 0 6 T.trk.length
    if fld w 6 6 < T.trk.length then setFld w 6 6 T.trk.length else w)

/-- Retire the entries of an agent. -/
def Tile.trkRetire (T : Tile) (p : TrkKind → Bool) : Tile :=
  ({ T with trk := T.trk.filter (fun e => !p e.kind) }).trkCount

/-- Context x waits in a SEND no more: the entry that it held while it waited retires (R183, R403). -/
def Tile.dropWait (T : Tile) (x : Nat) : Tile :=
  if T.trk.any (fun e => e.kind == .sendWait x) then T.trkRetire (· == .sendWait x) else T

/-- A trap of context `x` of tile `t`. -/
def State.trapAt (s : State) (t x pc resume cause : Nat) (info : W64) : State :=
  s.modTile t (fun T =>
    let vec := fld (T.inEffect x 0x014) 0 14
    let T := (((T.dropTrapWrites x).modCtx x (·.trapEntryAt vec pc resume cause info)).countTrap cause info).dropWait x
    { T with active := if T.active = some x then none else T.active })

/-- ERET's own effect with CTX_EPC and CTX_MODE.ps as given (R228): the mode returns to ps, the state is READY, the next packet is
CTX_EPC.pc at word CTX_EPC.resume. A packet that resumes after its first group still ends as its word 0 said. -/
def Ctx.eretFrom (c : Ctx) (epc : W64) (ps : Bool) : Ctx :=
  let c := (c.modCr 0x015 (setBit · 0 ps)).setSt ready 0
  { c with pc := fld epc 0 14, first := fld epc 14 2, atEnd := if fld epc 14 2 = 0 then .next else c.savedEnd }

/-- ERET with the registers as they stand. -/
def Ctx.eret (c : Ctx) : Ctx := c.eretFrom (c.cr 0x011) (bit (c.cr 0x015) 1)

/-- Context 0 is inside an open, protected pass (R295). -/
def Tile.passOpen (T : Tile) : Bool := bit (T.cr 0x582) 0 && !bit (T.cr 0x582) 1

/-- A synchronous trap of context `x`, or a status that waits for it at a packet boundary. Consumption of poison
by context 0 inside an open protected pass starts a rollback instead (R293, R296): the context waits until the
event POISON_ROLLBACK has run the steps of R296. A second consumption in the same pass after a rollback raises
POISON, sets unprot and sets why = 6. -/
def State.raiseAt (s : State) (t x pc resume cause : Nat) (info : W64) : State :=
  if cause = 0x0B ∧ x = 0 ∧ (s.tile t).passOpen then
    if bit ((s.tile t).cr 0x582) 23 then
      (s.modTile t (·.modCr 0x582 (fun w => setFld (setBit w 1 true) 20 3 6))).trapAt t x pc resume cause info
    else
      s.modTile t (fun T => ({ T with pass := { T.pass with roll := 1 },
                                       active := if T.active = some 0 then none else T.active }).modCtx 0
        (·.setSt waiting 2))
  else s.trapAt t x pc resume cause info

/-- The issuing word raises a synchronous trap (R227). -/
def State.raise (s : State) (cause : Nat) (info : W64) : State :=
  let s := { s with cur := { s.cur with ended := .trapped, cause := cause, info := info } }
  s.raiseAt s.cur.tile s.cur.ctx s.me.pc s.cur.first cause info

def trap (cause : Nat) (info : W64) (s : State) : Res := .next (s.raise cause info)

/-- Of several conditions that hold, the lowest cause code reports; of one code, the first listed
(R227, R348). -/
def lowest : List (Option (Nat × W64)) → Option (Nat × W64)
  | [] => none
  | none :: l => lowest l
  | some a :: l =>
    match lowest l with
    | none => some a
    | some b => if b.1 < a.1 then some b else some a

/-- The word's own conditions: trap with the lowest, or go on. A group that waits makes them again in the cycle in which its wait ends
and in none before it (R348), so a look at whether it would go on passes them by. -/
def orTrap (l : List (Option (Nat × W64))) (s : State) (k : State → Res) : Res :=
  if s.cur.trial then k s else
  match lowest l with
  | some (cause, info) => trap cause info s
  | none => k s

def cond (b : Bool) (cause : Nat) (info : W64) : Option (Nat × W64) := if b then some (cause, info) else none

/-- CTX_EINFO that holds the word position alone, with further fields above it. -/
def State.winfo (s : State) (rest : Nat) : W64 := w64 (s.cur.word + rest)

/-- ILLEGAL of the issuing word: word position and the word (R230). -/
def State.illegalInfo (s : State) : W64 := w64 (s.cur.word + s.cur.raw.toNat * 4)

/-- POISON at issue: pad address 0 (R230, R293). -/
def poisonIf (s : State) (b : Bool) : Option (Nat × W64) := cond b 0x0B (s.winfo 0)

/-! ### Waits (R168, R312) -/

/-- The issuing word waits with a reason code: nothing of it happens now, and its group is tried again
when the context is next selected. Another context's packet that is at issue stays at issue. -/
def State.waitFor (s : State) (reason : Nat) : State :=
  let s := { s with cur := { s.cur with ended := .waits } }
  s.modHere (fun T => ({ T with active := if T.active = some s.cur.ctx then none else T.active }).modCtx s.cur.ctx
    (·.setSt waiting reason))

def waitOr (ok : Bool) (reason : Nat) (s : State) (k : State → Res) : Res :=
  if ok then k s else .next (s.waitFor reason)

/-! ### The region tracker (R222, R280) -/

/-- The lowest-numbered of the entries `l` that conflicts with bytes [lo, hi) (R280). -/
def trkConflict (l : List TrkEntry) (lo hi : Nat) (writes : Bool) : Option TrkEntry :=
  (l.filter (fun e => (e.writes || writes) && decide (e.lo < hi) && decide (lo < e.hi))).foldl
    (fun best e => match best with
      | none => some e
      | some b => if e.n < b.n then some e else some b) none

def raceInfo (word entry : Nat) (agent : Bool) (addr : Nat) (line : Bool) : W64 :=
  w64 (word + entry % 32 * 4 + (if agent then 128 else 0) + addr % 2 ^ 22 * 256 + (if line then 2 ^ 30 else 0))

/-- The entries that an access of the issuing context can conflict with: all but that of its own SEND that waits, whose group makes
its checks again (R401, R403). -/
def State.rivals (s : State) : List TrkEntry := s.here.trk.filter (fun e => e.kind != .sendWait s.cur.ctx)

/-- PADRACE against the tracker, for a context's access (agent = false) or an agent's issue. -/
def State.trkCheck (s : State) (lo hi : Nat) (writes agent : Bool) : Option (Nat × W64) :=
  match trkConflict s.rivals lo hi writes with
  | some e => some (0x05, raceInfo s.cur.word e.n agent (max lo e.lo) false)
  | none => none

def freeEntry (used : List Nat) : List Nat → Option Nat
  | [] => none
  | n :: l => if used.contains n then freeEntry used l else some n

/-- Enter an agent: the lowest-numbered free entry of its kind, 0 to 27 general, 28 to 31 receive. -/
def Tile.trkAdd (T : Tile) (kind : TrkKind) (writes : Bool) (lo hi : Nat) (rx : Bool) : Option Tile :=
  match freeEntry (T.trk.map (·.n)) (if rx then [28, 29, 30, 31] else List.range 28) with
  | none => none
  | some n =>
    let e : TrkEntry := { n := n, kind := kind, writes := writes, lo := lo, hi := hi, seq := T.opSeq }
    some ({ T with trk := T.trk ++ [e] }).trkCount

def Tile.trkFull (T : Tile) : Bool := 28 ≤ (T.trk.filter (fun e => e.n < 28)).length

/-! ### The pad (R218, R221, R281, R282, R292) -/

/-- The numbers from `a` to `b`. -/
def fromTo (a b : Nat) : List Nat := (List.range (b + 1 - a)).map (a + ·)

/-- The units of `size` bytes that bytes [a, a + n) touch. -/
def units (size a n : Nat) : List Nat := if n = 0 then [] else fromTo (a / size) ((a + n - 1) / size)

def Tile.padRead (T : Tile) (a n : Nat) : Nat := readBytes T.pad a n

/-- Some 64-bit pad word of [a, a + n) is poisoned. -/
def Tile.padPoisoned (T : Tile) (a n : Nat) : Bool := (units 8 a n).any (fun w => mget false T.padPoison w)

/-- Poison written by a store: poisoned data set the word's bit, clean data that cover the whole word
clear it, and a partial store leaves it (R292). -/
def Tile.padSetPoison (T : Tile) (a n : Nat) (poison : Bool) : Tile :=
  { T with padPoison := (units 8 a n).foldl (fun m w =>
      if poison then mset false m w true
      else if a ≤ 8 * w ∧ 8 * w + 8 ≤ a + n then mset false m w false else m) T.padPoison }

def Tile.clearCapTags (T : Tile) (a n : Nat) : Tile :=
  { T with capTags := (units 16 a n).foldl (fun m g => mset false m g false) T.capTags }

/-- Line tags of the lines of [a, a + n) become (X, c) (R281). -/
def Tile.tagLines (T : Tile) (x : Nat) (c : BitVec 8) (a n : Nat) : Tile :=
  let put := fun (m : AMap LineTag) (l : Nat) => mset {} m l ⟨BitVec.ofNat 2 x, c⟩
  { T with lineTags := (units 64 a n).foldl put T.lineTags }

/-- A write of `n` bytes by context `x` or an agent of it: bytes, poison, tags. -/
def Tile.padWrite (T : Tile) (x a n v : Nat) (poison : Bool) : Tile :=
  ((({ T with pad := writeBytes T.pad a n v }).padSetPoison a n poison).clearCapTags a n).tagLines x T.rc a n

/-- A write by the receive path or HWIN, whose lines take the tag (0, RC − 128) (R281). -/
def Tile.padReceive (T : Tile) (a : Nat) (data : List PByte) : Tile :=
  let n := data.length
  let bytes := data.map (fun (b : PByte) => b.1)
  let bad := data.map (fun (b : PByte) => b.2)
  let T := (({ T with pad := putBytes T.pad a bytes }).clearCapTags a n).tagLines 0 (T.rc - 128#8) a n
  let put := fun (m : AMap Bool) (w : Nat) =>
    let covered := (List.range n).filter (fun i => (a + i) / 8 == w)
    if covered.any (fun i => bad.getD i false) then mset false m w true
    else if a ≤ 8 * w ∧ 8 * w + 8 ≤ a + n then mset false m w false else m
  { T with padPoison := (units 8 a n).foldl put T.padPoison }

/-- The bytes of [a, a + n) with the poison of their words. -/
def Tile.padBytes (T : Tile) (a n : Nat) : List PByte :=
  (List.range n).map (fun i => (mget 0#8 T.pad (a + i), mget false T.padPoison ((a + i) / 8)))

/-- The line-tag check of R282 for context `x`: the lowest failing line of [lo, hi). -/
def Tile.lineRace (T : Tile) (x lo hi : Nat) : Option Nat :=
  (units 64 lo (hi - lo)).find? (fun l =>
    let tag : LineTag := mget {} T.lineTags l
    let o := (T.ctx x).obs
    tag.ctx.toNat != x && decide ((T.rc - tag.cnt).toNat ≤ 127) &&
      !(decide (1 ≤ (o - tag.cnt).toNat) && decide ((o - tag.cnt).toNat ≤ 127)))

def State.lineCheck (s : State) (lo hi : Nat) : Option (Nat × W64) :=
  match s.here.lineRace s.cur.ctx lo hi with
  | some l => some (0x05, raceInfo s.cur.word 0 false (max lo (64 * l)) true)
  | none => none

/-! ### Releases and acquires (R275, R276, R281) -/

/-- RC := (RC + 1) mod 256. -/
def Tile.release (T : Tile) : Tile := { T with rc := T.rc + 1 }

/-- An acquire that takes the count `c` of a line (R281). -/
def Ctx.acquireLine (c : Ctx) (cnt : BitVec 8) : Ctx :=
  if 1 ≤ (cnt - c.obs).toNat ∧ (cnt - c.obs).toNat ≤ 127 then { c with obs := cnt } else c

/-- Any other acquire at TILE or wider: o[X] := RC. -/
def Tile.acquire (T : Tile) (x : Nat) : Tile := T.modCtx x (fun c => { c with obs := T.rc })

/-! ### Tile registers (R211, R212) -/

def Tile.treg (T : Tile) (i : Nat) : TReg := mget {} T.tregs i
def Tile.setTreg (T : Tile) (i : Nat) (r : TReg) : Tile := { T with tregs := mput T.tregs i r }

/-- Tile register i is the target of an operation in progress, or a TLD or TST of it is (R211, R384). -/
def Tile.inflight (T : Tile) (i : Nat) : Bool :=
  T.aq.any (fun o => (o.kind != 3 && o.td == i) || o.tds.contains i) || T.tq.any (fun o => o.t == i)

/-- The 5-bit status of tile register i as in MAT_TSTAT (R211). -/
def Tile.tstat (T : Tile) (i : Nat) : Nat :=
  let r := T.treg i
  r.valid.toNat + 2 * r.dirty.toNat + 4 * (T.inflight i).toNat + 8 * r.owner.getD 0

/-! ### Causal vector of a tile (R104, R119) -/

def Tile.vec (T : Tile) (f : Nat) : Ticket := BitVec.ofNat 16 (fld (T.cr (0x600 + f)) 0 16)
def Tile.gcopy (T : Tile) (f : Nat) : Ticket := BitVec.ofNat 16 (fld (T.cr (0x600 + f)) 16 16)
def Tile.removed (T : Tile) (f : Nat) : Bool := bit (T.cr (0x600 + f)) 33

/-- CAU_VECf with its pend bit computed (R119). -/
def Tile.setVec (T : Tile) (f : Nat) (v g : Ticket) (removed : Bool) : Tile :=
  T.setCr (0x600 + f) (w64 (v.toNat + g.toNat * 2 ^ 16 + (if exceeds v g then 2 ^ 32 else 0) +
    (if removed then 2 ^ 33 else 0)))

/-- V[f] := wmax(V[f], t) (R104). -/
def Tile.mergePair (T : Tile) (q : Pair) : Tile :=
  T.setVec q.f (wmax (T.vec q.f) q.t) (T.gcopy q.f) (T.removed q.f)

/-- The pairs of a stamp that carry dependences, and pair 0, merged into V (R104). -/
def Tile.mergeStamp (T : Tile) (st : Stamp) : Tile := (st.own.toList ++ st.deps).foldl Tile.mergePair T

/-- The pending entries of V, in increasing field order (R104, R106). -/
def Tile.pending (T : Tile) : List Pair :=
  ((List.range 64).filter (fun f => exceeds (T.vec f) (T.gcopy f))).map (fun f => ⟨f, T.vec f⟩)

end Sys2Proof.Machine
end

