-- ==== Sys2Proof/Machine/Operands.lean ====
section
/-! DEFINITION. Operand forms: general operands with their poison, sign-extended immediates, vector
registers under a mask, and capabilities with their bounds and checks (R215 to R217, R348). -/

namespace Sys2Proof.Machine

open Host Sys2Proof

/-! ### General registers and immediates -/

/-- The value of g[n] as 64 bits, and its poison. -/
def State.gv (s : State) (n : Nat) : W64 := (s.g n).w
def State.gp (s : State) (n : Nat) : Bool := (s.g n).poison

/-- A result in g[d] within latency L. -/
def State.landG (s : State) (d : Nat) (v : W64) (poison : Bool) (lat : Nat) : State :=
  s.land (gKey d) (gval v poison) lat

/-- An immediate sign-extended to 64 bits (R306, R318). -/
def simm {n : Nat} (i : BitVec n) : W64 := i.signExtend 64

/-! ### Vectors and masks (R209, R366) -/

/-- The active lanes of mask k[n]. -/
def State.active (s : State) (n : Nat) : List Nat :=
  (List.range 32).filter (fun i => (s.k n).bits.getLsbD i)

/-- Land lanes of v[d]. -/
def State.landLanes (s : State) (d : Nat) (vals : List (Nat × RVal)) (lat : Nat) : State :=
  vals.foldl (fun s (i, v) => s.land (vKey d i) v lat) s

/-! ### Capabilities (R215, R216) -/

/-- A capability register: 128 bits, with the hidden tag and the poison of `RVal`. -/
def capAddr (v : RVal) : Nat := (v.bits.extractLsb' 0 56).toNat
def capPerms (v : RVal) : Nat := (v.bits.extractLsb' 56 8).toNat
def capSpace (v : RVal) : Nat := (v.bits.extractLsb' 64 3).toNat
def capE (v : RVal) : Nat := (v.bits.extractLsb' 67 6).toNat
def capB (v : RVal) : Nat := (v.bits.extractLsb' 73 27).toNat
def capL (v : RVal) : Nat := (v.bits.extractLsb' 100 28).toNat

/-- A capability from its fields. -/
def mkCap (addr perms space e B L : Nat) (tag poison : Bool) : RVal :=
  { bits := BitVec.ofNat 28 L ++ BitVec.ofNat 27 B ++ BitVec.ofNat 6 e ++ BitVec.ofNat 3 space ++
      BitVec.ofNat 8 perms ++ BitVec.ofNat 56 addr, tag := tag, poison := poison }

/-- base = ((address >> (e + 27)) << (e + 27)) | (B << e) (R216). -/
def capBase (v : RVal) : Nat :=
  (capAddr v >>> (capE v + 27)) <<< (capE v + 27) ||| (capB v <<< capE v)

/-- limit = base + (L << e) (R216). -/
def capLimit (v : RVal) : Nat := capBase v + capL v <<< capE v

/-- A tagged result keeps its tag only under the conditions of R216: e ≤ 29, space 1 to 5, limit within
its block and within 2^56. -/
def capSound (v : RVal) : Bool :=
  capE v ≤ 29 && 1 ≤ capSpace v && capSpace v ≤ 5 && decide (capLimit v ≤ 2 ^ 56) &&
  decide (capLimit v ≤ (capAddr v >>> (capE v + 27) + 1) <<< (capE v + 27))

def permR : Nat := 1
def permW : Nat := 2
def permAM : Nat := 4
def permAG : Nat := 8
def permCR : Nat := 16
def permCW : Nat := 32
def permSH : Nat := 64
def permSV : Nat := 128

def hasPerms (v : RVal) (need : Nat) : Bool := capPerms v &&& need == need

/-- The owner code of a virtual address (R123). -/
def ownerOf (a : Nat) : Nat := (a >>> 50) % 64

/-- The owner code of the bytes agrees with the space (R217, R123); the pad is 4 MiB (R221). -/
def ownerFits (space : Nat) (a : Int) (n : Nat) : Bool :=
  let lo := a.toNat
  let hi := (a + n - 1).toNat
  let ok := fun (x : Nat) =>
    if space = 1 then decide (x < 2 ^ 22)
    else if space = 2 then decide (ownerOf x ≤ 59)
    else if space = 3 then ownerOf x == 60
    else if space = 4 then ownerOf x == 61
    else if space = 5 then ownerOf x == 63
    else false
  0 ≤ a && ok lo && (n == 0 || ok hi)

/-- CTX_EINFO of a CAPFAULT: word, capability register, reason, address (R230). -/
def capInfo (word cr reason : Nat) (a : Int) : W64 :=
  w64 (word + cr * 4 + reason * 64 + wrap a 56 * 256)

def alignInfo (word : Nat) (a : Int) : W64 := w64 (word + wrap a 56 * 256)

/-- The checks of R217, in their order, for `n` bytes at `a` = cursor + offset through capability register
`cr`: spaces allowed, permissions needed, natural alignment. A tag that is clear, a space that does not
fit, a missing permission, bounds, then ALIGN. A pad access with a negative or too large address has an
owner code that fits no pad: reason 1 when it lies outside the bounds of a pad capability. -/
def capCheck (v : RVal) (cr word : Nat) (sMode : Bool) (a : Int) (n : Nat) (spaces : List Nat)
    (need align : Nat) : Option (Nat × W64) :=
  if !v.tag then some (0x03, capInfo word cr 0 a)
  else if !spaces.contains (capSpace v) then some (0x03, capInfo word cr 3 a)
  else if capSpace v ≠ 1 ∧ !ownerFits (capSpace v) a n then some (0x03, capInfo word cr 3 a)
  else if !hasPerms v need || (hasPerms v permSV && !sMode) then some (0x03, capInfo word cr 2 a)
  else if a < (capBase v : Int) ∨ (capLimit v : Int) < a + n ∨ (capSpace v = 1 ∧ !ownerFits 1 a n) then
    some (0x03, capInfo word cr 1 a)
  else if a % (align : Int) ≠ 0 then some (0x04, alignInfo word a)
  else none

/-- The address cursor + offset, without wrap (R217). -/
def capAt (v : RVal) (off : Int) : Int := (capAddr v : Int) + off

/-- The checks of R217 for a pad access of the issuing word through c[cr]. -/
def State.padCap (s : State) (cr : Nat) (off : Int) (n need align : Nat) : Option (Nat × W64) :=
  let v := s.c cr
  capCheck v cr s.cur.word s.me.sMode (capAt v off) n [1] need align

/-- The address of a pad access of the issuing word. -/
def State.padAddr (s : State) (cr : Nat) (off : Int) : Nat := (capAt (s.c cr) off).toNat

/-- The conditions that every pad word checks in its issue group (R348): poison of the capability, R217,
the region tracker, and for the checked words the line tags. -/
def State.padChecks (s : State) (cr : Nat) (off : Int) (n need align : Nat) (writes lines : Bool) :
    List (Option (Nat × W64)) :=
  let a := s.padAddr cr off
  [ s.padCap cr off n need align,
    s.trkCheck a (a + n) writes false,
    if lines then s.lineCheck a (a + n) else none,
    poisonIf s (s.c cr).poison ]

end Sys2Proof.Machine
end

