-- ==== Sys2Proof/Machine/Flags.lean ====
section
/-! DEFINITION. The flag computations: predicates p and masks k (R209). The machine has no status flags
beside them; every compare of the spec is here. -/

namespace Sys2Proof.Machine

open Host Sys2Proof

/-- The compare codes of CMP and CMPI (R332). -/
inductive Cc where
  | eq | ne | lt | ltz | le | lez
deriving DecidableEq, Repr

def Cc.eval (cc : Cc) (x y : W64) : Bool :=
  match cc with
  | .eq => x == y
  | .ne => x != y
  | .lt => x.slt y
  | .ltz => x.ult y
  | .le => x.sle y
  | .lez => x.ule y

/-- Modes of CMP and CMPI: 0 SET, 1 AND, 2 OR with the old predicate (R332). -/
def cmpMode (mode : Nat) (old c : Bool) : Bool :=
  if mode = 0 then c else if mode = 1 then old && c else old || c

/-- A compare result in p[pd]; modes AND and OR read p[pd] as a source in the issue cycle (R332). The
result is poisoned when a source is (R319). -/
def State.landCmp (s : State) (pd mode : Nat) (c poison : Bool) : State :=
  let old := s.p pd
  s.land (pKey pd) (pval (cmpMode mode old.isTrue c) (poison || (mode != 0 && old.poison))) 1

/-- A predicate source with its inversion bit (R333). -/
def State.psrc (s : State) (n : Nat) (inv : Bool) : Bool := xor (s.p n).isTrue inv

/-- Land a predicate. -/
def State.landP (s : State) (d : Nat) (b poison : Bool) (lat : Nat) : State := s.land (pKey d) (pval b poison) lat

/-- Land a mask of 32 bits. -/
def State.landK (s : State) (d : Nat) (m : W32) (poison : Bool) (lat : Nat) : State :=
  s.land (kKey d) { bits := m.setWidth 128, poison := poison } lat

/-- The mask whose bit i is `f i`. -/
def maskOf (f : Nat → Bool) : W32 :=
  BitVec.ofNat 32 ((List.range 32).foldl (fun m i => if f i then m + 2 ^ i else m) 0)

end Sys2Proof.Machine
end

