-- ==== Sys2Proof/Machine/Creg.lean ====
section
/-! DEFINITION. Control registers as MFC, MTC, MSC and MCC see them (R206, R213, R214, R346, R347):
which indices are assigned, who may read and write them, what a read returns, and what a write does
when it takes effect. -/

namespace Sys2Proof.Machine

open Host Sys2Proof

/-- The indices that some chapter assigns (R213 and the chapters' own tables). -/
def cregAssigned (i : Nat) : Bool :=
  i ≤ 0x004 || (0x010 ≤ i && i ≤ 0x016) || (0x100 ≤ i && i ≤ 0x108) || (0x200 ≤ i && i ≤ 0x2BF) ||
  (0x300 ≤ i && i ≤ 0x304) || (0x320 ≤ i && i ≤ 0x323) || (0x400 ≤ i && i ≤ 0x402) ||
  (0x404 ≤ i && i ≤ 0x409) || (0x410 ≤ i && i ≤ 0x42F) || i == 0x43F || (0x480 ≤ i && i ≤ 0x482) ||
  (0x490 ≤ i && i ≤ 0x4AF) || (0x500 ≤ i && i ≤ 0x503) || (0x540 ≤ i && i ≤ 0x542) ||
  (0x580 ≤ i && i ≤ 0x582) || (0x584 ≤ i && i ≤ 0x587) || (0x600 ≤ i && i ≤ 0x640) || i == 0x680 ||
  i == 0x690 || (0x700 ≤ i && i ≤ 0x704) || (0x780 ≤ i && i ≤ 0x787)

/-- An MFC in U mode raises PRIV: the MAP_ registers (R44) and MAT_FINJ (R269). -/
def cregReadPriv (i : Nat) : Bool := (0x700 ≤ i && i ≤ 0x704) || i == 0x408

/-- A write in U mode is allowed: MAT_SHAPE, MAT_FID, the nest slots, the engine descriptors, RNG_SEED,
PASS_CFG, PASS_PC and PASS_BUFn (R247, R269, R294, R391, R409). Every other write in U mode raises PRIV. -/
def cregWriteUser (i : Nat) : Bool :=
  i == 0x400 || i == 0x401 || (0x410 ≤ i && i ≤ 0x42F) || (0x490 ≤ i && i ≤ 0x4AF) || i == 0x540 ||
  i == 0x580 || i == 0x581 || (0x584 ≤ i && i ≤ 0x587)

/-- The bits of a register that a write replaces (access code RW). -/
def rwMask (i : Nat) : Nat :=
  if i = 0x003 then 2 ^ 14 - 1
  else if i = 0x011 then 2 ^ 16 - 1
  else if i = 0x012 then 2 ^ 8 - 1
  else if i = 0x013 then 2 ^ 64 - 1
  else if i = 0x014 then 2 ^ 14 - 1
  else if i = 0x015 then 2
  else if i = 0x016 then 2 ^ 32 - 1
  else if i = 0x100 then 2 ^ 63 - 1
  else if i = 0x101 then 2 ^ 60 - 1
  else if i = 0x102 then 2 ^ 22 - 1
  else if 0x103 ≤ i ∧ i ≤ 0x108 then 2 ^ 64 - 1
  else if 0x200 ≤ i ∧ i ≤ 0x23F then 2 ^ 43 - 1
  else if i = 0x400 then 0xF
  else if i = 0x401 then 0xF
  else if i = 0x402 then 0xFFFF
  else if i = 0x408 then 0x7 + (2 ^ 24 - 1) * 16
  else if 0x410 ≤ i ∧ i ≤ 0x42F then
    let j := (i - 0x410) % 8
    if j = 0 then 2 ^ 60 - 1
    else if j = 1 then 2 ^ 33 - 1
    else if j = 2 then 2 ^ 32 - 1
    else if j ≤ 5 then 2 ^ 64 - 1
    else if j = 6 then 2 ^ 24 - 1
    else 2 ^ 40 - 1
  else if i = 0x481 then 2 ^ 37 - 1
  else if 0x490 ≤ i ∧ i ≤ 0x4AF then
    let j := (i - 0x490) % 8
    if j = 0 then 2 ^ 60 - 1 else if j = 1 then 2 ^ 40 - 1 else 2 ^ 64 - 1
  else if i = 0x540 then 2 ^ 64 - 1
  else if i = 0x580 then 2 ^ 30 - 1
  else if i = 0x581 then 2 ^ 14 - 1
  else if 0x584 ≤ i ∧ i ≤ 0x587 then 2 ^ 44 - 1
  else if i = 0x680 then 3
  else if i = 0x701 then 0x7F7F
  else if i = 0x787 then 2 ^ 52 - 1
  else 0

/-- The counter fields (lo, width) that a write of 0 clears and that ignore other values. -/
def cntFields (i : Nat) : List (Nat × Nat) :=
  if i = 0x004 then [(6, 6), (12, 16)]
  else if 0x404 ≤ i ∧ i ≤ 0x406 then [(0, 32)]
  else if i = 0x502 then [(29, 8)]
  else if i = 0x541 then [(8, 24)]
  else if i = 0x640 then [(45, 8), (53, 8)]
  else if i = 0x780 ∨ i = 0x783 then [(0, 32)]
  else if i = 0x781 ∨ i = 0x782 then [(0, 16), (16, 16), (32, 16)]
  else []

/-- The value that a write presents: MTC g, MSC old | g, MCC old & ~g (R347). -/
def presented (op : Nat) (old g : W64) : W64 := if op = 1 then old ||| g else if op = 2 then old &&& ~~~g else g

/-- A counter field cleared by writing 0. -/
def clearCounters (v : W64) : List (Nat × Nat) → W64 → W64
  | [], w => w
  | (lo, n) :: l, w => clearCounters v l (if fld v lo n = 0 then setFld w lo n 0 else w)

/-- The register after a write by its access codes (R347). `op` is 0 MTC, 1 MSC, 2 MCC. CTX_EPC.resume
ignores 3 (R214), MAT_FID.rate ignores 3 (R269), CTX_MODE.ntrap is W1C (R214). -/
def written (i op : Nat) (old g : W64) : W64 :=
  let v := presented op old g
  let m := w64 (rwMask i)
  let m := if i = 0x011 ∧ fld v 14 2 = 3 then m &&& w64 (2 ^ 14 - 1)
    else if i = 0x401 ∧ fld v 2 2 = 3 then m &&& w64 3 else m
  let w := (old &&& ~~~m) ||| (v &&& m)
  let w := if i = 0x015 ∧ op ≠ 2 ∧ bit g 2 then setBit w 2 false else w
  clearCounters v (cntFields i) w

/-! ### Reads -/

/-- The field and direction arithmetic of the wafer (R27): the field of a site and of a logical tile. -/
def siteField (site : Nat) : Nat := site / 256
def tileX (t : Nat) : Nat := t % 120
def tileY (t : Nat) : Nat := t / 120
def tileAt (x y : Nat) : Nat := (y % 128) * 120 + x % 120
/-- The field that owns a map entry (R45). -/
def ownerField (t : Nat) : Nat := (tileY t / 16) * 8 + tileX t / 15

def State.mapEntry (s : State) (t : Nat) : MapEntry := mget {} s.map t
/-- The field that holds tile t's site; an absent tile counts with its own entry's field. -/
def State.tileField (s : State) (t : Nat) : Nat :=
  match (s.mapEntry t).site with
  | some site => siteField site
  | none => ownerField t

def State.placed (s : State) (site : Nat) : Bool := s.map.any (fun e => e.2.site == some site)
/-- The free spares of a field, lowest site first (R35, R36); a removed field has none (R24, R115). -/
def State.freeSpares (s : State) (f : Nat) : List Nat :=
  if (s.field f).removed then []
  else ((s.sites.filter (fun e => siteField e.1 == f && e.2.usable)).map (·.1)).filter (fun n => !s.placed n)
/-- ABSENT logical tiles owned by a field. -/
def State.absentIn (s : State) (f : Nat) : Nat :=
  (s.map.filter (fun e => ownerField e.1 == f && e.2.site.isNone)).length

/-- Fields that border `f` at an edge or a corner, without wrap, and `f` itself (R45). -/
def bordering (f g : Nat) : Bool :=
  let dx := (f % 8 : Int) - g % 8
  let dy := (f / 8 : Int) - g / 8
  dx.natAbs ≤ 1 && dy.natAbs ≤ 1

/-- MAP_QRES for (qx, qy) as the router of tile t answers (R44, R45, R46). It has its reset value while there is no map. That site
reads 0 when state is not 0, and gen when state is INVALID or NOT_HELD, is the model's choice (DESIGN CHOICE, log 57). -/
def State.mapQuery (s : State) (t qx qy : Nat) : W64 :=
  if s.map.isEmpty then 0#64
  else if 120 ≤ qx then w64 (2 * 2 ^ 14)
  else
    let q := tileAt qx qy
    let f := ownerField q
    if !bordering (s.tileField t) f then w64 (3 * 2 ^ 14)
    else
      let gen := (s.field f).gen.toNat * 2 ^ 16
      match (s.mapEntry q).site with
      | some site => w64 (site + gen)
      | none => w64 (2 ^ 14 + gen)

/-- A tile that is released, or that moves into a field, joins the clock of its field, of which nothing more is known than that it
is past every cycle that a tile there has seen (R214). -/
def State.joinClock (s : State) (t : Nat) : State :=
  s.modTile t (fun T => { T with clock := (s.field (s.tileField t)).clk + w64 (Config.freeNat s.seed (2 ^ 23 + t) % 2 ^ 40) })

/-- The field's clock is at least where this tile's core has got to. -/
def State.noteClock (s : State) (t : Nat) : State :=
  s.modField (s.tileField t) (fun F => if F.clk.toNat < (s.tile t).clock.toNat then { F with clk := (s.tile t).clock } else F)

/-- `k` cycles pass in which the core issues nothing: both its clocks and the timers run (R207, R229). -/
def Tile.passIdle (T : Tile) (k : Nat) : Tile :=
  { T with cycle := T.cycle + k, clock := T.clock + w64 k, ctxs := T.ctxs.map (fun e => (e.1, e.2.passTimer k)) }

/-- A core that can have nothing to issue for a while has let the cycles pass that its field has seen: no context of it is READY, RUNNING
or TRAPPED, and no CTXGO is on its way. -/
def State.catchUp (s : State) (t : Nat) : State :=
  let k := (s.field (s.tileField t)).clk.toNat
  let T := s.tile t
  let idle := (List.range 4).all (fun x => (T.ctx x).st == dormant || (T.ctx x).st == waiting || (T.ctx x).st == halted) && T.goes.isEmpty
  if idle ∧ T.clock.toNat < k then s.modTile t (fun T => (T.passIdle (k - T.clock.toNat)).passMonitor s.seed t (k - T.clock.toNat)) else s

/-- The tile's router has stopped for a graft (R90 step 1). -/
def State.grafting (s : State) (t : Nat) : Bool :=
  s.fields.any (fun e => (e.2.graft.map (fun g => g.tile == t && decide (1 ≤ g.step))).getD false)

/-- A graft of the tile is in progress, or its request waits behind another graft (R47). -/
def State.graftPending (s : State) (t : Nat) : Bool :=
  s.fields.any (fun e => (e.2.graft.map (fun g => g.tile == t)).getD false || e.2.graftQ.contains t)

/-- The plot group in group slot n of tile t. -/
def State.groupOf (s : State) (t n : Nat) : Option (Nat × Group) :=
  match (s.tile t).plot, (s.tile t).groups[n]? with
  | some p, some g => some (g, mget {} (s.plot p).groups g)
  | _, _ => none

/-- The tiles eligible on walker w of plot p (R177): members of the served group whose context waits in WKNEXT, or whose context 1 to 3 is
DORMANT with no queued arrival, in the order in which they came. -/
def State.eligibleTiles (s : State) (p w : Nat) : List Nat :=
  let W : Walker := mget {} (s.plot p).walkers w
  let members := (mget {} (s.plot p).groups W.group : Group).members
  if W.state ≠ 1 then []
  else if W.ctx = 0 then W.waiting.filter (fun t => members.contains t)
  else W.idle.filter (fun t =>
    let c := s.ctx t W.ctx
    members.contains t && (s.tile t).released && c.st == dormant && c.arrivals.isEmpty)

/-- Sum of the fields of a XEN_TOK bit (R409). -/
def tokBits (cmds : List Cmd) (p : Cmd → Bool) : Nat :=
  (List.range 8).foldl (fun v t => if cmds.any (fun c => c.token == t && p c) then v + 2 ^ t else v) 0

/-- Every element of a command is requested and answered. -/
def Cmd.complete (c : Cmd) : Bool := c.next == c.elems && c.out == 0 && !c.copying

/-- The ticket is that of a write of this stamp: pair 0, or one that a router merged into its packet (R108). -/
def Stamp.owns (st : Stamp) (q : Pair) : Bool := st.own == some q || (st.merge && st.deps.contains q)

/-- The packet carries the stamped write of ticket q. -/
def Packet.owns (q : Pair) (p : Packet) : Bool := (p.stamp.map (·.owns q)).getD false

/-- A port has the stamped write of ticket q and its peer has not acknowledged it. -/
def State.peerHolds (s : State) (q : Pair) : Bool :=
  s.ports.any (fun e => (e.2.queue ++ e.2.unanswered).any (fun r => (r.pkt.map (Packet.owns q)).getD false))

/-- Of the commands that `who` names by context and place in the tile's issue order, host writes are flushed on every link that they
used, and peer writes are acknowledged (R276, SYS). -/
def State.flushed (s : State) (t : Nat) (who : Nat → Nat → Bool) : Bool :=
  ((s.tile t).hostLinks ++ (s.tile t).flushing).all (fun w => !who w.ctx w.seq) &&
    (s.tile t).drawn.all (fun d => !who d.ctx d.seq || !s.peerHolds d.pair)

/-- Whose writes the completion of a command with REL at SYS waits for: those of every context issued before it, and its own (R276). -/
def Cmd.upTo (m : Cmd) (_x q : Nat) : Bool := decide (q ≤ m.seq)

/-- A command of tile t has completed; one with REL at SYS only once the host writes are flushed (R276). -/
def State.cmdDone (s : State) (t : Nat) (m : Cmd) : Bool := m.complete && (!m.rel || m.scope != 5 || s.flushed t m.upTo)

/-- The context that takes POWER: context 0 unless it is HALTED or WAITING, then the lowest READY or RUNNING one (R194). -/
def Tile.powerCtx (T : Tile) : Option Nat :=
  if (T.ctx 0).st ≠ halted ∧ (T.ctx 0).st ≠ waiting then some 0
  else [1, 2, 3].find? (fun x => (T.ctx x).st == ready || (T.ctx x).st == running)

/-- A POWER trap pends for context x. -/
def Tile.powerDue (T : Tile) (x : Nat) : Bool := bit (T.cr 0x502) 14 && (T.powerLoose || T.powerCtx == some x)

/-- The tile pool of a field in units of 0.5 A: the budget of R188, scaled by the module limit over 36 kW (R16, R23), less
50 A. -/
def State.pool (s : State) (f : Nat) : Nat := 2 * (s.field f).iLim * fld (s.reg0 offLimit) 0 12 / 3600 - 100

/-- A field that a table says reads as another value: LB_NEST.flvl 6 and 7 read as 5 (R225), PASS_CFG.olen 0 and above
4,096 read as 4,096 (R294). -/
def readForm (i : Nat) (w : W64) : W64 :=
  if i = 0x100 ∧ 5 < fld w 60 3 then setFld w 60 3 5
  else if i = 0x580 ∧ (fld w 17 13 = 0 ∨ 4096 < fld w 17 13) then setFld w 17 13 4096
  else w

/-- Some packet for tile t is in an overflow buffer: CAU_STAT.ovf (R119). -/
def State.inOverflow (s : State) (t : Nat) : Bool := s.fields.any (fun e => e.2.ovf.any (fun p => p.dst == .tile t))

/-- What a read of control register `i` by context x of tile t returns (R213, R346). -/
def State.cregRead (s : State) (t x i : Nat) : W64 :=
  let T := s.tile t
  let c := T.ctx x
  let mine := T.cmds.filter (fun m => m.ctx == x)
  if i = 0x002 then T.clock
  else if i = 0x010 then (c.cr 0x010) ||| w64 (x * 64)
  else if i = 0x015 then setBit (c.cr i) 4 (T.powerDue x)
  else if i = 0x004 then setFld (T.cr i) 0 6 T.trk.length
  else if perCtx i ∧ i ≠ 0x480 then
    if i = 0x401 then setFld (c.cr i) 4 3 c.run.promo.toNat else readForm i (c.cr i)
  else if i = 0x480 then
    w64 (tokBits mine (fun _ => true) + 2 ^ 8 * tokBits mine (s.cmdDone t) +
      2 ^ 16 * tokBits mine (fun m => s.cmdDone t m && m.bad.isSome) + 2 ^ 24 * tokBits mine (·.swait))
  else if 0x300 ≤ i ∧ i ≤ 0x303 then
    match s.groupOf t (i - 0x300) with
    | some (g, G) => w64 (g + 2 ^ 8 + G.members.length * 2 ^ 9 + (if G.arrived.contains t then 2 ^ 23 else 0))
    | none => 0#64
  else if i = 0x304 then
    w64 ((List.range 4).foldl (fun v n => match s.groupOf t n with
      | some (_, G) => v + G.phase.toNat * 2 ^ (16 * n)
      | none => v) 0)
  else if 0x320 ≤ i ∧ i ≤ 0x323 then
    match T.plot with
    | some p =>
      let W := mget {} (s.plot p).walkers (i - 0x320)
      w64 (W.state + W.gen.toNat * 4 + (s.eligibleTiles p (i - 0x320)).length * 2 ^ 10 + sat W.handed (2 ^ 40 - 1) * 2 ^ 24)
    | none => 0#64
  else if i = 0x43F then w64 ((List.range 8).foldl (fun v n => v + T.tstat n * 2 ^ (5 * n)) 0)
  else if i = 0x409 then
    let nest := T.aq.find? (fun o => o.kind == 3 && o.begun)
    let go := (List.range 4).foldl (fun v n => v + (if fld (T.cr (0x411 + 8 * n)) 33 2 = 0 then 0 else 2 ^ n)) 0
    let reads := fun (k : Nat) => T.aq.any (fun o => o.kind != 2 && o.set == k)
    w64 ((match nest with | some o => o.ctx | none => 0) + (nest.isSome && T.paused.isNone).toNat * 4 +
      T.paused.isSome.toNat * 8 + go * 16 + (reads 0).toNat * 256 + (reads 1).toNat * 512)
  else if i = 0x482 then
    setBit (w64 (sat T.cq.length 4096)) 13 (bit (T.cr i) 13)
  else if i = 0x541 then setFld (T.cr i) 0 7 T.rngq.length
  else if i = 0x502 then
    let st := s.reg0 (offFld (s.tileField t))
    setFld (setFld (T.cr i) 24 4 (fld st 11 4)) 28 1 (fld st 15 1)
  else if i = 0x503 then
    let f := s.tileField t
    let F := s.field f
    w64 (s.pool f / 2 + (F.granted + 1) / 2 * 2 ^ 11 + sat F.pwrQ.length 256 * 2 ^ 22 + (if F.rampw then 2 ^ 31 else 0) +
      F.sfault.toNat * 2 ^ 32)
  else if i = 0x640 then
    let w := T.cr i
    setBit (setFld (setFld (setFld w 0 8 s.vint.toNat) 8 6 (s.tileField t)) 38 6 T.ebuf.length) 44 (s.inOverflow t)
  else if i = 0x785 then setFld (T.cr i) 48 4 (mget {} s.sites ((s.mapEntry t).site.getD 0) : Site).links.toNat
  else if i = 0x690 then setFld (T.cr i) 0 6 T.ingress.length
  else if i = 0x700 then
    let e := s.mapEntry t
    w64 (e.site.getD 0 + tileX t * 2 ^ 16 + tileY t * 2 ^ 24 + (if e.moved then 2 ^ 31 else 0))
  else if i = 0x702 then
    let q := T.cr 0x701
    s.mapQuery t (fld q 0 7) (fld q 8 7)
  else if i = 0x703 then
    let f := s.tileField t
    w64 ((s.freeSpares f).length + s.absentIn f * 2 ^ 8 + (s.field f).gen.toNat * 2 ^ 16)
  else readForm i (T.cr i)

/-! ### Writes that have side effects -/

/-- The channel of CHN_CFGn is idle (R82): full window, empty ring, no queued arrival, no return deferred or held back to be
coalesced (R86). -/
def Tile.chanIdle (T : Tile) (n : Nat) : Bool :=
  let cfg := T.cr (0x200 + n)
  let st := T.cr (0x240 + n)
  let ch := mget {} T.chans n
  let full := if fld cfg 0 2 = 1 then fld st 32 16 == 2 ^ fld cfg 38 4 && (fld st 48 5 == (if bit cfg 42 then 16 else 0)) else true
  full && (fld cfg 0 2 != 2 || fld st 0 16 == fld st 16 16) &&
    ch.ready.isEmpty && ch.writing.isEmpty && ch.deferred.isNone && ch.ret.isNone &&
    (List.range 4).all (fun x => (T.ctx x).arrivals.all (fun a => a.ch != n || a.cq.isSome))

/-- A channel as R83 sets it at release for configuration `cfg`: positions 0, full window, full packet
window of a send channel; stray and nothing else is kept (R82, R83). -/
def Tile.openChan (T : Tile) (n : Nat) (cfg : W64) : Tile :=
  let st := T.cr (0x240 + n)
  let send := fld cfg 0 2 == 1
  let st' := w64 ((if send then 2 ^ fld cfg 38 4 * 2 ^ 32 + (if bit cfg 42 then 16 * 2 ^ 48 else 0) else 0) +
    fld st 55 8 * 2 ^ 55)
  let T := (T.setCr (0x200 + n) cfg).setCr (0x240 + n) st'
  let T := if fld cfg 0 2 = 2 then T else T.setCr (0x280 + n) 0#64
  { T with chans := mput T.chans n {} }

/-- An accepted or refused S-mode write of CHN_CFGn (R82). -/
def Tile.writeChanCfg (T : Tile) (n : Nat) (v : W64) : Tile :=
  if T.chanIdle n then T.openChan n v else T.modCr (0x240 + n) (setBit · 54 true)

/-- The snapshot of R298: g, p, c, LB_IDX and LB_BODY of context 0. -/
def Tile.snapshot (T : Tile) : Tile :=
  let c := T.ctx 0
  { T with pass := { T.pass with
      snap := c.settle.regs.filter (fun e => e.1 < 80 || (96 ≤ e.1 && e.1 < 112)),
      snapIdx := c.cr 0x101, snapBody := c.cr 0x102 } }

/-- A new pass: open, protected, not rolled back, log and outbox empty (R295, R298). -/
def Tile.openPass (T : Tile) : Tile :=
  let st := setFld (setFld (setFld (T.cr 0x582) 20 4 0) 2 18 0) 0 2 1
  let rps := (List.range 64).map (fun n => (n, fld (T.cr (0x240 + n)) 16 16, (mget {} T.chans n : Chan).deferred))
  let P₀ : Pass := { T.pass with log := [], held := [], heldCmds := [], taken := [], heldRet := [], roll := 0, openSeq := T.opSeq }
  let P : Pass := { P₀ with rpOpen := rps, eaten := [] }
  Tile.snapshot (({ T with pass := P }).setCr 0x582 st)

/-- A window return added to the one being coalesced for its channel (R86). -/
def addReturn (m : AMap Chan) (r : Nat × Nat × Nat) : AMap Chan :=
  let ch : Chan := mget {} m r.1
  let old := ch.ret.getD (0, 0)
  mput m r.1 { ch with ret := some (old.1 + r.2.1, old.2 + r.2.2) }

/-- Insert by place in the issue order, behind equals. -/
def bySeq {α : Type} (key : α → Nat) (x : α) : List α → List α
  | [] => [x]
  | y :: l => if key x < key y then x :: y :: l else y :: bySeq key x l

/-- A held command as it leaves the outbox: with its data copied there it goes on without a token; before that it is its token's own
command again. -/
def Tile.releaseCmd (T : Tile) (m : Cmd) : Tile :=
  if m.box.isNone then { T with cmds := bySeq (·.seq) m T.cmds }
  else
    match T.cmds.find? (fun e => e.copying && e.ctx == m.ctx && e.seq == m.seq) with
    | none => T
    | some d =>
      let m' : Cmd := { m with token := d.token, ghost := false, box := none }
      let place := fun (e : Emission) => if e.cmd == some m.token && e.ctx == m.ctx then { e with cmd := some d.token } else e
      { T with cmds := T.cmds.map (fun e => if e.copying && e.ctx == m.ctx && e.seq == m.seq then m' else e), emitq := T.emitq.map place }

/-- The held packets take the places of their issue in the order of emission, before any stamped packet issued later, and the held
window returns are sent (R297, R298). -/
def Tile.releaseOutbox (T : Tile) : Tile :=
  let P : Pass := { T.pass with held := [], heldCmds := [], taken := [], heldRet := [] }
  let chans := T.pass.heldRet.foldl addReturn T.chans
  let emitq := T.pass.held.foldl (fun l e => bySeq (·.seq) { e with box := none } l) T.emitq
  (T.pass.heldCmds.foldl Tile.releaseCmd { T with emitq := emitq, pass := P, chans := chans }).modCr 0x582 (setFld · 7 13 0)

/-- The open pass loses protection for reason `why` (R297). -/
def Tile.unprotect (T : Tile) (why : Nat) : Tile :=
  if T.passOpen then (T.modCr 0x582 (fun w => setFld (setBit w 1 true) 20 3 why)).releaseOutbox else T

/-- A write of PASS_CFG that takes effect: an open pass loses protection (R297, why 5); a write that sets
en opens a pass (R295); with en clear no pass is open. -/
def Tile.writePassCfg (T : Tile) (v : W64) : Tile :=
  let was := bit (T.cr 0x580) 0
  let T := (T.unprotect 5).setCr 0x580 v
  if bit v 0 && !was then T.openPass else if !bit v 0 then T.modCr 0x582 (setBit · 0 false) else T

/-- A write of RNG_SEED that takes effect: the counter restarts and the queue is emptied (R246). -/
def Tile.writeSeed (T : Tile) (v : W64) : Tile :=
  { (T.setCr 0x540 v).setCr 0x542 0#64 with rngq := [] }

/-- A write of RAS_THRESH starts a new window (R305). -/
def Tile.newWindow (T : Tile) : Tile := ((T.setCr 0x784 0#64).modCr 0x785 (fun w => setFld w 0 48 0)).setCr 0x786 0#64

/-- S-mode write of CAU_VECf: v := wmax(v, written) (R119). -/
def Tile.writeVec (T : Tile) (f : Nat) (v : W64) : Tile :=
  T.setVec f (wmax (T.vec f) (v.setWidth 16)) (T.gcopy f) (T.removed f)

/-- A FIDELITY status joins the pending one of the same run (R264). -/
def addFidelity (promo slot ended seq : Nat) (l : List MatStatus) : List MatStatus :=
  let info := w64 (slot * 8 + ended * 32)
  let same := fun (e : MatStatus) => e.cause == 0x0A#8 && e.info &&& ~~~(7#64) == info
  if l.any same then mapFirst same (fun e => { e with info := e.info ||| w64 promo }) l else l ++ [⟨0x0A#8, info ||| w64 promo, seq⟩]

/-- A write of MAT_FID ends the context's direct-issue run and starts a new one (R263): a promotion not yet
reported is raised at the next packet boundary (R264); operations still queued keep the old run. -/
def Tile.newRun (T : Tile) (x : Nat) (v : BitVec 4) : Tile :=
  let queued := T.aq.any (fun o => o.ctx == x && o.kind != 3 && o.gen == (T.ctx x).runNo)
  T.modCtx x (fun c =>
    let old := if queued then mput c.oldRuns c.runNo { c.run with pend := 0 } else c.oldRuns
    let pend := if c.run.pend = 0 then c.boundPend else addFidelity c.run.pend.toNat 0 1 c.run.pseq c.boundPend
    let run : FidRun := { level := v.toNat % 4, rate := v.toNat / 4 }
    { c with matFid := v, runNo := c.runNo + 1, oldRuns := old, boundPend := pend, run := run })

/-- The slot of a MAT_NEST register is FREE (R391). -/
def Tile.nestFree (T : Tile) (slot : Nat) : Bool := fld (T.cr (0x411 + 8 * slot)) 33 2 == 0

/-- A control-register write takes effect: the write `op` of `g` by context x (R206, R347). A write of 1 to MAP_GREQ.go is ignored while
a graft of the tile is in progress or its request waits (R47). -/
def State.cregWrite (s : State) (t x i op : Nat) (g : W64) : State :=
  let T := s.tile t
  if perCtx i then
    let v := written i op (readForm i ((T.ctx x).cr i)) g
    let T := T.modCtx x (·.setCr i v)
    if i = 0x400 then
      let b := BitVec.ofNat 4 (fld v 0 4)
      s.setTile t (T.modCtx x (fun c => { c with matShape := b }))
    else if i = 0x401 then s.setTile t (T.newRun x (BitVec.ofNat 4 (fld v 0 4)))
    else s.setTile t T
  else
    let old := readForm i (T.cr i)
    let v := written i op old g
    if 0x200 ≤ i ∧ i ≤ 0x23F then s.setTile t (T.writeChanCfg (i - 0x200) v)
    else if 0x410 ≤ i ∧ i ≤ 0x42F then
      if T.nestFree ((i - 0x410) / 8) then s.setTile t (T.setCr i v) else s
    else if i = 0x580 then (if x = 0 then s.setTile t (T.writePassCfg v) else s)
    else if i = 0x581 ∨ (0x584 ≤ i ∧ i ≤ 0x587) then (if x = 0 then s.setTile t (T.setCr i v) else s)
    else if i = 0x540 then s.setTile t (T.writeSeed v)
    else if 0x600 ≤ i ∧ i ≤ 0x63F then s.setTile t (T.writeVec (i - 0x600) (presented op old g))
    else if i = 0x704 then
      (if bit (presented op 0#64 g) 0 && !s.graftPending t then s.setTile t { T with greq := true } else s)
    else if i = 0x408 then s.setTile t { T.setCr i v with finj := 0 }
    else if i = 0x787 then s.setTile t ((T.setCr i v).newWindow)
    else s.setTile t (T.setCr i v)

/-- The register alone is written: the words that MAT_SHAPE or MAT_FID acts on have a later value of MSHAPE or MFID (R397). -/
def State.cregShow (s : State) (t x i op : Nat) (g : W64) : State :=
  s.modCtx t x (fun c => c.setCr i (written i op (readForm i (c.cr i)) g))

/-! ### When a write takes effect (R206, R347) -/

/-- Registers that later words of the writing context act on, or that act as they are written: a write to one is performed when it is in
force for that context, and not before. Any other is performed at issue + 2. -/
def cregDelayed (i : Nat) : Bool :=
  i == 0x003 || (0x100 ≤ i && i ≤ 0x108) || (0x200 ≤ i && i ≤ 0x23F) || i == 0x400 || i == 0x401 || (0x410 ≤ i && i ≤ 0x42F) ||
  i == 0x481 || (0x490 ≤ i && i ≤ 0x4AF) || i == 0x540 || i == 0x580 || i == 0x581 || (0x584 ≤ i && i ≤ 0x587)

/-- The write is in force for the context that made it: that has reached its packet after next, or stands before it, or issues no
packet at all (R206). -/
def CregWrite.inForce (w : CregWrite) (T : Tile) : Bool :=
  let c := T.ctx w.ctx
  decide (w.packetDue ≤ c.packets) || (!c.midPacket && (decide (w.packetDue ≤ c.packets + 1) || c.st == dormant || c.st == halted))

/-- The write may be performed: it has left the commit stage, and, to a delayed register, it is in force for its context or, to one that
all contexts share, the third packet slot has come and the packet under way is none of the writer's, which acts on the old value until its
packet after next (R247). A channel's configuration does not wait for a context that waits (log 60). -/
def CregWrite.due (w : CregWrite) (T : Tile) : Bool :=
  decide (w.performAt ≤ T.cycle) &&
    (!cregDelayed w.idx || w.inForce T || (!perCtx w.idx && decide (w.slotDue ≤ T.slots) && T.active != some w.ctx) ||
      (0x200 ≤ w.idx && w.idx ≤ 0x23F && (T.ctx w.ctx).st == waiting))

/-- Two writes to one register, which are performed in their issue order (R347). -/
def CregWrite.same (w v : CregWrite) : Bool := v.idx == w.idx && (!perCtx w.idx || v.ctx == w.ctx)

/-- Perform the writes that are due, in issue order. What the writer reads until its packet after next is kept. -/
def State.cregStep (s : State) (t : Nat) : List CregWrite → List CregWrite → State
  | [], keep => s.modTile t (fun T => { T with cpend := keep })
  | w :: l, keep =>
    let T := s.tile t
    let mine := w.inForce T
    if w.applied then State.cregStep s t l (if mine then keep else keep ++ [w])
    else if w.due T || l.any (fun v => w.same v && v.due T) then
      let w' := { w with applied := true, old := s.cregRead t w.ctx w.idx }
      let s := if w.regOnly then s.cregShow t w.ctx w.idx w.op w.val else s.cregWrite t w.ctx w.idx w.op w.val
      State.cregStep s t l (if mine then keep else keep ++ [w'])
    else State.cregStep s t l (keep ++ [w])

/-- Perform the due control-register writes of tile t. -/
def State.applyCregs (s : State) (t : Nat) : State := s.cregStep t (s.tile t).cpend []

/-- The write that the issuing word makes: performed at issue + 2, in force for its context's packet after next, and for every context
from the third packet slot on (R206, R347). -/
def State.cregEntry (s : State) (i op : Nat) (g : W64) : CregWrite :=
  { ctx := s.cur.ctx, idx := i, val := g, op := op, packetDue := s.me.packets + 2, slotDue := s.here.slots + 3
    performAt := s.here.cycle + 2 }

/-- Enter a control-register write of the issuing word. -/
def State.queueCreg (s : State) (i op : Nat) (g : W64) : State :=
  s.modHere (fun T => { T with cpend := T.cpend ++ [s.cregEntry i op g] })

/-- MSHAPE and MFID have acted at issue; the register follows for MFC, and a write to it that is still on its way acts on no matrix word
any more (R397). -/
def State.queueShown (s : State) (i : Nat) (g : W64) : State :=
  let old := fun (w : CregWrite) => w.ctx == s.cur.ctx && w.idx == i
  s.modHere (fun T => { T with
    cpend := T.cpend.map (fun w => if old w then { w with regOnly := true } else w) ++ [{ s.cregEntry i 0 g with regOnly := true }] })

/-- What the issuing context reads: an MFC issued before its packet after next returns the old value of a register that it has written
(R206); MAP_QRES answers for the MAP_QSEL that is in force for it. -/
def State.mfcValue (s : State) (i : Nat) : W64 :=
  match s.here.cpend.find? (fun w => w.ctx == s.cur.ctx && w.idx == i && w.applied) with
  | some w => w.old
  | none =>
    if i = 0x702 then
      let q := s.here.inEffect s.cur.ctx 0x701
      s.mapQuery s.cur.tile (fld q 0 7) (fld q 8 7)
    else s.cregRead s.cur.tile s.cur.ctx i

end Sys2Proof.Machine
end

