-- ==== Sys2Proof/Machine/Order.lean ====
section
/-! DEFINITION. Release and acquire points (R276, R279), starts of contexts (R88, R177, R324, R325), and
the hidden state of channels: skips, windows, deferred returns, arrivals (R84 to R88, R405). -/

namespace Sys2Proof.Machine

open Host Sys2Proof

/-! ### Release points (R276) -/

/-- A command's accesses are performed in the pad and its stamped packets emitted. -/
def Cmd.pastCtx (m : Cmd) : Bool :=
  m.complete || m.op == 4 || ((m.op == 1 || m.op == 2) && m.next == m.elems)

/-- The stamped write of ticket q is on its way: its packet is in flight or waits in a buffer, or its payload is not fully written (R100). -/
def State.carries (s : State) (q : Pair) : Bool :=
  let has := Packet.owns q
  s.net.any has || s.tiles.any (fun e => e.2.ebuf.any has) || s.fields.any (fun e => e.2.ovf.any has) ||
    s.cellars.any (fun e => e.2.ebuf.any has || e.2.ready.any has || e.2.homeQ.any has || e.2.walkQ.any has || e.2.fwd.any (fun f => has f.2) ||
      e.2.racks.any (fun r => r.held.any has)) ||
    s.tiles.any (fun e => e.2.chans.any (fun c => c.2.writing.any (fun p => p.stamp.owns q))) ||
    s.ports.any (fun e => e.2.queue.any (fun r => (r.pkt.map has).getD false))

/-- Of the commands that `who` names by context and place in the tile's issue order, a stamped write is not yet delivered (R100). -/
def State.undelivered (s : State) (t : Nat) (who : Nat → Nat → Bool) : Bool :=
  (s.tile t).drawn.any (fun d => who d.ctx d.seq && s.carries d.pair)

/-- The commands that a release of context x at a scope waits for: those before place `before` of the tile's issue order, at scope CTX of
the context alone (R276). -/
def releaseWho (x scope before y q : Nat) : Bool := (y == x || decide (1 ≤ scope)) && decide (q < before)

/-- The commands that an acquire of context x waits for: its own earlier ones (R276, R355). -/
def acquireWho (x before y q : Nat) : Bool := y == x && decide (q < before)

/-- Packets that an open pass holds count as emitted for CTX and TILE, and for no wider scope (R276, R295). -/
def Tile.heldFor (T : Tile) (scope : Nat) (who : Nat → Nat → Bool) : Bool :=
  decide (2 ≤ scope) && T.pass.held.any (fun e => who e.ctx e.seq)

/-- The accesses and commands that R276 names, issued before place `before` of the tile's issue order, have
reached their point for a release of context x at scope code `scope`: performed in the pad, stamped packets emitted, from GRP on
delivered, and at SYS flushed. -/
def State.released (s : State) (t x scope before : Nat) : Bool :=
  let T := s.tile t
  let who := releaseWho x scope before
  T.emitq.all (fun e => !who e.ctx e.seq) && !T.heldFor scope who && T.cmds.all (fun m => !who m.ctx m.seq || m.pastCtx) &&
    T.tq.all (fun o => !who o.ctx o.seq) && T.lq.all (fun o => !who o.ctx o.seq) && T.aq.all (fun o => !who o.ctx o.seq) &&
    (scope ≤ 1 || !s.undelivered t who) && (scope ≤ 4 || s.flushed t who)

/-- Every earlier command of the context has completed its writes at the scope (R276, ACQ). -/
def State.acquirable (s : State) (t x scope before : Nat) : Bool :=
  let T := s.tile t
  let who := acquireWho x before
  T.emitq.all (fun e => !who e.ctx e.seq) && !T.heldFor scope who && T.cmds.all (fun m => !who m.ctx m.seq || m.pastCtx) &&
    T.tq.all (fun o => !o.store || !who o.ctx o.seq) && (scope ≤ 1 || !s.undelivered t who) && (scope ≤ 4 || s.flushed t who)

/-- The waits of a word or command of context x with ACQ or REL bits, at place `before` of the tile's issue order (R276). -/
def State.scopeMet (s : State) (acq rel : Bool) (t x scope before : Nat) : Bool :=
  (!acq || s.acquirable t x scope before) && (!rel || s.released t x scope before)

/-- Non-posted requests of the wafer that a link may have outstanding (R146). -/
def hostRequests : Nat := 768

/-- The link has room for one more non-posted request. -/
def State.hostRoom (s : State) (n : Nat) : Bool := decide ((s.host.outstanding.filter (fun r => r.link == n)).length < hostRequests)

/-- A non-posted request goes out on its link, with its TLP. -/
def State.askHost (s : State) (r : HostReq) (q : HostTlp) : State :=
  { s with host := { s.host with outstanding := s.host.outstanding ++ [r], tlps := s.host.tlps ++ [(r.link, q)] } }

/-- A non-posted read goes out on every link that the tile's commands wrote, unless an earlier one is still out there (R276, R288). It reads
no byte, as the flush read of PCIe does (PRESUMED, log 17). -/
def State.sendFlushes (s : State) (t : Nat) : State :=
  let T := s.tile t
  let go := ((T.hostLinks.map (·.link)).dedup).filter (fun n => s.hostRoom n && T.flushing.all (fun w => w.link != n))
  let s := go.foldl (fun (s : State) n => s.askHost (.flush n t) (.read 0 0)) s
  if go.isEmpty then s
  else s.modTile t (fun T => { T with hostLinks := T.hostLinks.filter (fun w => !go.contains w.link),
                                      flushing := T.flushing ++ T.hostLinks.filter (fun w => go.contains w.link) })

/-- A completed command with REL at SYS sends the flushing reads that its token waits for (R276). -/
def State.flushRelease (s : State) (t : Nat) : State :=
  if (s.tile t).cmds.any (fun m => m.complete && m.rel && m.scope == 5 && !s.flushed t m.upTo) then s.sendFlushes t else s

/-- An ACQ or REL at SYS whose other waits are over sends the flushing reads that it then waits for. -/
def State.flushFor (s : State) (acq rel : Bool) (t x scope before : Nat) : State :=
  if scope = 5 ∧ (acq ∨ rel) ∧ s.scopeMet acq rel t x 4 before then s.sendFlushes t else s

/-- A release by context 0 at GRP or wider, or its BARR, ends the protection of an open pass as it issues, before it waits for what the
pass held (R297). -/
def State.wideReleaseHere (s : State) : State :=
  if s.cur.ctx = 0 ∧ s.here.passOpen then s.modHere (·.unprotect 4) else s

/-- The place of the issuing word in the tile's issue order: that at which it first issued, when it waits (R276). -/
def State.myPlace (s : State) : Nat := s.me.waitSeq.getD s.here.opSeq

/-- A word whose release or acquire waits keeps its place in the issue order while it waits. -/
def State.waitInPlace (s : State) (reason : Nat) : State :=
  (s.modMe (fun c => { c with waitSeq := some s.myPlace })).waitFor reason

/-- A word that goes on when `ok` holds, and else waits in its place. -/
def placeOr (ok : Bool) (reason : Nat) (s : State) (k : State → Res) : Res :=
  if ok then k s else .next (s.waitInPlace reason)

/-- A word with ACQ or REL bits makes its waits in its issue group, with reason 6 (R276, R355). -/
def scopeOr (acq rel : Bool) (scope : Nat) (s : State) (k : State → Res) : Res :=
  let s := if rel ∧ 2 ≤ scope then s.wideReleaseHere else s
  let s := s.flushFor acq rel s.cur.tile s.cur.ctx scope s.myPlace
  placeOr (s.scopeMet acq rel s.cur.tile s.cur.ctx scope s.myPlace) 6 s k

/-! ### Starts (R88, R177, R324, R325) -/

/-- Start context k at a packet, READY, in U mode, its loop buffer inactive; a start is an acquire. -/
def Tile.startCtx (T : Tile) (k pc : Nat) (start : Start) : Tile :=
  (T.modCtx k (fun c =>
    let c := ((c.modCr 0x015 (setBit · 0 false)).modCr 0x102 (setBit · 20 false)).setSt ready 0
    { c with pc := pc, first := 0, atEnd := .next, savedEnd := .next, rep := none, start := start, passed := 0, midPacket := false, yielded := false })).acquire k

/-- The status of a CTXGO of cycle w is on its way: it lands by w + 2, and its value is known when the CTXGO commits (R325). -/
def Ctx.flyGo (c : Ctx) (w seed key : Nat) : Ctx :=
  if (fixedReg key).isSome then c
  else c.fly { reg := key, val := {}, issued := w, due := w + 2, rank := landRank c w seed key 2 false, go := true }

/-- A CTXGO commits: its context starts unless an arrival or a hand-off has started it, and the status lands (R180, R325). -/
def Tile.commitGo (T : Tile) (g : CtxGo) : Tile :=
  let free := (T.ctx g.k).st == dormant
  let T := if free then T.startCtx g.k g.pc .none else T
  T.modCtx g.ctx (·.landGo (gKey g.reg) (g.due - 2) (gval (if free then 0#64 else 1#64) false))

/-- Every CTXGO due by a cycle commits, in the order of issue. -/
def Tile.commitGoes (T : Tile) (cyc : Nat) : Tile :=
  (T.goes.filter (fun g => g.due ≤ cyc)).foldl Tile.commitGo { T with goes := T.goes.filter (fun g => cyc < g.due) }

/-- A start writes general registers at once, over every earlier result for them; results for other registers stay in flight (R180,
R205). -/
def Tile.setGs (T : Tile) (k : Nat) (vals : List (Nat × Nat)) : Tile :=
  T.modCtx k (fun c => vals.foldl (fun c (r, v) => c.write (gKey r) (gval (w64 v) false)) (c.landOff (vals.map (fun e => gKey e.1))))

/-! ### Channels (R84 to R88) -/

def Tile.chan (T : Tile) (n : Nat) : Chan := mget {} T.chans n
def Tile.setChan (T : Tile) (n : Nat) (c : Chan) : Tile := { T with chans := mput T.chans n c }
def Tile.cfg (T : Tile) (n : Nat) : W64 := T.cr (0x200 + n)
def Tile.cst (T : Tile) (n : Nat) : W64 := T.cr (0x240 + n)
def Tile.arm (T : Tile) (n : Nat) : W64 := T.cr (0x280 + n)
def chSize (cfg : W64) : Nat := 2 ^ fld cfg 38 4

/-- Lines of a payload of `len` bytes (R84). -/
def linesOf (len : Nat) : Nat := (len + 63) / 64

/-- The skip of R84 before a payload of n lines at ring position wp. -/
def skipOf (cfg : W64) (wp n : Nat) : Nat :=
  let left := chSize cfg - wp % chSize cfg
  if left < n then left else 0

/-- A window return of `lines` lines and `pkts` packets falls due on receive channel n (R86). In an open,
protected pass a return of context 0 is held (R295). -/
def Tile.returnLines (T : Tile) (n lines pkts : Nat) (ctx0 : Bool) : Tile :=
  if ctx0 && T.passOpen then
    { T with pass := { T.pass with heldRet := T.pass.heldRet ++ [(n, lines, pkts)] } }
  else { T with chans := addReturn T.chans (n, lines, pkts) }

/-- rp moves past a payload and the skip before it (R86). -/
def Tile.advanceRp (T : Tile) (n lines : Nat) : Tile :=
  T.modCr (0x240 + n) (fun w => setFld w 16 16 ((fld w 16 16 + lines) % (2 * chSize (T.cfg n))))

/-- The packets a return of channel n gives back: one with pkwin = 1. -/
def Tile.retPkts (T : Tile) (n : Nat) : Nat := if bit (T.cfg n) 42 then 1 else 0

/-- The window return of a payload counts min(n + s, ...) as R84 states: n + s lines. -/
def Tile.retireArrival (T : Tile) (n lines : Nat) (ctx0 : Bool) : Tile :=
  (T.advanceRp n lines).returnLines n lines (T.retPkts n) ctx0

/-- The number of queued handler arrivals of channel n, over all contexts. -/
def Tile.queued (T : Tile) (n : Nat) : Nat :=
  (List.range 4).foldl (fun k x => k + ((T.ctx x).arrivals.filter (fun a => a.ch == n && a.cq.isNone)).length) 0

/-- CHN_STATn.pk of a receive channel: queued handler arrivals (R82). -/
def Tile.countQueued (T : Tile) (n : Nat) : Tile := T.modCr (0x240 + n) (setFld · 48 5 (T.queued n))

/-- The count after an arrival is queued or taken; a completed command counts for no channel (R416). -/
def Tile.countArrival (T : Tile) (a : Arrival) : Tile := if a.cq.isSome then T else T.countQueued a.ch

/-- CTX_EINFO of CAUSAL for a channel (R230). -/
def causalChan (n : Nat) (q : Pair) : W64 := w64 (n * 2 + q.f * 2 ^ 7 + q.t.toNat * 2 ^ 13)

/-- Start context x with an arrival: g1 to g4 of R88, or the completion queue's start (R416): g1 the
first entry's pad address, g2 the entries' bytes, g3 0x40 + token, g4 the issuing context. The stamp is merged into V (R104). A payload marked
CAUSAL_LOSS is consumed, and the start raises CAUSAL (R116). -/
def State.startArrival (s : State) (t x : Nat) (a : Arrival) : State :=
  let T := s.tile t
  match a.cq with
  | some (tok, cx) =>
    let pc := fld (T.cr 0x481) 22 14
    let T := T.trkRetire (fun k => k == TrkKind.engine cx tok)
    s.setTile t ((T.setGs x [(1, a.addr), (2, a.len), (3, 0x40 + tok), (4, cx)]).startCtx x pc (.completion tok cx))
  | none =>
    let pc := fld (T.arm a.ch) 0 14
    let T := (T.mergeStamp a.stamp).setGs x [(1, a.addr), (2, a.len), (3, a.ch), (4, a.src)]
    match a.lost with
    | none => s.setTile t (T.startCtx x pc (.arrival a.ch a.lines))
    | some q =>
      let T := (T.startCtx x pc .none).retireArrival a.ch a.lines false
      (s.setTile t T).trapAt t x pc 0 0x0C (causalChan a.ch q)

/-- An arrival for context x: start it when DORMANT, otherwise queue it (R88, R180). On a tile that a graft or a pre-emption has stopped
it is queued (R187). -/
def State.deliverArrival (s : State) (t x : Nat) (a : Arrival) : State :=
  if ((s.tile t).ctx x).st = dormant ∧ !(s.tile t).stopped then s.startArrival t x a
  else s.modTile t (fun T => (T.modCtx x (fun c => { c with arrivals := c.arrivals ++ [a] })).countArrival a)

/-- The oldest queued arrival starts a DORMANT context x. -/
def State.startOldest (s : State) (t x : Nat) : State :=
  let c := s.ctx t x
  match c.arrivals with
  | [] => s
  | a :: l =>
    if c.st = dormant then (s.modTile t (fun T => (T.modCtx x (fun c => { c with arrivals := l })).countArrival a)).startArrival t x a else s

/-- A stopped tile goes on: DORMANT contexts with arrivals that were queued meanwhile start. -/
def State.startQueued (s : State) (t : Nat) : State := [1, 2, 3].foldl (fun s x => s.startOldest t x) s

/-! ### Walkers as the contexts see them (R177) -/

def State.modWalker (s : State) (p w : Nat) (f : Walker → Walker) : State :=
  s.modPlot p (fun P => { P with walkers := mput P.walkers w (f (mget {} P.walkers w)) })

/-- Context x of tile t has become DORMANT: its eligibility reaches, last, every walker that hands iterations to such contexts. -/
def State.nowIdle (s : State) (t x : Nat) : State :=
  match (s.tile t).plot with
  | none => s
  | some p =>
    let P := s.plot p
    (List.range 4).foldl (fun s w =>
      let W : Walker := mget {} P.walkers w
      if x ≠ 0 ∧ W.state = 1 ∧ W.ctx = x ∧ (mget {} P.groups W.group : Group).members.contains t then
        s.modWalker p w (fun W => { W with idle := W.idle.filter (· != t) ++ [t] })
      else s) s

/-- The tiles that are eligible when the nest starts, or when its plot is restored: they come in one cycle, the lowest index first. -/
def State.listIdle (s : State) (p w : Nat) : State :=
  let W : Walker := mget {} (s.plot p).walkers w
  let l := (mget {} (s.plot p).groups W.group : Group).members.filter (fun t =>
    (s.ctx t W.ctx).st == dormant && (s.ctx t W.ctx).arrivals.isEmpty && (s.tile t).released)
  if W.state = 1 ∧ W.ctx ≠ 0 then s.modWalker p w (fun W => { W with idle := l.mergeSort (fun a b => decide (a ≤ b)) }) else s

end Sys2Proof.Machine
end

