-- ==== Sys2Proof/Machine/Packet.lean ====
section
/-! DEFINITION. The end of a packet: the next packet, the loop buffer (R223 to R225, R341), ERET, HALT,
SLEEP, YIELD (R322, R324, R326), and the trap of SYSCALL and BRKPT after their group (R227, R321). -/

namespace Sys2Proof.Machine

open Host Sys2Proof

/-! ### The loop buffer (R223 to R225, R340, R341) -/

def lbStart (c : Ctx) : Nat := fld (c.cr 0x102) 0 14
def lbLen (c : Ctx) : Nat := fld (c.cr 0x102) 14 6
/-- The nest acts: active, and in the mode in which LOOPN ran (R224, R225). -/
def lbActs (c : Ctx) : Bool := bit (c.cr 0x102) 20 && (bit (c.cr 0x102) 21 == c.sMode)
def lbCnt (c : Ctx) (j : Nat) : Nat := fld (c.cr 0x100) (10 * j) 10
def lbIdx (c : Ctx) (j : Nat) : Nat := fld (c.cr 0x101) (10 * j) 10
/-- The flag level F; 6 and 7 read as 5. -/
def lbLevel (c : Ctx) : Nat := let f := fld (c.cr 0x100) 60 3; if 5 < f then 5 else f
def lbInBody (c : Ctx) (pc : Nat) : Bool := decide (lbStart c ≤ pc) && decide (pc ≤ lbStart c + lbLen c)

/-- Word w of the packet issues as NOP (R224). -/
def lbSuppressed (c : Ctx) (w : Nat) : Bool :=
  let lv := List.range (lbLevel c + 1)
  let b := c.pc - lbStart c
  lbActs c && lbInBody c c.pc &&
    ((lv.all (fun j => lbIdx c j == 0) && bit (c.cr (0x103 + w)) b) ||
     (lv.all (fun j => lbIdx c j == lbCnt c j) && bit (c.cr (0x106 + w)) b))

/-- The next index vector: level 0 varies fastest (R341). -/
def lbNext (c : Ctx) : List Nat → W64 → W64
  | [], w => w
  | j :: js, w => if lbIdx c j = lbCnt c j then lbNext c js (setFld w (10 * j) 10 0)
                  else setFld w (10 * j) 10 (lbIdx c j + 1)

/-- The end of body packet start + len (R341). -/
def Ctx.loopBack (c : Ctx) : Ctx :=
  if (List.range 6).all (fun j => lbIdx c j == lbCnt c j) then
    { c.modCr 0x102 (setBit · 20 false) with pc := lbStart c + lbLen c + 1 }
  else { c.setCr 0x101 (lbNext c (List.range 6) (c.cr 0x101)) with pc := lbStart c }

/-- The packet after this one when word 0 was no taken transfer (R341). -/
def Ctx.advance (c : Ctx) : Ctx :=
  if lbActs c && c.pc == lbStart c + lbLen c then c.loopBack else { c with pc := c.pc + 1 }

/-- A taken transfer; to a target outside the body the nest ends (R225). -/
def Ctx.jumpTo (c : Ctx) (target : Nat) : Ctx :=
  let c := if lbActs c && !lbInBody c target then c.modCr 0x102 (setBit · 20 false) else c
  { c with pc := target }

/-! ### Ends of packets -/

/-- The context has issued its packet: RUNNING becomes READY again (R168). -/
def Ctx.idle (c : Ctx) : Ctx :=
  let c := if c.st = running then c.setSt ready 0 else c
  { c with first := 0, atEnd := .next, midPacket := false }

/-- SLEEP at the end of its packet (R324): the start's payload is consumed, or the completion queue's
entries and token are freed (R416); a queued arrival restarts the context, else it is DORMANT. -/
def State.sleepNow (s : State) (t x : Nat) : State :=
  let T := s.tile t
  let T := match (T.ctx x).start with
    | .arrival ch lines => T.retireArrival ch lines false
    | .completion tok cx =>
      let p := fun (e : CqEntry) => e.token == tok && e.ctx == cx
      { T with cq := T.cq.filter (fun e => !p e), cmds := eraseFirst (fun m => m.ctx == cx && m.token == tok) T.cmds }.trkRetire
        (fun k => k == TrkKind.engine cx tok)
    | .none => T
  let T := T.modCtx x (fun c => { c.idle.advance.setSt dormant 0 with start := .none, rep := none, sleptAt := T.opSeq })
  match (T.ctx x).arrivals with
  | [] => (s.setTile t T).nowIdle t x
  | a :: l => (s.setTile t ((T.modCtx x (fun c => { c with arrivals := l })).countArrival a)).startArrival t x a

/-- Once context 0 of every tile of the plot has executed HALT, the plot is RETIRING (R163, R166). -/
def State.checkRetiring (s : State) (t : Nat) : State :=
  match (s.tile t).plot with
  | some p =>
    if (s.plot p).state = 2 ∧ s.tiles.all (fun e => e.2.plot != some p || (e.2.ctx 0).st == halted) then
      s.modPlot p (fun P => { P with state := 6 })
    else s
  | none => s

/-- Every word of the packet has issued: what word 0 asked for happens (R202, R322, R324, R326, R334). -/
def State.endPacket (s : State) (t x : Nat) : State :=
  let s := s.modTile t (fun T => { T with active := none })
  match (s.ctx t x).atEnd with
  | .next => s.modCtx t x (fun c => c.advance.idle)
  | .jump target => s.modCtx t x (fun c => (c.jumpTo target).idle)
  | .eret =>
    let T := s.tile t
    s.modCtx t x (fun c => c.idle.eretFrom (T.inEffect x 0x011) (bit (T.inEffect x 0x015) 1))
  | .halt => (s.modCtx t x (fun c => { c.advance.idle.setSt halted 0 with rep := none, sleptAt := (s.tile t).opSeq })).checkRetiring t
  | .sleep => s.sleepNow t x
  | .yield => s.modCtx t x (fun c => { c.advance.idle with yielded := true })

/-- SYSCALL and BRKPT trap after their own group has issued: resume names the first word after the group, and when no word
remains CTX_EPC names the next packet with resume 0 (R227, R321). A HALT or SLEEP in word 0 of that packet then has no
effect: the context's next packet is the handler's (DEDUCED, log 57). -/
def State.raiseAfter (s : State) (cause : Nat) (info : W64) : State :=
  let s := { s with cur := { s.cur with ended := .trapped, cause := cause, info := info } }
  let t := s.cur.tile
  let x := s.cur.ctx
  if s.cur.last < 2 then s.trapAt t x s.me.pc (s.cur.last + 1) cause info
  else
    let s := match s.me.atEnd with
      | .halt | .sleep => (s.modTile t (fun T => { T with active := none })).modCtx t x (fun c => c.advance.idle)
      | _ => s.endPacket t x
    s.trapAt t x (s.ctx t x).pc 0 cause info

end Sys2Proof.Machine
end

