-- ==== Sys2Proof/Machine/Alu.lean ====
section
/-! DEFINITION. Integer ALU, immediates, compares and predicates (R327 to R333). Every result is
poisoned when a source is, and no word here traps (R319). -/

namespace Sys2Proof.Machine

open Host Sys2Proof

/-! ### Shared forms -/

/-- g[d] := f (g[a], g[b]) within latency `lat`. -/
def alu2 (d a b : BitVec 6) (lat : Nat) (f : W64 → W64 → W64) (s : State) : Res :=
  .next (s.landG d.toNat (f (s.gv a.toNat) (s.gv b.toNat)) (s.gp a.toNat || s.gp b.toNat) lat)

/-- g[d] := f (g[a]), L = 1. -/
def alu1 (d a : BitVec 6) (f : W64 → W64) (s : State) : Res :=
  .next (s.landG d.toNat (f (s.gv a.toNat)) (s.gp a.toNat) 1)

/-! ### The functions of R327 to R329 -/

/-- The shift amount y[5:0]. -/
def shamt (y : W64) : Nat := y.toNat % 64

def mulHigh (x y : W64) : W64 := BitVec.ofInt 64 (x.toInt * y.toInt / 2 ^ 64)
def mulHighZ (x y : W64) : W64 := BitVec.ofNat 64 (x.toNat * y.toNat / 2 ^ 64)

def allOnes : W64 := 0xFFFFFFFFFFFFFFFF#64

/-- DIV, REM, DIVZ, REMZ (R328). -/
def divS (x y : W64) : W64 := if y = 0#64 then allOnes else x.sdiv y
def remS (x y : W64) : W64 := if y = 0#64 then x else x.srem y
def divU (x y : W64) : W64 := if y = 0#64 then allOnes else x.udiv y
def remU (x y : W64) : W64 := if y = 0#64 then x else x.umod y

/-- Leading zeros, 0 to n, of an n-bit number. -/
def leadingZeros (n x : Nat) : Nat := if x = 0 then n else n - 1 - Nat.log2 x

/-- Ones among the low n bits. -/
def popCount (x n : Nat) : Nat := (List.range n).foldl (fun k i => if x.testBit i then k + 1 else k) 0

/-- Trailing zeros, 0 to n. -/
def trailingZeros (n x : Nat) : Nat := ((List.range n).find? (fun i => x.testBit i)).getD n

/-- BEXT (R329). -/
def bext (x y : W64) : W64 :=
  let pos := y.toNat % 64
  let n := min (y.toNat / 64 % 128) (64 - pos)
  w64 ((x.toNat >>> pos) % 2 ^ n)

/-- BINS (R329), which reads the old g[d]. -/
def bins (old x y : W64) : W64 :=
  let pos := y.toNat % 64
  let n := min (y.toNat / 64 % 128) (64 - pos)
  let m := w64 ((2 ^ n - 1) <<< pos)
  (old &&& ~~~m) ||| ((x <<< pos) &&& m)

def sextTo (n : Nat) (x : W64) : W64 := (x.setWidth n).signExtend 64
def zextTo (n : Nat) (x : W64) : W64 := (x.setWidth n).setWidth 64

/-! ### ALU words (R327) -/

def execAdd (d a b : BitVec 6) (s : State) : Res := alu2 d a b 1 (· + ·) s
def execSub (d a b : BitVec 6) (s : State) : Res := alu2 d a b 1 (· - ·) s
def execAnd (d a b : BitVec 6) (s : State) : Res := alu2 d a b 1 (· &&& ·) s
def execOr (d a b : BitVec 6) (s : State) : Res := alu2 d a b 1 (· ||| ·) s
def execXor (d a b : BitVec 6) (s : State) : Res := alu2 d a b 1 (· ^^^ ·) s
def execAndn (d a b : BitVec 6) (s : State) : Res := alu2 d a b 1 (fun x y => x &&& ~~~y) s
def execOrn (d a b : BitVec 6) (s : State) : Res := alu2 d a b 1 (fun x y => x ||| ~~~y) s
def execShl (d a b : BitVec 6) (s : State) : Res := alu2 d a b 1 (fun x y => x <<< shamt y) s
def execShr (d a b : BitVec 6) (s : State) : Res := alu2 d a b 1 (fun x y => x >>> shamt y) s
def execSha (d a b : BitVec 6) (s : State) : Res := alu2 d a b 1 (fun x y => x.sshiftRight (shamt y)) s
def execRol (d a b : BitVec 6) (s : State) : Res := alu2 d a b 1 (fun x y => x.rotateLeft (shamt y)) s
def execMin (d a b : BitVec 6) (s : State) : Res := alu2 d a b 1 (fun x y => if x.slt y then x else y) s
def execMax (d a b : BitVec 6) (s : State) : Res := alu2 d a b 1 (fun x y => if x.slt y then y else x) s
def execMinz (d a b : BitVec 6) (s : State) : Res := alu2 d a b 1 (fun x y => if x.ult y then x else y) s
def execMaxz (d a b : BitVec 6) (s : State) : Res := alu2 d a b 1 (fun x y => if x.ult y then y else x) s
def execMul (d a b : BitVec 6) (s : State) : Res := alu2 d a b 3 (· * ·) s
def execMulh (d a b : BitVec 6) (s : State) : Res := alu2 d a b 3 mulHigh s
def execMulhz (d a b : BitVec 6) (s : State) : Res := alu2 d a b 3 mulHighZ s
def execDiv (d a b : BitVec 6) (s : State) : Res := alu2 d a b 24 divS s
def execDivz (d a b : BitVec 6) (s : State) : Res := alu2 d a b 24 divU s
def execRem (d a b : BitVec 6) (s : State) : Res := alu2 d a b 24 remS s
def execRemz (d a b : BitVec 6) (s : State) : Res := alu2 d a b 24 remU s
def execClz (d a : BitVec 6) (s : State) : Res := alu1 d a (fun x => w64 (leadingZeros 64 x.toNat)) s
def execCtz (d a : BitVec 6) (s : State) : Res := alu1 d a (fun x => w64 (trailingZeros 64 x.toNat)) s
def execPopc (d a : BitVec 6) (s : State) : Res := alu1 d a (fun x => w64 (popCount x.toNat 64)) s
def execSextB (d a : BitVec 6) (s : State) : Res := alu1 d a (sextTo 8) s
def execSextH (d a : BitVec 6) (s : State) : Res := alu1 d a (sextTo 16) s
def execSextW (d a : BitVec 6) (s : State) : Res := alu1 d a (sextTo 32) s
def execZextB (d a : BitVec 6) (s : State) : Res := alu1 d a (zextTo 8) s
def execZextH (d a : BitVec 6) (s : State) : Res := alu1 d a (zextTo 16) s
def execZextW (d a : BitVec 6) (s : State) : Res := alu1 d a (zextTo 32) s
def execBext (d a b : BitVec 6) (s : State) : Res := alu2 d a b 1 bext s
/-- BINS reads g[d] as a source (R329). -/
def execBins (d a b : BitVec 6) (s : State) : Res :=
  .next (s.landG d.toNat (bins (s.gv d.toNat) (s.gv a.toNat) (s.gv b.toNat))
    (s.gp d.toNat || s.gp a.toNat || s.gp b.toNat) 1)

/-! ### Immediates (R330, R331) -/

def execAddi (d a : BitVec 6) (i : BitVec 13) (s : State) : Res := alu1 d a (· + simm i) s
def execAndi (d a : BitVec 6) (i : BitVec 13) (s : State) : Res := alu1 d a (· &&& simm i) s
def execOri (d a : BitVec 6) (i : BitVec 13) (s : State) : Res := alu1 d a (· ||| simm i) s
def execXori (d a : BitVec 6) (i : BitVec 13) (s : State) : Res := alu1 d a (· ^^^ simm i) s
def execShli (d a sh : BitVec 6) (s : State) : Res := alu1 d a (· <<< sh.toNat) s
def execShri (d a sh : BitVec 6) (s : State) : Res := alu1 d a (· >>> sh.toNat) s
def execShai (d a sh : BitVec 6) (s : State) : Res := alu1 d a (·.sshiftRight sh.toNat) s
def execRoli (d a sh : BitVec 6) (s : State) : Res := alu1 d a (·.rotateLeft sh.toNat) s
def execLimm (d : BitVec 6) (i : BitVec 19) (s : State) : Res := .next (s.landG d.toNat (simm i) false 1)
/-- LSH19 reads g[d] (R331). -/
def execLsh19 (d : BitVec 6) (i : BitVec 19) (s : State) : Res :=
  .next (s.landG d.toNat ((s.gv d.toNat <<< 19) ||| i.setWidth 64) (s.gp d.toNat) 1)

/-! ### Compares (R332) -/

def cmpRR (cc : Cc) (p : BitVec 3) (m : BitVec 2) (a b : BitVec 6) (s : State) : Res :=
  .next (s.landCmp p.toNat m.toNat (cc.eval (s.gv a.toNat) (s.gv b.toNat)) (s.gp a.toNat || s.gp b.toNat))

def cmpRI (cc : Cc) (p : BitVec 3) (m : BitVec 2) (a : BitVec 6) (i : BitVec 10) (s : State) : Res :=
  .next (s.landCmp p.toNat m.toNat (cc.eval (s.gv a.toNat) (simm i)) (s.gp a.toNat))

def execCmpEq (p : BitVec 3) (m : BitVec 2) (a b : BitVec 6) (s : State) : Res := cmpRR .eq p m a b s
def execCmpNe (p : BitVec 3) (m : BitVec 2) (a b : BitVec 6) (s : State) : Res := cmpRR .ne p m a b s
def execCmpLt (p : BitVec 3) (m : BitVec 2) (a b : BitVec 6) (s : State) : Res := cmpRR .lt p m a b s
def execCmpLtz (p : BitVec 3) (m : BitVec 2) (a b : BitVec 6) (s : State) : Res := cmpRR .ltz p m a b s
def execCmpLe (p : BitVec 3) (m : BitVec 2) (a b : BitVec 6) (s : State) : Res := cmpRR .le p m a b s
def execCmpLez (p : BitVec 3) (m : BitVec 2) (a b : BitVec 6) (s : State) : Res := cmpRR .lez p m a b s
def execCmpiEq (p : BitVec 3) (m : BitVec 2) (a : BitVec 6) (i : BitVec 10) (s : State) : Res := cmpRI .eq p m a i s
def execCmpiNe (p : BitVec 3) (m : BitVec 2) (a : BitVec 6) (i : BitVec 10) (s : State) : Res := cmpRI .ne p m a i s
def execCmpiLt (p : BitVec 3) (m : BitVec 2) (a : BitVec 6) (i : BitVec 10) (s : State) : Res := cmpRI .lt p m a i s
def execCmpiLtz (p : BitVec 3) (m : BitVec 2) (a : BitVec 6) (i : BitVec 10) (s : State) : Res := cmpRI .ltz p m a i s
def execCmpiLe (p : BitVec 3) (m : BitVec 2) (a : BitVec 6) (i : BitVec 10) (s : State) : Res := cmpRI .le p m a i s
def execCmpiLez (p : BitVec 3) (m : BitVec 2) (a : BitVec 6) (i : BitVec 10) (s : State) : Res := cmpRI .lez p m a i s

/-! ### Predicates (R333): the table's fields x = q0 and y = q1 -/

/-- p[d] := f (p[a] ^ q0) (p[b] ^ q1). -/
def pred2 (d a b : BitVec 3) (y x : BitVec 1) (f : Bool → Bool → Bool) (s : State) : Res :=
  .next (s.landP d.toNat (f (s.psrc a.toNat (x == 1#1)) (s.psrc b.toNat (y == 1#1)))
    ((s.p a.toNat).poison || (s.p b.toNat).poison) 1)

def execPand (d a b : BitVec 3) (y x : BitVec 1) (s : State) : Res := pred2 d a b y x (· && ·) s
def execPor (d a b : BitVec 3) (y x : BitVec 1) (s : State) : Res := pred2 d a b y x (· || ·) s
def execPxor (d a b : BitVec 3) (y x : BitVec 1) (s : State) : Res := pred2 d a b y x xor s
def execPnot (d a : BitVec 3) (s : State) : Res :=
  .next (s.landP d.toNat (!(s.p a.toNat).isTrue) (s.p a.toNat).poison 1)
def execPmov (d a : BitVec 3) (s : State) : Res :=
  .next (s.landP d.toNat (s.p a.toNat).isTrue (s.p a.toNat).poison 1)
/-- SEL: a poisoned source of any kind poisons the result (R319). -/
def execSel (d a b : BitVec 6) (q : BitVec 3) (s : State) : Res :=
  .next (s.landG d.toNat (if (s.p q.toNat).isTrue then s.gv a.toNat else s.gv b.toNat)
    ((s.p q.toNat).poison || s.gp a.toNat || s.gp b.toNat) 1)
def execPtog (d : BitVec 6) (a : BitVec 3) (s : State) : Res :=
  .next (s.landG d.toNat (if (s.p a.toNat).isTrue then 1#64 else 0#64) (s.p a.toNat).poison 1)
def execPfromg (d : BitVec 3) (a : BitVec 6) (s : State) : Res :=
  .next (s.landP d.toNat (s.gv a.toNat != 0#64) (s.gp a.toNat) 1)

end Sys2Proof.Machine
end

