-- ==== Sys2Proof/Machine/Emit.lean ====
section
/-! DEFINITION. How stamped packets leave a tile: tickets and their blocks (R97 to R99), stamps (R106, R107), and
the one order of emission (R274). -/

namespace Sys2Proof.Machine

open Host Sys2Proof

/-! ### Ticket blocks of a tile (R98, R99, R119) -/

def Tile.blockNext (T : Tile) : Ticket := BitVec.ofNat 16 (fld (T.cr 0x640) 14 16)
def Tile.blockLeft (T : Tile) : Nat := fld (T.cr 0x640) 30 7
def Tile.setBlock (T : Tile) (next : Ticket) (left : Nat) : Tile :=
  T.modCr 0x640 (fun w => setFld (setFld w 14 16 next.toNat) 30 7 left)

/-- `n` tickets of field `f` from `a` on. -/
def ticketRange (f : Nat) (a : Ticket) (n : Nat) : List Pair :=
  (List.range n).map (fun i => Pair.mk f (a + BitVec.ofNat 16 i))

/-- With the block used up, a second block that has arrived takes its place (R97). -/
def Tile.refill (T : Tile) : Tile :=
  match T.blockNext2 with
  | some b => if T.blockLeft = 0 then { T.setBlock b 64 with blockNext2 := none } else T
  | none => T

/-- The first `n` tickets of the block are returned: they await acknowledgement to the sequencer (R99, R101). -/
def Tile.giveBack (T : Tile) (f n : Nat) : Tile :=
  let T' := T.setBlock (T.blockNext + BitVec.ofNat 16 n) (T.blockLeft - n)
  { T' with acks := T'.acks ++ ticketRange f T.blockNext n }.refill

/-- The unused remainder of the tile's blocks is returned (R99). -/
def Tile.returnBlock (T : Tile) (f : Nat) : Tile :=
  let T' := T.giveBack f T.blockLeft
  T'.giveBack f T'.blockLeft

/-- Tickets of the block that are not after V[own field]. -/
def Tile.staleTickets (T : Tile) (f : Nat) : Nat :=
  ((List.range T.blockLeft).takeWhile (fun i => atOrAfter (T.vec f) (T.blockNext + BitVec.ofNat 16 i))).length

/-- Tickets that are not after V[own field] are returned before each issue (R98). -/
def Tile.dropStale (T : Tile) (f : Nat) : Tile :=
  let T' := T.giveBack f (T.staleTickets f)
  T'.giveBack f (T'.staleTickets f)

/-- The tile asks its sequencer for a block, once (R97). -/
def State.askBlock (s : State) (t : Nat) : State :=
  if bit ((s.tile t).cr 0x640) 37 then s
  else
    let f := s.tileField t
    (s.modTile t (·.modCr 0x640 (setBit · 37 true))).modField f (fun F => { F with blockQ := F.blockQ ++ [.tile t] })

/-- The sequencer of the pair's field has the ticket acknowledged (R102); a removed field takes no acknowledgements (R115). -/
def State.ackedPair (s : State) (q : Pair) : Bool :=
  let F := s.field q.f
  F.removed || atOrAfter F.stable q.t || F.marked.contains q.t

/-- Tickets that the sequencers have acknowledged are forgotten, but for those of writes that a peer has yet to acknowledge (R166, R276). -/
def State.noteAcked (s : State) : State :=
  let age := fun (T : Tile) => { T with
    drawn := (T.drawn.map (fun d => { d with acked := d.acked || s.ackedPair d.pair })).filter (fun d => !d.acked || s.peerHolds d.pair) }
  { s with tiles := s.tiles.map (fun e => (e.1, age e.2)) }

/-- Draw the next ticket for a write of context x at place q of the tile's issue order (R98); a block with 16 tickets left, or none, is
asked for (R97). -/
def State.drawTicket (s : State) (t x q : Nat) : State × Option Ticket :=
  let f := s.tileField t
  let s := s.modTile t (·.dropStale f)
  let T := s.tile t
  if T.blockLeft = 0 then (s.askBlock t, none)
  else
    let n := T.blockNext
    let d : Drawn := { pair := ⟨f, n⟩, ctx := x, seq := q }
    let s := s.modTile t (fun T => { T.setBlock (n + 1) (T.blockLeft - 1) with drawn := T.drawn ++ [d] }.refill)
    (if (s.tile t).blockLeft ≤ 16 ∧ (s.tile t).blockNext2.isNone then s.askBlock t else s, some n)

/-! ### The geometry of a command (R411, R412) -/

/-- Index of level j in element E. -/
def idxOf (cnt : List Nat) (E j : Nat) : Nat :=
  E / ((cnt.take j).foldl (fun n k => n * (k + 1)) 1) % (cnt.getD j 0 + 1)

/-- Σ ij × stride j of element E. -/
def strideSum (cnt : List Nat) (stride : List Int) (E : Nat) : Int :=
  (List.range 6).foldl (fun (acc : Int) j => acc + (idxOf cnt E j : Int) * stride.getD j 0) 0

def Cmd.padAt (m : Cmd) (E : Nat) : Int := m.pad + strideSum m.cnt m.pstride E
def Cmd.extAt (m : Cmd) (E : Nat) : Int := m.ext + strideSum m.cnt m.xstride E

/-- The bounding range of elements of `len` bytes, without wrap. -/
def spanOf (base : Int) (cnt : List Nat) (stride : List Int) (len : Nat) : Int × Int :=
  let reach := fun (j : Nat) => stride.getD j 0 * (cnt.getD j 0 : Int)
  ((List.range 6).foldl (fun (a : Int) j => a + min 0 (reach j)) base,
   (List.range 6).foldl (fun (a : Int) j => a + max 0 (reach j)) base + len)

/-- The write data of a command, in element order. -/
def Tile.cmdBytes (T : Tile) (m : Cmd) : List PByte :=
  (List.range m.elems).flatMap (fun E => T.padBytes (m.padAt E).toNat m.elem)

/-! ### The outbox of a guarded pass (R294, R295) -/

/-- Outbox room of the guarded pass, in lines: olen 0 or above 4,096 reads as 4,096 (R294). -/
def Tile.outboxLen (T : Tile) : Nat :=
  let n := fld (T.cr 0x580) 17 13
  if n = 0 ∨ 4096 < n then 4096 else n

def Tile.outboxUsed (T : Tile) : Nat := fld (T.cr 0x582) 7 13

/-- The pad address of outbox line `n`. -/
def Tile.outboxAddr (T : Tile) (n : Nat) : Nat := (fld (T.cr 0x580) 1 16 + n) * 64

/-- Write bytes with their poison into the outbox lines of the pad (R295). -/
def Tile.putPoisoned (T : Tile) (a : Nat) (data : List PByte) : Tile :=
  let bytes := data.map (fun (b : PByte) => b.1)
  let bad := data.map (fun (b : PByte) => b.2)
  let n := data.length
  let put := fun (m : AMap Bool) (w : Nat) =>
    let hit := (List.range n).any (fun i => (a + i) / 8 == w && bad.getD i false)
    if hit then mset false m w true
    else if a ≤ 8 * w ∧ 8 * w + 8 ≤ a + n then mset false m w false else m
  ({ T with pad := putBytes T.pad a bytes, padPoison := (units 8 a n).foldl put T.padPoison }).clearCapTags a n

/-- The data of a held send are copied into its outbox lines. -/
def Tile.copySend (T : Tile) (e : Emission) (line : Nat) : Tile :=
  let data := e.data.getD (T.padBytes e.addr e.len)
  let T := T.putPoisoned (T.outboxAddr line) data
  let held := T.pass.held.map (fun h => if h.seq == e.seq then { h with data := some data, box := none } else h)
  { T with pass := { T.pass with held := held } }

/-- The write data of a held command are copied into its outbox lines: its token is complete. -/
def Tile.copyCmd (T : Tile) (m : Cmd) (line : Nat) : Tile :=
  let data := T.cmdBytes m
  let T := T.putPoisoned (T.outboxAddr line) data
  let held := T.pass.heldCmds.map (fun h => if h.seq == m.seq then { h with store := data, box := none } else h)
  { T with pass := { T.pass with heldCmds := held },
           cmds := T.cmds.map (fun d => if d.copying && d.seq == m.seq then { d with copying := false } else d) }

/-- What the outbox holds of one entry is copied as soon as the entry's ACQ allows its first read (R276, R295). An ACQ at TILE or wider is an
acquire of its context (R281). -/
def State.copyOne (s : State) (t : Nat) (e : Emission) : State :=
  if e.acq && !s.acquirable t e.ctx e.scope e.seq then s
  else
    match e.cmd, e.box with
    | none, some line => s.modTile t (fun T => if e.acq && decide (1 ≤ e.scope) then (T.copySend e line).acquire e.ctx else T.copySend e line)
    | none, none => s
    | some key, _ =>
      match (s.tile t).pass.heldCmds.find? (fun m => m.token == key) with
      | some m => match m.box with
        | some line => s.modTile t (·.copyCmd m line)
        | none => s
      | none => s

/-- Copy what can be copied, in issue order. -/
def State.copyHeld (s : State) (t : Nat) : State := (s.tile t).pass.held.foldl (·.copyOne t ·) s

/-! ### Stamped packets -/

/-- The null pair of a tile whose site lies in field f: (f, G[f] − 16,384) (R106). -/
def Tile.nullPair (T : Tile) (f : Nat) : Pair := ⟨f, T.gcopy f - 16384#16⟩

/-- Issue a stamped write of context x, at place q of the issue order: its ticket, and its stamp from V as it is before this write's update (R104, R106).
None while more than three entries are pending (R107) or no ticket is at hand. -/
def State.stampWrite (s : State) (t x q : Nat) : State × Option Stamp :=
  let deps := (s.tile t).pending
  if 3 < deps.length then (s, none)
  else
    match s.drawTicket t x q with
    | (s, none) => (s, none)
    | (s, some n) =>
      let q : Pair := ⟨s.tileField t, n⟩
      (s.modTile t (·.mergePair q), some { own := some q, deps := deps, vint := s.vint, null := (s.tile t).nullPair q.f })

/-- A packet from tile t to an agent at logical tile `d`, entering the network at t (R69, R71). -/
def mkPacket (t d : Nat) (dst : Agent) (cls : Nat) (stamp : Option Stamp) (body : Body) : Packet :=
  { dst := dst, src := .tile t, dx := tileX d, dy := tileY d, sx := tileX t, sy := tileY t, cls := cls,
    stamp := stamp, body := body, px := tileX t, py := tileY t }

def State.inject (s : State) (q : Packet) : State := { s with net := s.net ++ [q] }

/-- An ACQ or REL of a queued command: its waits are over (R276). -/
def State.emissionReady (s : State) (t : Nat) (e : Emission) : Bool :=
  s.scopeMet e.acq e.rel t e.ctx e.scope e.seq

/-- The entry is the place of a cooperative nest that a pre-emption of the plot holds at an iteration boundary: a send behind it that has
taken its window leaves all the same (R184, R425; DEDUCED, log 35). -/
def State.passable (s : State) (t : Nat) (e : Emission) : Bool :=
  let T := s.tile t
  match e.nest, T.plot with
  | some slot, some p => T.stopped && (s.plot p).stopping && T.aq.all (fun o => o.kind != 3 || o.slot != slot || o.row == 0)
  | _, _ => false

/-- The head of the emission queue, when it is a channel payload whose waits are over, leaves the tile: the buffer
is read, RC advances for REL, the ticket is drawn and the stamp built (R274, R403). An ACQ at TILE or wider is an acquire of its context when
its wait is over (R281). -/
def State.emitHead (s : State) (t : Nat) : Option State :=
  let q := (s.tile t).emitq
  match q.dropWhile (s.passable t) with
  | [] => none
  | e :: l =>
    if e.place || (s.tile t).frozen || !s.emissionReady t e then none
    else
      match s.stampWrite t e.ctx e.seq with
      | (_, none) => none
      | (s', some st) =>
        let s' := if e.rel && 1 ≤ e.scope then s'.modTile t Tile.release else s'
        let s' := if e.acq && decide (1 ≤ e.scope) then s'.modTile t (·.acquire e.ctx) else s'
        let data := e.data.getD ((s'.tile t).padBytes e.addr e.len)
        let s' := s'.modTile t (fun T => { T with emitq := q.takeWhile (s.passable t) ++ l }.modCr (0x240 + e.ch) (setBit · 53 false))
        some (s'.inject (mkPacket t e.dst (.tile e.dst) 1 (some st) (.payload e.pch data)))

/-- What holds the head back shows: CHN_STAT.stampw is set while more than three entries are pending, and only then (R82, R107),
and a block is asked for when none is held (R97). A head with ACQ or REL at SYS sends its flushing reads. -/
def State.emitWait (s : State) (t : Nat) : State :=
  match (s.tile t).emitq.dropWhile (s.passable t) with
  | [] => s
  | e :: _ =>
    if e.place then s
    else
      let s := s.flushFor e.acq e.rel t e.ctx e.scope e.seq
      let many := decide (3 < (s.tile t).pending.length)
      let s := s.modTile t (·.modCr (0x240 + e.ch) (setBit · 53 many))
      if many then s
      else
        let s := s.modTile t (·.dropStale (s.tileField t))
        if (s.tile t).blockLeft = 0 then s.askBlock t else s

/-- Emit what can leave, in order. -/
def State.drainN (s : State) (t : Nat) : Nat → State
  | 0 => s
  | n + 1 =>
    match s.emitHead t with
    | some s' => State.drainN s' t n
    | none => s.emitWait t

def State.drain (s : State) (t : Nat) : State := (s.copyHeld t).drainN t (s.tile t).emitq.length

/-- A stamped packet of the tile takes its place in the order of issue. -/
def Tile.enqueue (T : Tile) (e : Emission) : Tile :=
  { T with emitq := T.emitq ++ [{ e with seq := T.opSeq }], opSeq := T.opSeq + 1 }

end Sys2Proof.Machine
end

