-- ==== Sys2Proof/WellFormed.lean ====
section
/-! DEFINITION. The codes inside a word that the spec leaves reserved or unassigned although their row
of the opcode table is assigned (R310, and the rules each check cites). -/

namespace Sys2Proof

/-- A 3-bit scope with its acq and rel bits: codes 6 and 7 are ILLEGAL, and so is a nonzero scope with
acq = rel = 0 (R276, R310). -/
def wfScope (scope : BitVec 3) (acq rel : BitVec 1) : Bool :=
  scope.toNat ≤ 5 && (scope == 0#3 || acq == 1#1 || rel == 1#1)

/-- A 2-bit scope of a pad atomic (R309, R310). -/
def wfScope2 (scope : BitVec 2) (acq rel : BitVec 1) : Bool :=
  scope == 0#2 || acq == 1#1 || rel == 1#1

/-- A float type of VFLT, VFLT2 and VFMA: 0 F32, 1 F16, 2 BF16 (R309). -/
def wfType (t : BitVec 2) : Bool := t != 3#2

/-- A type of VCMP (R372): UNORD takes float types only. -/
def wfVcmp (unord : Bool) (t : BitVec 3) : Bool :=
  t.toNat ≤ 4 && (!unord || 2 ≤ t.toNat)

/-- A format code of VCVT (R232, R376). -/
def wfCode (c : BitVec 4) : Bool := c.toNat ≤ 12 && c != 5#4

/-- A mode of CMP and CMPI: 0 SET, 1 AND, 2 OR (R309). -/
def wfMode (m : BitVec 2) : Bool := m != 3#2

/-- A well-formed word has no code that R310 refuses. An event is no word; it is well formed as it is. -/
def wellFormed : Instr → Bool
  | .cmpEq _ m _ _ | .cmpNe _ m _ _ | .cmpLt _ m _ _ | .cmpLtz _ m _ _ | .cmpLe _ m _ _
  | .cmpLez _ m _ _ => wfMode m
  | .cmpiEq _ m _ _ | .cmpiNe _ m _ _ | .cmpiLt _ m _ _ | .cmpiLtz _ m _ _ | .cmpiLe _ m _ _
  | .cmpiLez _ m _ _ => wfMode m
  -- CALL with link 0 is the word JMP (R338)
  | .call d _ => d != 0#6
  | .fadd _ _ _ _ t _ _ | .fsub _ _ _ _ t _ _ | .fmul _ _ _ _ t _ _ | .fmin _ _ _ _ t _ _
  | .fmax _ _ _ _ t _ _ => wfType t
  | .vfma _ _ _ _ t _ _ | .vfms _ _ _ _ t _ _ | .vfnma _ _ _ _ t _ _ => wfType t
  | .fabs _ _ _ t | .fneg _ _ _ t | .fclass _ _ _ t => wfType t
  | .vcmpEq _ _ _ _ t | .vcmpNe _ _ _ _ t | .vcmpLt _ _ _ _ t | .vcmpLe _ _ _ _ t => wfVcmp false t
  | .vcmpUnord _ _ _ _ t => wfVcmp true t
  | .vredAdd _ _ t _ | .vredMin _ _ t _ | .vredMax _ _ t _ => t != 3#2
  | .vredAnd _ _ t _ | .vredOr _ _ t _ | .vredXor _ _ t _ => t.toNat ≤ 1
  | .vcvt _ _ t s r _ _ _ => wfCode t && wfCode s && r.toNat ≤ 4
  | .ldAcq _ _ s _ _ | .stRel _ _ s _ _ => s.toNat ≤ 5
  | .ldvg _ _ _ _ s | .stvs _ _ _ _ s => s != 3#2
  | .aadd _ _ _ _ a l s | .aand _ _ _ _ a l s | .aor _ _ _ _ a l s | .axor _ _ _ _ a l s
  | .amin _ _ _ _ a l s | .amax _ _ _ _ a l s | .aminz _ _ _ _ a l s | .amaxz _ _ _ _ a l s
  | .aswp _ _ _ _ a l s | .acas _ _ _ _ a l s => wfScope2 s a l
  | .tld _ _ _ a l s | .tst _ _ _ a l s => wfScope s a l
  | .mfid _ r => r != 3#2
  | .send _ _ _ a l s => wfScope s a l
  | .sendt _ _ a l s => wfScope s a l
  | .xld _ _ _ a l s _ => wfScope s a l
  | .xst _ _ _ a l s => wfScope s a l
  | .xred _ _ _ a l s o n _ => wfScope s a l && o.toNat ≤ 5 && n.toNat ≤ 4 && (n != 4#3 || o == 0#3)
  | .xatom _ _ _ a l s f _ => wfScope s a l && f.toNat ≤ 9
  | .xpf _ _ _ a s => wfScope s a 0#1
  | _ => true

end Sys2Proof
end

