-- ==== Sys2Proof/Decode.lean ====
section
/-! DEFINITION. The decoder and the encoder (R306 to R310). `rowOf` finds the row of the opcode table
by major code, minor code and reserved fields; `decodeWord` also refuses the reserved codes of
`wellFormed`. The chain bit (bit 31) is decoded beside the instruction. -/

namespace Sys2Proof

/-- Bits [lo + k - 1 : lo] of a word (R4). -/
def slice (w lo k : Nat) : BitVec k := BitVec.ofNat k (w >>> lo)

/-- A field placed below the ones already laid out. -/
def push {m : Nat} (acc : Nat) (x : BitVec m) : Nat := acc * 2 ^ m + x.toNat

/-- Major 0x00 (R308, R309). -/
def decMajor00 (w : Nat) : Option Instr :=
  if slice w 0 7 = 0x0#7 then
    if slice w 7 18 = 0x0#18 then some (.nop) else none
  else if slice w 0 7 = 0x1#7 then
    some (.brkpt (slice w 7 18))
  else if slice w 0 7 = 0x2#7 then
    some (.syscall (slice w 7 18))
  else if slice w 0 7 = 0x3#7 then
    if slice w 7 18 = 0x0#18 then some (.eret) else none
  else if slice w 0 7 = 0x4#7 then
    if slice w 19 6 = 0x0#6 then some (.ckeq (slice w 13 6) (slice w 7 6)) else none
  else if slice w 0 7 = 0x5#7 then
    if slice w 7 18 = 0x0#18 then some (.sleep) else none
  else if slice w 0 7 = 0x6#7 then
    some (.ctxgo (slice w 19 6) (slice w 13 6) (slice w 7 6))
  else if slice w 0 7 = 0x7#7 then
    if slice w 7 18 = 0x0#18 then some (.halt) else none
  else if slice w 0 7 = 0x8#7 then
    if slice w 7 18 = 0x0#18 then some (.yield) else none
  else
  none

/-- Major 0x01 (R308, R309). -/
def decMajor01 (w : Nat) : Option Instr :=
  if slice w 0 7 = 0x0#7 then
    some (.add (slice w 19 6) (slice w 13 6) (slice w 7 6))
  else if slice w 0 7 = 0x1#7 then
    some (.sub (slice w 19 6) (slice w 13 6) (slice w 7 6))
  else if slice w 0 7 = 0x2#7 then
    some (.and (slice w 19 6) (slice w 13 6) (slice w 7 6))
  else if slice w 0 7 = 0x3#7 then
    some (.or (slice w 19 6) (slice w 13 6) (slice w 7 6))
  else if slice w 0 7 = 0x4#7 then
    some (.xor (slice w 19 6) (slice w 13 6) (slice w 7 6))
  else if slice w 0 7 = 0x5#7 then
    some (.andn (slice w 19 6) (slice w 13 6) (slice w 7 6))
  else if slice w 0 7 = 0x6#7 then
    some (.orn (slice w 19 6) (slice w 13 6) (slice w 7 6))
  else if slice w 0 7 = 0x8#7 then
    some (.shl (slice w 19 6) (slice w 13 6) (slice w 7 6))
  else if slice w 0 7 = 0x9#7 then
    some (.shr (slice w 19 6) (slice w 13 6) (slice w 7 6))
  else if slice w 0 7 = 0xa#7 then
    some (.sha (slice w 19 6) (slice w 13 6) (slice w 7 6))
  else if slice w 0 7 = 0xb#7 then
    some (.rol (slice w 19 6) (slice w 13 6) (slice w 7 6))
  else if slice w 0 7 = 0x10#7 then
    some (.min (slice w 19 6) (slice w 13 6) (slice w 7 6))
  else if slice w 0 7 = 0x11#7 then
    some (.max (slice w 19 6) (slice w 13 6) (slice w 7 6))
  else if slice w 0 7 = 0x12#7 then
    some (.minz (slice w 19 6) (slice w 13 6) (slice w 7 6))
  else if slice w 0 7 = 0x13#7 then
    some (.maxz (slice w 19 6) (slice w 13 6) (slice w 7 6))
  else if slice w 0 7 = 0x18#7 then
    some (.mul (slice w 19 6) (slice w 13 6) (slice w 7 6))
  else if slice w 0 7 = 0x19#7 then
    some (.mulh (slice w 19 6) (slice w 13 6) (slice w 7 6))
  else if slice w 0 7 = 0x1a#7 then
    some (.mulhz (slice w 19 6) (slice w 13 6) (slice w 7 6))
  else if slice w 0 7 = 0x1c#7 then
    some (.div (slice w 19 6) (slice w 13 6) (slice w 7 6))
  else if slice w 0 7 = 0x1d#7 then
    some (.divz (slice w 19 6) (slice w 13 6) (slice w 7 6))
  else if slice w 0 7 = 0x1e#7 then
    some (.rem (slice w 19 6) (slice w 13 6) (slice w 7 6))
  else if slice w 0 7 = 0x1f#7 then
    some (.remz (slice w 19 6) (slice w 13 6) (slice w 7 6))
  else if slice w 0 7 = 0x20#7 then
    if slice w 7 6 = 0x0#6 then some (.clz (slice w 19 6) (slice w 13 6)) else none
  else if slice w 0 7 = 0x21#7 then
    if slice w 7 6 = 0x0#6 then some (.ctz (slice w 19 6) (slice w 13 6)) else none
  else if slice w 0 7 = 0x22#7 then
    if slice w 7 6 = 0x0#6 then some (.popc (slice w 19 6) (slice w 13 6)) else none
  else if slice w 0 7 = 0x24#7 then
    if slice w 7 6 = 0x0#6 then some (.sextB (slice w 19 6) (slice w 13 6)) else none
  else if slice w 0 7 = 0x25#7 then
    if slice w 7 6 = 0x0#6 then some (.sextH (slice w 19 6) (slice w 13 6)) else none
  else if slice w 0 7 = 0x26#7 then
    if slice w 7 6 = 0x0#6 then some (.sextW (slice w 19 6) (slice w 13 6)) else none
  else if slice w 0 7 = 0x28#7 then
    if slice w 7 6 = 0x0#6 then some (.zextB (slice w 19 6) (slice w 13 6)) else none
  else if slice w 0 7 = 0x29#7 then
    if slice w 7 6 = 0x0#6 then some (.zextH (slice w 19 6) (slice w 13 6)) else none
  else if slice w 0 7 = 0x2a#7 then
    if slice w 7 6 = 0x0#6 then some (.zextW (slice w 19 6) (slice w 13 6)) else none
  else if slice w 0 7 = 0x30#7 then
    some (.bext (slice w 19 6) (slice w 13 6) (slice w 7 6))
  else if slice w 0 7 = 0x31#7 then
    some (.bins (slice w 19 6) (slice w 13 6) (slice w 7 6))
  else
  none

/-- Major 0x02 (R308, R309). -/
def decMajor02 (w : Nat) : Option Instr :=
  some (.addi (slice w 19 6) (slice w 13 6) (slice w 0 13))

/-- Major 0x03 (R308, R309). -/
def decMajor03 (w : Nat) : Option Instr :=
  some (.andi (slice w 19 6) (slice w 13 6) (slice w 0 13))

/-- Major 0x04 (R308, R309). -/
def decMajor04 (w : Nat) : Option Instr :=
  some (.ori (slice w 19 6) (slice w 13 6) (slice w 0 13))

/-- Major 0x05 (R308, R309). -/
def decMajor05 (w : Nat) : Option Instr :=
  some (.xori (slice w 19 6) (slice w 13 6) (slice w 0 13))

/-- Major 0x06 (R308, R309). -/
def decMajor06 (w : Nat) : Option Instr :=
  if slice w 11 2 = 0x0#2 then
    if slice w 6 5 = 0x0#5 then some (.shli (slice w 19 6) (slice w 13 6) (slice w 0 6)) else none
  else if slice w 11 2 = 0x1#2 then
    if slice w 6 5 = 0x0#5 then some (.shri (slice w 19 6) (slice w 13 6) (slice w 0 6)) else none
  else if slice w 11 2 = 0x2#2 then
    if slice w 6 5 = 0x0#5 then some (.shai (slice w 19 6) (slice w 13 6) (slice w 0 6)) else none
  else if slice w 11 2 = 0x3#2 then
    if slice w 6 5 = 0x0#5 then some (.roli (slice w 19 6) (slice w 13 6) (slice w 0 6)) else none
  else
  none

/-- Major 0x07 (R308, R309). -/
def decMajor07 (w : Nat) : Option Instr :=
  some (.limm (slice w 19 6) (slice w 0 19))

/-- Major 0x08 (R308, R309). -/
def decMajor08 (w : Nat) : Option Instr :=
  some (.lsh19 (slice w 19 6) (slice w 0 19))

/-- Major 0x09 (R308, R309). -/
def decMajor09 (w : Nat) : Option Instr :=
  if slice w 0 3 = 0x0#3 then
    if slice w 19 1 = 0x0#1 ∧ slice w 3 4 = 0x0#4 then some (.cmpEq (slice w 22 3) (slice w 20 2) (slice w 13 6) (slice w 7 6)) else none
  else if slice w 0 3 = 0x1#3 then
    if slice w 19 1 = 0x0#1 ∧ slice w 3 4 = 0x0#4 then some (.cmpNe (slice w 22 3) (slice w 20 2) (slice w 13 6) (slice w 7 6)) else none
  else if slice w 0 3 = 0x2#3 then
    if slice w 19 1 = 0x0#1 ∧ slice w 3 4 = 0x0#4 then some (.cmpLt (slice w 22 3) (slice w 20 2) (slice w 13 6) (slice w 7 6)) else none
  else if slice w 0 3 = 0x3#3 then
    if slice w 19 1 = 0x0#1 ∧ slice w 3 4 = 0x0#4 then some (.cmpLtz (slice w 22 3) (slice w 20 2) (slice w 13 6) (slice w 7 6)) else none
  else if slice w 0 3 = 0x4#3 then
    if slice w 19 1 = 0x0#1 ∧ slice w 3 4 = 0x0#4 then some (.cmpLe (slice w 22 3) (slice w 20 2) (slice w 13 6) (slice w 7 6)) else none
  else if slice w 0 3 = 0x5#3 then
    if slice w 19 1 = 0x0#1 ∧ slice w 3 4 = 0x0#4 then some (.cmpLez (slice w 22 3) (slice w 20 2) (slice w 13 6) (slice w 7 6)) else none
  else
  none

/-- Major 0x0A (R308, R309). -/
def decMajor0A (w : Nat) : Option Instr :=
  if slice w 0 3 = 0x0#3 then
    if slice w 19 1 = 0x0#1 then some (.cmpiEq (slice w 22 3) (slice w 20 2) (slice w 13 6) (slice w 3 10)) else none
  else if slice w 0 3 = 0x1#3 then
    if slice w 19 1 = 0x0#1 then some (.cmpiNe (slice w 22 3) (slice w 20 2) (slice w 13 6) (slice w 3 10)) else none
  else if slice w 0 3 = 0x2#3 then
    if slice w 19 1 = 0x0#1 then some (.cmpiLt (slice w 22 3) (slice w 20 2) (slice w 13 6) (slice w 3 10)) else none
  else if slice w 0 3 = 0x3#3 then
    if slice w 19 1 = 0x0#1 then some (.cmpiLtz (slice w 22 3) (slice w 20 2) (slice w 13 6) (slice w 3 10)) else none
  else if slice w 0 3 = 0x4#3 then
    if slice w 19 1 = 0x0#1 then some (.cmpiLe (slice w 22 3) (slice w 20 2) (slice w 13 6) (slice w 3 10)) else none
  else if slice w 0 3 = 0x5#3 then
    if slice w 19 1 = 0x0#1 then some (.cmpiLez (slice w 22 3) (slice w 20 2) (slice w 13 6) (slice w 3 10)) else none
  else
  none

/-- Major 0x0B (R308, R309). -/
def decMajor0B (w : Nat) : Option Instr :=
  if slice w 0 4 = 0x0#4 then
    if slice w 22 3 = 0x0#3 ∧ slice w 16 3 = 0x0#3 ∧ slice w 10 3 = 0x0#3 ∧ slice w 6 1 = 0x0#1 then some (.pand (slice w 19 3) (slice w 13 3) (slice w 7 3) (slice w 5 1) (slice w 4 1)) else none
  else if slice w 0 4 = 0x1#4 then
    if slice w 22 3 = 0x0#3 ∧ slice w 16 3 = 0x0#3 ∧ slice w 10 3 = 0x0#3 ∧ slice w 6 1 = 0x0#1 then some (.por (slice w 19 3) (slice w 13 3) (slice w 7 3) (slice w 5 1) (slice w 4 1)) else none
  else if slice w 0 4 = 0x2#4 then
    if slice w 22 3 = 0x0#3 ∧ slice w 16 3 = 0x0#3 ∧ slice w 10 3 = 0x0#3 ∧ slice w 6 1 = 0x0#1 then some (.pxor (slice w 19 3) (slice w 13 3) (slice w 7 3) (slice w 5 1) (slice w 4 1)) else none
  else if slice w 0 4 = 0x3#4 then
    if slice w 22 3 = 0x0#3 ∧ slice w 16 3 = 0x0#3 ∧ slice w 4 9 = 0x0#9 then some (.pnot (slice w 19 3) (slice w 13 3)) else none
  else if slice w 0 4 = 0x4#4 then
    if slice w 22 3 = 0x0#3 ∧ slice w 16 3 = 0x0#3 ∧ slice w 4 9 = 0x0#9 then some (.pmov (slice w 19 3) (slice w 13 3)) else none
  else if slice w 0 4 = 0x5#4 then
    some (.sel (slice w 19 6) (slice w 13 6) (slice w 7 6) (slice w 4 3))
  else if slice w 0 4 = 0x6#4 then
    if slice w 16 3 = 0x0#3 ∧ slice w 4 9 = 0x0#9 then some (.ptog (slice w 19 6) (slice w 13 3)) else none
  else if slice w 0 4 = 0x7#4 then
    if slice w 22 3 = 0x0#3 ∧ slice w 4 9 = 0x0#9 then some (.pfromg (slice w 19 3) (slice w 13 6)) else none
  else
  none

/-- Major 0x0C (R308, R309). -/
def decMajor0C (w : Nat) : Option Instr :=
  some (.br (slice w 22 3) (slice w 21 1) (slice w 0 21))

/-- Major 0x0D (R308, R309). -/
def decMajor0D (w : Nat) : Option Instr :=
  some (.brm (slice w 22 3) (slice w 21 1) (slice w 0 21))

/-- Major 0x0E (R308, R309). -/
def decMajor0E (w : Nat) : Option Instr :=
  if slice w 19 6 = 0x0#6 then some (.jmp (slice w 0 19)) else some (.call (slice w 19 6) (slice w 0 19))

/-- Major 0x0F (R308, R309). -/
def decMajor0F (w : Nat) : Option Instr :=
  if slice w 0 7 = 0x0#7 then
    if slice w 19 6 = 0x0#6 ∧ slice w 7 6 = 0x0#6 then some (.jr (slice w 13 6)) else none
  else if slice w 0 7 = 0x1#7 then
    if slice w 7 6 = 0x0#6 then some (.callr (slice w 19 6) (slice w 13 6)) else none
  else if slice w 0 7 = 0x2#7 then
    if slice w 19 6 = 0x0#6 ∧ slice w 7 6 = 0x0#6 then some (.ret (slice w 13 6)) else none
  else
  none

/-- Major 0x10 (R308, R309). -/
def decMajor10 (w : Nat) : Option Instr :=
  if slice w 18 1 = 0x0#1 then
    if slice w 0 2 = 0x0#2 then some (.loopn (slice w 19 6) (slice w 8 10) (slice w 2 6)) else none
  else if slice w 18 1 = 0x1#1 then
    if slice w 8 10 = 0x0#10 ∧ slice w 0 2 = 0x0#2 then some (.loopnFz (slice w 19 6) (slice w 2 6)) else none
  else
  none

/-- Major 0x11 (R308, R309). -/
def decMajor11 (w : Nat) : Option Instr :=
  some (.brg (slice w 22 3) (slice w 19 3) (slice w 0 19))

/-- Major 0x12 (R308, R309). -/
def decMajor12 (w : Nat) : Option Instr :=
  if slice w 0 7 = 0x0#7 then
    if slice w 23 2 = 0x0#2 ∧ slice w 17 2 = 0x0#2 then some (.cnarw (slice w 19 4) (slice w 13 4) (slice w 7 6)) else none
  else if slice w 0 7 = 0x1#7 then
    if slice w 23 2 = 0x0#2 ∧ slice w 17 2 = 0x0#2 then some (.cadv (slice w 19 4) (slice w 13 4) (slice w 7 6)) else none
  else if slice w 0 7 = 0x2#7 then
    if slice w 23 2 = 0x0#2 ∧ slice w 17 2 = 0x0#2 then some (.cseek (slice w 19 4) (slice w 13 4) (slice w 7 6)) else none
  else if slice w 0 7 = 0x3#7 then
    if slice w 23 2 = 0x0#2 ∧ slice w 17 2 = 0x0#2 then some (.cdrop (slice w 19 4) (slice w 13 4) (slice w 7 6)) else none
  else if slice w 0 7 = 0x4#7 then
    if slice w 23 2 = 0x0#2 ∧ slice w 17 2 = 0x0#2 ∧ slice w 7 6 = 0x0#6 then some (.cvoid (slice w 19 4) (slice w 13 4)) else none
  else if slice w 0 7 = 0x5#7 then
    if slice w 23 2 = 0x0#2 ∧ slice w 17 2 = 0x0#2 ∧ slice w 7 6 = 0x0#6 then some (.ccopy (slice w 19 4) (slice w 13 4)) else none
  else if slice w 0 7 = 0x8#7 then
    if slice w 17 2 = 0x0#2 ∧ slice w 7 6 = 0x0#6 then some (.crdlo (slice w 19 6) (slice w 13 4)) else none
  else if slice w 0 7 = 0x9#7 then
    if slice w 17 2 = 0x0#2 ∧ slice w 7 6 = 0x0#6 then some (.crdsz (slice w 19 6) (slice w 13 4)) else none
  else if slice w 0 7 = 0xa#7 then
    if slice w 17 2 = 0x0#2 ∧ slice w 7 6 = 0x0#6 then some (.crdcu (slice w 19 6) (slice w 13 4)) else none
  else if slice w 0 7 = 0xb#7 then
    if slice w 17 2 = 0x0#2 ∧ slice w 7 6 = 0x0#6 then some (.crdpm (slice w 19 6) (slice w 13 4)) else none
  else if slice w 0 7 = 0xc#7 then
    if slice w 17 2 = 0x0#2 ∧ slice w 7 6 = 0x0#6 then some (.crdsp (slice w 19 6) (slice w 13 4)) else none
  else if slice w 0 7 = 0xd#7 then
    if slice w 17 2 = 0x0#2 ∧ slice w 7 6 = 0x0#6 then some (.crdvt (slice w 19 6) (slice w 13 4)) else none
  else if slice w 0 7 = 0xe#7 then
    if slice w 17 2 = 0x0#2 ∧ slice w 11 2 = 0x0#2 then some (.cdist (slice w 19 6) (slice w 13 4) (slice w 7 4)) else none
  else
  none

/-- Major 0x13 (R308, R309). -/
def decMajor13 (w : Nat) : Option Instr :=
  if slice w 23 2 = 0x0#2 ∧ slice w 17 2 = 0x0#2 then some (.cadvi (slice w 19 4) (slice w 13 4) (slice w 0 13)) else none

/-- Major 0x14 (R308, R309). -/
def decMajor14 (w : Nat) : Option Instr :=
  if slice w 0 7 = 0x0#7 then
    some (.mfc (slice w 19 6) (slice w 7 12))
  else if slice w 0 7 = 0x1#7 then
    some (.mtc (slice w 19 6) (slice w 7 12))
  else if slice w 0 7 = 0x2#7 then
    some (.msc (slice w 19 6) (slice w 7 12))
  else if slice w 0 7 = 0x3#7 then
    some (.mcc (slice w 19 6) (slice w 7 12))
  else
  none

/-- Major 0x15 (R308, R309). -/
def decMajor15 (w : Nat) : Option Instr :=
  if slice w 10 9 = 0x0#9 then some (.spl (slice w 19 6) (slice w 0 10)) else none

/-- Major 0x16 (R308, R309). -/
def decMajor16 (w : Nat) : Option Instr :=
  if slice w 10 9 = 0x0#9 then some (.sps (slice w 19 6) (slice w 0 10)) else none

/-- Major 0x17 (R308, R309). -/
def decMajor17 (w : Nat) : Option Instr :=
  if slice w 10 2 = 0x0#2 then
    if slice w 24 1 = 0x0#1 ∧ slice w 12 7 = 0x0#7 then some (.splv (slice w 19 5) (slice w 0 10)) else none
  else if slice w 10 2 = 0x1#2 then
    if slice w 24 1 = 0x0#1 ∧ slice w 12 7 = 0x0#7 then some (.spsv (slice w 19 5) (slice w 0 10)) else none
  else if slice w 10 2 = 0x2#2 then
    if slice w 23 2 = 0x0#2 ∧ slice w 12 7 = 0x0#7 then some (.splc (slice w 19 4) (slice w 0 10)) else none
  else if slice w 10 2 = 0x3#2 then
    if slice w 23 2 = 0x0#2 ∧ slice w 12 7 = 0x0#7 then some (.spsc (slice w 19 4) (slice w 0 10)) else none
  else
  none

/-- Major 0x18 (R308, R309). -/
def decMajor18 (w : Nat) : Option Instr :=
  if slice w 0 5 = 0x0#5 then
    if slice w 5 2 = 0x0#2 then some (.vadd (slice w 20 5) (slice w 15 5) (slice w 10 5) (slice w 7 3)) else none
  else if slice w 0 5 = 0x1#5 then
    if slice w 5 2 = 0x0#2 then some (.vsub (slice w 20 5) (slice w 15 5) (slice w 10 5) (slice w 7 3)) else none
  else if slice w 0 5 = 0x2#5 then
    if slice w 5 2 = 0x0#2 then some (.vmul (slice w 20 5) (slice w 15 5) (slice w 10 5) (slice w 7 3)) else none
  else if slice w 0 5 = 0x3#5 then
    if slice w 5 1 = 0x0#1 then some (.vmulh (slice w 20 5) (slice w 15 5) (slice w 10 5) (slice w 7 3) (slice w 6 1)) else none
  else if slice w 0 5 = 0x4#5 then
    if slice w 5 1 = 0x0#1 then some (.vmin (slice w 20 5) (slice w 15 5) (slice w 10 5) (slice w 7 3) (slice w 6 1)) else none
  else if slice w 0 5 = 0x5#5 then
    if slice w 5 1 = 0x0#1 then some (.vmax (slice w 20 5) (slice w 15 5) (slice w 10 5) (slice w 7 3) (slice w 6 1)) else none
  else if slice w 0 5 = 0x6#5 then
    if slice w 10 5 = 0x0#5 ∧ slice w 5 2 = 0x0#2 then some (.vabs (slice w 20 5) (slice w 15 5) (slice w 7 3)) else none
  else if slice w 0 5 = 0x7#5 then
    if slice w 10 5 = 0x0#5 ∧ slice w 5 2 = 0x0#2 then some (.vneg (slice w 20 5) (slice w 15 5) (slice w 7 3)) else none
  else if slice w 0 5 = 0x8#5 then
    if slice w 5 2 = 0x0#2 then some (.vand (slice w 20 5) (slice w 15 5) (slice w 10 5) (slice w 7 3)) else none
  else if slice w 0 5 = 0x9#5 then
    if slice w 5 2 = 0x0#2 then some (.vor (slice w 20 5) (slice w 15 5) (slice w 10 5) (slice w 7 3)) else none
  else if slice w 0 5 = 0xa#5 then
    if slice w 5 2 = 0x0#2 then some (.vxor (slice w 20 5) (slice w 15 5) (slice w 10 5) (slice w 7 3)) else none
  else if slice w 0 5 = 0xb#5 then
    if slice w 5 2 = 0x0#2 then some (.vshl (slice w 20 5) (slice w 15 5) (slice w 10 5) (slice w 7 3)) else none
  else if slice w 0 5 = 0xc#5 then
    if slice w 5 2 = 0x0#2 then some (.vshr (slice w 20 5) (slice w 15 5) (slice w 10 5) (slice w 7 3)) else none
  else if slice w 0 5 = 0xd#5 then
    if slice w 5 2 = 0x0#2 then some (.vsha (slice w 20 5) (slice w 15 5) (slice w 10 5) (slice w 7 3)) else none
  else if slice w 0 5 = 0xe#5 then
    if slice w 5 2 = 0x0#2 then some (.vclmul (slice w 20 5) (slice w 15 5) (slice w 10 5) (slice w 7 3)) else none
  else if slice w 0 5 = 0xf#5 then
    if slice w 5 2 = 0x0#2 then some (.vclmulh (slice w 20 5) (slice w 15 5) (slice w 10 5) (slice w 7 3)) else none
  else if slice w 0 5 = 0x10#5 then
    if slice w 10 5 = 0x0#5 ∧ slice w 5 2 = 0x0#2 then some (.vpopc (slice w 20 5) (slice w 15 5) (slice w 7 3)) else none
  else
  none

/-- Major 0x19 (R308, R309). -/
def decMajor19 (w : Nat) : Option Instr :=
  if slice w 0 3 = 0x0#3 then
    some (.fadd (slice w 20 5) (slice w 15 5) (slice w 10 5) (slice w 7 3) (slice w 5 2) (slice w 4 1) (slice w 3 1))
  else if slice w 0 3 = 0x1#3 then
    some (.fsub (slice w 20 5) (slice w 15 5) (slice w 10 5) (slice w 7 3) (slice w 5 2) (slice w 4 1) (slice w 3 1))
  else if slice w 0 3 = 0x2#3 then
    some (.fmul (slice w 20 5) (slice w 15 5) (slice w 10 5) (slice w 7 3) (slice w 5 2) (slice w 4 1) (slice w 3 1))
  else if slice w 0 3 = 0x3#3 then
    some (.fmin (slice w 20 5) (slice w 15 5) (slice w 10 5) (slice w 7 3) (slice w 5 2) (slice w 4 1) (slice w 3 1))
  else if slice w 0 3 = 0x4#3 then
    some (.fmax (slice w 20 5) (slice w 15 5) (slice w 10 5) (slice w 7 3) (slice w 5 2) (slice w 4 1) (slice w 3 1))
  else
  none

/-- Major 0x1A (R308, R309). -/
def decMajor1A (w : Nat) : Option Instr :=
  if slice w 0 3 = 0x0#3 then
    if slice w 10 5 = 0x0#5 ∧ slice w 3 2 = 0x0#2 then some (.fabs (slice w 20 5) (slice w 15 5) (slice w 7 3) (slice w 5 2)) else none
  else if slice w 0 3 = 0x1#3 then
    if slice w 10 5 = 0x0#5 ∧ slice w 3 2 = 0x0#2 then some (.fneg (slice w 20 5) (slice w 15 5) (slice w 7 3) (slice w 5 2)) else none
  else if slice w 0 3 = 0x2#3 then
    if slice w 10 5 = 0x0#5 ∧ slice w 3 2 = 0x0#2 then some (.fclass (slice w 20 5) (slice w 15 5) (slice w 7 3) (slice w 5 2)) else none
  else
  none

/-- Major 0x1B (R308, R309). -/
def decMajor1B (w : Nat) : Option Instr :=
  if slice w 0 3 = 0x0#3 then
    some (.vfma (slice w 20 5) (slice w 15 5) (slice w 10 5) (slice w 7 3) (slice w 5 2) (slice w 4 1) (slice w 3 1))
  else if slice w 0 3 = 0x1#3 then
    some (.vfms (slice w 20 5) (slice w 15 5) (slice w 10 5) (slice w 7 3) (slice w 5 2) (slice w 4 1) (slice w 3 1))
  else if slice w 0 3 = 0x2#3 then
    some (.vfnma (slice w 20 5) (slice w 15 5) (slice w 10 5) (slice w 7 3) (slice w 5 2) (slice w 4 1) (slice w 3 1))
  else
  none

/-- Major 0x1C (R308, R309). -/
def decMajor1C (w : Nat) : Option Instr :=
  if slice w 0 4 = 0x0#4 then
    if slice w 20 2 = 0x0#2 then some (.vcmpEq (slice w 22 3) (slice w 15 5) (slice w 10 5) (slice w 7 3) (slice w 4 3)) else none
  else if slice w 0 4 = 0x1#4 then
    if slice w 20 2 = 0x0#2 then some (.vcmpNe (slice w 22 3) (slice w 15 5) (slice w 10 5) (slice w 7 3) (slice w 4 3)) else none
  else if slice w 0 4 = 0x2#4 then
    if slice w 20 2 = 0x0#2 then some (.vcmpLt (slice w 22 3) (slice w 15 5) (slice w 10 5) (slice w 7 3) (slice w 4 3)) else none
  else if slice w 0 4 = 0x3#4 then
    if slice w 20 2 = 0x0#2 then some (.vcmpLe (slice w 22 3) (slice w 15 5) (slice w 10 5) (slice w 7 3) (slice w 4 3)) else none
  else if slice w 0 4 = 0x4#4 then
    if slice w 20 2 = 0x0#2 then some (.vcmpUnord (slice w 22 3) (slice w 15 5) (slice w 10 5) (slice w 7 3) (slice w 4 3)) else none
  else
  none

/-- Major 0x1D (R308, R309). -/
def decMajor1D (w : Nat) : Option Instr :=
  if slice w 0 7 = 0x0#7 then
    some (.vsel (slice w 20 5) (slice w 15 5) (slice w 10 5) (slice w 7 3))
  else if slice w 0 7 = 0x1#7 then
    some (.vperm (slice w 20 5) (slice w 15 5) (slice w 10 5) (slice w 7 3))
  else if slice w 0 7 = 0x2#7 then
    if slice w 10 5 = 0x0#5 then some (.vbcast (slice w 20 5) (slice w 15 5) (slice w 7 3)) else none
  else if slice w 0 7 = 0x3#7 then
    if slice w 7 3 = 0x0#3 then some (.vext (slice w 20 5) (slice w 15 5) (slice w 10 5)) else none
  else if slice w 0 7 = 0x4#7 then
    if slice w 7 3 = 0x0#3 then some (.vins (slice w 20 5) (slice w 15 5) (slice w 10 5)) else none
  else if slice w 0 7 = 0x5#7 then
    if slice w 12 3 = 0x0#3 then
      some (.vredAdd (slice w 20 5) (slice w 15 5) (slice w 10 2) (slice w 7 3))
    else if slice w 12 3 = 0x1#3 then
      some (.vredMin (slice w 20 5) (slice w 15 5) (slice w 10 2) (slice w 7 3))
    else if slice w 12 3 = 0x2#3 then
      some (.vredMax (slice w 20 5) (slice w 15 5) (slice w 10 2) (slice w 7 3))
    else if slice w 12 3 = 0x3#3 then
      some (.vredAnd (slice w 20 5) (slice w 15 5) (slice w 10 2) (slice w 7 3))
    else if slice w 12 3 = 0x4#3 then
      some (.vredOr (slice w 20 5) (slice w 15 5) (slice w 10 2) (slice w 7 3))
    else if slice w 12 3 = 0x5#3 then
      some (.vredXor (slice w 20 5) (slice w 15 5) (slice w 10 2) (slice w 7 3))
    else
    none
  else if slice w 0 7 = 0x6#7 then
    if slice w 10 10 = 0x0#10 then some (.viota (slice w 20 5) (slice w 7 3)) else none
  else if slice w 0 7 = 0x8#7 then
    if slice w 23 2 = 0x0#2 ∧ slice w 18 2 = 0x0#2 ∧ slice w 13 2 = 0x0#2 ∧ slice w 7 3 = 0x0#3 then some (.kand (slice w 20 3) (slice w 15 3) (slice w 10 3)) else none
  else if slice w 0 7 = 0x9#7 then
    if slice w 23 2 = 0x0#2 ∧ slice w 18 2 = 0x0#2 ∧ slice w 13 2 = 0x0#2 ∧ slice w 7 3 = 0x0#3 then some (.kor (slice w 20 3) (slice w 15 3) (slice w 10 3)) else none
  else if slice w 0 7 = 0xa#7 then
    if slice w 23 2 = 0x0#2 ∧ slice w 18 2 = 0x0#2 ∧ slice w 13 2 = 0x0#2 ∧ slice w 7 3 = 0x0#3 then some (.kxor (slice w 20 3) (slice w 15 3) (slice w 10 3)) else none
  else if slice w 0 7 = 0xb#7 then
    if slice w 23 2 = 0x0#2 ∧ slice w 18 2 = 0x0#2 ∧ slice w 7 8 = 0x0#8 then some (.knot (slice w 20 3) (slice w 15 3)) else none
  else if slice w 0 7 = 0xc#7 then
    if slice w 18 2 = 0x0#2 ∧ slice w 7 8 = 0x0#8 then some (.kpop (slice w 20 5) (slice w 15 3)) else none
  else if slice w 0 7 = 0xd#7 then
    if slice w 23 2 = 0x0#2 ∧ slice w 7 8 = 0x0#8 then some (.kfromg (slice w 20 3) (slice w 15 5)) else none
  else
  none

/-- Major 0x1E (R308, R309). -/
def decMajor1E (w : Nat) : Option Instr :=
  if slice w 0 1 = 0x0#1 then some (.vcvt (slice w 20 5) (slice w 15 5) (slice w 11 4) (slice w 7 4) (slice w 4 3) (slice w 3 1) (slice w 2 1) (slice w 1 1)) else none

/-- Major 0x1F (R308, R309). -/
def decMajor1F (w : Nat) : Option Instr :=
  if slice w 0 7 = 0x0#7 then
    if slice w 10 5 = 0x0#5 then some (.vexp2 (slice w 20 5) (slice w 15 5) (slice w 7 3)) else none
  else if slice w 0 7 = 0x1#7 then
    if slice w 10 5 = 0x0#5 then some (.vlog2 (slice w 20 5) (slice w 15 5) (slice w 7 3)) else none
  else if slice w 0 7 = 0x2#7 then
    if slice w 10 5 = 0x0#5 then some (.vrcp (slice w 20 5) (slice w 15 5) (slice w 7 3)) else none
  else if slice w 0 7 = 0x3#7 then
    if slice w 10 5 = 0x0#5 then some (.vrsq (slice w 20 5) (slice w 15 5) (slice w 7 3)) else none
  else if slice w 0 7 = 0x4#7 then
    if slice w 10 5 = 0x0#5 then some (.vtanh (slice w 20 5) (slice w 15 5) (slice w 7 3)) else none
  else if slice w 0 7 = 0x5#7 then
    if slice w 10 5 = 0x0#5 then some (.vsig (slice w 20 5) (slice w 15 5) (slice w 7 3)) else none
  else
  none

/-- Major 0x20 (R308, R309). -/
def decMajor20 (w : Nat) : Option Instr :=
  if slice w 12 3 = 0x0#3 then
    some (.ldS8 (slice w 19 6) (slice w 15 4) (slice w 0 12))
  else if slice w 12 3 = 0x1#3 then
    some (.ldS16 (slice w 19 6) (slice w 15 4) (slice w 0 12))
  else if slice w 12 3 = 0x2#3 then
    some (.ldS32 (slice w 19 6) (slice w 15 4) (slice w 0 12))
  else if slice w 12 3 = 0x3#3 then
    some (.ldS64 (slice w 19 6) (slice w 15 4) (slice w 0 12))
  else if slice w 12 3 = 0x4#3 then
    some (.ldZ8 (slice w 19 6) (slice w 15 4) (slice w 0 12))
  else if slice w 12 3 = 0x5#3 then
    some (.ldZ16 (slice w 19 6) (slice w 15 4) (slice w 0 12))
  else if slice w 12 3 = 0x6#3 then
    some (.ldZ32 (slice w 19 6) (slice w 15 4) (slice w 0 12))
  else if slice w 12 3 = 0x7#3 then
    if slice w 7 1 = 0x0#1 then some (.ldAcq (slice w 19 6) (slice w 15 4) (slice w 9 3) (slice w 8 1) (slice w 0 7)) else none
  else
  none

/-- Major 0x21 (R308, R309). -/
def decMajor21 (w : Nat) : Option Instr :=
  if slice w 12 3 = 0x0#3 then
    some (.stS8 (slice w 19 6) (slice w 15 4) (slice w 0 12))
  else if slice w 12 3 = 0x1#3 then
    some (.stS16 (slice w 19 6) (slice w 15 4) (slice w 0 12))
  else if slice w 12 3 = 0x2#3 then
    some (.stS32 (slice w 19 6) (slice w 15 4) (slice w 0 12))
  else if slice w 12 3 = 0x3#3 then
    some (.stS64 (slice w 19 6) (slice w 15 4) (slice w 0 12))
  else if slice w 12 3 = 0x7#3 then
    if slice w 7 1 = 0x0#1 then some (.stRel (slice w 19 6) (slice w 15 4) (slice w 9 3) (slice w 8 1) (slice w 0 7)) else none
  else
  none

/-- Major 0x22 (R308, R309). -/
def decMajor22 (w : Nat) : Option Instr :=
  if slice w 24 1 = 0x0#1 then some (.ldv (slice w 19 5) (slice w 15 4) (slice w 12 3) (slice w 0 12)) else none

/-- Major 0x23 (R308, R309). -/
def decMajor23 (w : Nat) : Option Instr :=
  if slice w 24 1 = 0x0#1 then some (.stv (slice w 19 5) (slice w 15 4) (slice w 12 3) (slice w 0 12)) else none

/-- Major 0x24 (R308, R309). -/
def decMajor24 (w : Nat) : Option Instr :=
  if slice w 0 6 = 0x0#6 then some (.ldvg (slice w 20 5) (slice w 16 4) (slice w 11 5) (slice w 8 3) (slice w 6 2)) else none

/-- Major 0x25 (R308, R309). -/
def decMajor25 (w : Nat) : Option Instr :=
  if slice w 0 6 = 0x0#6 then some (.stvs (slice w 20 5) (slice w 16 4) (slice w 11 5) (slice w 8 3) (slice w 6 2)) else none

/-- Major 0x26 (R308, R309). -/
def decMajor26 (w : Nat) : Option Instr :=
  if slice w 12 3 = 0x0#3 then
    if slice w 23 2 = 0x0#2 then some (.ldc (slice w 19 4) (slice w 15 4) (slice w 0 12)) else none
  else if slice w 12 3 = 0x1#3 then
    if slice w 23 2 = 0x0#2 then some (.stc (slice w 19 4) (slice w 15 4) (slice w 0 12)) else none
  else
  none

/-- Major 0x27 (R308, R309). -/
def decMajor27 (w : Nat) : Option Instr :=
  if slice w 5 4 = 0x0#4 then
    some (.aadd (slice w 19 6) (slice w 15 4) (slice w 9 6) (slice w 4 1) (slice w 3 1) (slice w 2 1) (slice w 0 2))
  else if slice w 5 4 = 0x1#4 then
    some (.aand (slice w 19 6) (slice w 15 4) (slice w 9 6) (slice w 4 1) (slice w 3 1) (slice w 2 1) (slice w 0 2))
  else if slice w 5 4 = 0x2#4 then
    some (.aor (slice w 19 6) (slice w 15 4) (slice w 9 6) (slice w 4 1) (slice w 3 1) (slice w 2 1) (slice w 0 2))
  else if slice w 5 4 = 0x3#4 then
    some (.axor (slice w 19 6) (slice w 15 4) (slice w 9 6) (slice w 4 1) (slice w 3 1) (slice w 2 1) (slice w 0 2))
  else if slice w 5 4 = 0x4#4 then
    some (.amin (slice w 19 6) (slice w 15 4) (slice w 9 6) (slice w 4 1) (slice w 3 1) (slice w 2 1) (slice w 0 2))
  else if slice w 5 4 = 0x5#4 then
    some (.amax (slice w 19 6) (slice w 15 4) (slice w 9 6) (slice w 4 1) (slice w 3 1) (slice w 2 1) (slice w 0 2))
  else if slice w 5 4 = 0x6#4 then
    some (.aminz (slice w 19 6) (slice w 15 4) (slice w 9 6) (slice w 4 1) (slice w 3 1) (slice w 2 1) (slice w 0 2))
  else if slice w 5 4 = 0x7#4 then
    some (.amaxz (slice w 19 6) (slice w 15 4) (slice w 9 6) (slice w 4 1) (slice w 3 1) (slice w 2 1) (slice w 0 2))
  else if slice w 5 4 = 0x8#4 then
    some (.aswp (slice w 19 6) (slice w 15 4) (slice w 9 6) (slice w 4 1) (slice w 3 1) (slice w 2 1) (slice w 0 2))
  else if slice w 5 4 = 0x9#4 then
    some (.acas (slice w 19 6) (slice w 15 4) (slice w 9 6) (slice w 4 1) (slice w 3 1) (slice w 2 1) (slice w 0 2))
  else
  none

/-- Major 0x28 (R308, R309). -/
def decMajor28 (w : Nat) : Option Instr :=
  if slice w 15 3 = 0x0#3 then
    if slice w 0 5 = 0x0#5 then some (.tld (slice w 22 3) (slice w 18 4) (slice w 10 5) (slice w 9 1) (slice w 8 1) (slice w 5 3)) else none
  else if slice w 15 3 = 0x1#3 then
    if slice w 0 5 = 0x0#5 then some (.tst (slice w 22 3) (slice w 18 4) (slice w 10 5) (slice w 9 1) (slice w 8 1) (slice w 5 3)) else none
  else if slice w 15 3 = 0x2#3 then
    if slice w 14 1 = 0x0#1 then
      if slice w 18 4 = 0x0#4 ∧ slice w 0 14 = 0x0#14 then some (.tzero (slice w 22 3)) else none
    else if slice w 14 1 = 0x1#1 then
      if slice w 18 4 = 0x0#4 ∧ slice w 0 14 = 0x0#14 then some (.tzeroInv (slice w 22 3)) else none
    else
    none
  else if slice w 15 3 = 0x3#3 then
    if slice w 18 4 = 0x0#4 ∧ slice w 0 12 = 0x0#12 then some (.tmov (slice w 22 3) (slice w 12 3)) else none
  else if slice w 15 3 = 0x4#3 then
    if slice w 18 4 = 0x0#4 ∧ slice w 0 2 = 0x0#2 then some (.tldv (slice w 22 3) (slice w 10 5) (slice w 5 5) (slice w 2 3)) else none
  else if slice w 15 3 = 0x5#3 then
    if slice w 18 4 = 0x0#4 ∧ slice w 0 2 = 0x0#2 then some (.tstv (slice w 22 3) (slice w 10 5) (slice w 5 5) (slice w 2 3)) else none
  else if slice w 15 3 = 0x6#3 then
    if slice w 18 4 = 0x0#4 ∧ slice w 0 9 = 0x0#9 then some (.tstat (slice w 22 3) (slice w 9 6)) else none
  else
  none

/-- Major 0x29 (R308, R309). -/
def decMajor29 (w : Nat) : Option Instr :=
  if slice w 14 4 = 0x0#4 then
    some (.mma (slice w 22 3) (slice w 18 4) (slice w 11 3) (slice w 6 5) (slice w 3 3) (slice w 2 1) (slice w 1 1) (slice w 0 1))
  else if slice w 14 4 = 0x1#4 then
    some (.mmas (slice w 22 3) (slice w 18 4) (slice w 11 3) (slice w 6 5) (slice w 3 3) (slice w 2 1) (slice w 1 1) (slice w 0 1))
  else if slice w 14 4 = 0x2#4 then
    if slice w 22 3 = 0x0#3 ∧ slice w 0 9 = 0x0#9 then some (.mldb (slice w 18 4) (slice w 11 3) (slice w 10 1) (slice w 9 1)) else none
  else if slice w 14 4 = 0x3#4 then
    if slice w 13 1 = 0x0#1 then
      if slice w 24 1 = 0x0#1 ∧ slice w 18 4 = 0x0#4 ∧ slice w 0 13 = 0x0#13 then some (.mgo (slice w 22 2)) else none
    else if slice w 13 1 = 0x1#1 then
      if slice w 24 1 = 0x0#1 ∧ slice w 18 4 = 0x0#4 ∧ slice w 0 13 = 0x0#13 then some (.mgoCo (slice w 22 2)) else none
    else
    none
  else if slice w 14 4 = 0x4#4 then
    if slice w 18 7 = 0x0#7 ∧ slice w 0 14 = 0x0#14 then some (.mpause) else none
  else if slice w 14 4 = 0x5#4 then
    if slice w 18 7 = 0x0#7 ∧ slice w 0 14 = 0x0#14 then some (.mresume) else none
  else if slice w 14 4 = 0x6#4 then
    if slice w 13 1 = 0x0#1 then
      if slice w 18 7 = 0x0#7 ∧ slice w 0 13 = 0x0#13 then some (.mwait) else none
    else if slice w 13 1 = 0x1#1 then
      if slice w 24 1 = 0x0#1 ∧ slice w 18 4 = 0x0#4 ∧ slice w 0 13 = 0x0#13 then some (.mwaitNest (slice w 22 2)) else none
    else
    none
  else if slice w 14 4 = 0x7#4 then
    if slice w 18 7 = 0x0#7 ∧ slice w 0 10 = 0x0#10 then some (.mwake (slice w 10 4)) else none
  else if slice w 14 4 = 0x8#4 then
    if slice w 18 7 = 0x0#7 ∧ slice w 0 10 = 0x0#10 then some (.mshape (slice w 10 4)) else none
  else if slice w 14 4 = 0x9#4 then
    if slice w 18 7 = 0x0#7 ∧ slice w 0 10 = 0x0#10 then some (.mfid (slice w 12 2) (slice w 10 2)) else none
  else
  none

/-- Major 0x2A (R308, R309). -/
def decMajor2A (w : Nat) : Option Instr :=
  some (.mrep (slice w 15 10) (slice w 10 5) (slice w 5 5) (slice w 0 5))

/-- Major 0x2B (R308, R309). -/
def decMajor2B (w : Nat) : Option Instr :=
  if slice w 0 8 = 0x0#8 then some (.scacc (slice w 22 3) (slice w 18 4) (slice w 15 3) (slice w 10 5) (slice w 9 1) (slice w 8 1)) else none

/-- Major 0x2C (R308, R309). -/
def decMajor2C (w : Nat) : Option Instr :=
  if slice w 6 3 = 0x0#3 then
    if slice w 0 1 = 0x0#1 then some (.send (slice w 19 6) (slice w 13 6) (slice w 9 4) (slice w 5 1) (slice w 4 1) (slice w 1 3)) else none
  else if slice w 6 3 = 0x1#3 then
    if slice w 9 4 = 0x0#4 ∧ slice w 0 1 = 0x0#1 then some (.sendt (slice w 19 6) (slice w 13 6) (slice w 5 1) (slice w 4 1) (slice w 1 3)) else none
  else if slice w 6 3 = 0x2#3 then
    if slice w 9 4 = 0x0#4 ∧ slice w 0 6 = 0x0#6 then some (.recv (slice w 19 6) (slice w 13 6)) else none
  else if slice w 6 3 = 0x3#3 then
    if slice w 19 6 = 0x0#6 ∧ slice w 9 4 = 0x0#4 ∧ slice w 0 6 = 0x0#6 then some (.chwait (slice w 13 6)) else none
  else if slice w 6 3 = 0x4#3 then
    if slice w 9 4 = 0x0#4 ∧ slice w 0 6 = 0x0#6 then some (.charm (slice w 19 6) (slice w 13 6)) else none
  else if slice w 6 3 = 0x5#3 then
    if slice w 9 4 = 0x0#4 ∧ slice w 0 6 = 0x0#6 then some (.chstat (slice w 19 6) (slice w 13 6)) else none
  else
  none

/-- Major 0x2D (R308, R309). -/
def decMajor2D (w : Nat) : Option Instr :=
  if slice w 7 3 = 0x0#3 then
    if slice w 0 6 = 0x0#6 then some (.xld (slice w 21 4) (slice w 17 4) (slice w 15 2) (slice w 14 1) (slice w 13 1) (slice w 10 3) (slice w 6 1)) else none
  else if slice w 7 3 = 0x1#3 then
    if slice w 0 7 = 0x0#7 then some (.xst (slice w 21 4) (slice w 17 4) (slice w 15 2) (slice w 14 1) (slice w 13 1) (slice w 10 3)) else none
  else if slice w 7 3 = 0x2#3 then
    some (.xred (slice w 21 4) (slice w 17 4) (slice w 15 2) (slice w 14 1) (slice w 13 1) (slice w 10 3) (slice w 4 3) (slice w 1 3) (slice w 0 1))
  else if slice w 7 3 = 0x3#3 then
    if slice w 0 2 = 0x0#2 then some (.xatom (slice w 21 4) (slice w 17 4) (slice w 15 2) (slice w 14 1) (slice w 13 1) (slice w 10 3) (slice w 3 4) (slice w 2 1)) else none
  else if slice w 7 3 = 0x4#3 then
    if slice w 13 1 = 0x0#1 ∧ slice w 0 7 = 0x0#7 then some (.xpf (slice w 21 4) (slice w 17 4) (slice w 15 2) (slice w 14 1) (slice w 10 3)) else none
  else if slice w 7 3 = 0x5#3 then
    if slice w 10 11 = 0x0#11 ∧ slice w 0 7 = 0x0#7 then some (.xwait (slice w 21 4)) else none
  else if slice w 7 3 = 0x6#3 then
    if slice w 10 5 = 0x0#5 ∧ slice w 0 7 = 0x0#7 then some (.xtest (slice w 21 4) (slice w 15 6)) else none
  else
  none

/-- Major 0x2E (R308, R309). -/
def decMajor2E (w : Nat) : Option Instr :=
  if slice w 6 4 = 0x0#4 then
    if slice w 12 7 = 0x0#7 ∧ slice w 0 6 = 0x0#6 then some (.barr (slice w 19 6) (slice w 10 2)) else none
  else if slice w 6 4 = 0x1#4 then
    if slice w 12 4 = 0x0#4 ∧ slice w 0 6 = 0x0#6 then some (.bwait (slice w 19 6) (slice w 16 3) (slice w 10 2)) else none
  else if slice w 6 4 = 0x2#4 then
    if slice w 12 4 = 0x0#4 ∧ slice w 0 6 = 0x0#6 then some (.btest (slice w 19 6) (slice w 16 3) (slice w 10 2)) else none
  else if slice w 6 4 = 0x3#4 then
    if slice w 16 9 = 0x0#9 ∧ slice w 0 6 = 0x0#6 then some (.wkpost (slice w 12 4) (slice w 10 2)) else none
  else if slice w 6 4 = 0x4#4 then
    if slice w 19 6 = 0x0#6 ∧ slice w 12 4 = 0x0#4 ∧ slice w 0 6 = 0x0#6 then some (.wknext (slice w 16 3) (slice w 10 2)) else none
  else if slice w 6 4 = 0x5#4 then
    if slice w 10 9 = 0x0#9 ∧ slice w 0 6 = 0x0#6 then some (.hwin (slice w 19 6)) else none
  else if slice w 6 4 = 0x6#4 then
    if slice w 10 15 = 0x0#15 ∧ slice w 0 6 = 0x0#6 then some (.swap) else none
  else if slice w 6 4 = 0x7#4 then
    if slice w 10 15 = 0x0#15 ∧ slice w 0 2 = 0x0#2 then some (.pwrq (slice w 2 4)) else none
  else if slice w 6 4 = 0x8#4 then
    if slice w 10 15 = 0x0#15 ∧ slice w 0 6 = 0x0#6 then some (.pwrrel) else none
  else
  none

/-- Major 0x2F (R308, R309). -/
def decMajor2F (w : Nat) : Option Instr :=
  some (.stg (slice w 19 6) (slice w 15 4) (slice w 9 6) (slice w 7 2) (slice w 0 7))

/-- The word's row in the opcode table: its major code, its minor code, its reserved fields (R308, R309). -/
def rowOf (w : Nat) : Option Instr :=
  match (slice w 25 6).toNat with
  | 0x0 => decMajor00 w
  | 0x1 => decMajor01 w
  | 0x2 => decMajor02 w
  | 0x3 => decMajor03 w
  | 0x4 => decMajor04 w
  | 0x5 => decMajor05 w
  | 0x6 => decMajor06 w
  | 0x7 => decMajor07 w
  | 0x8 => decMajor08 w
  | 0x9 => decMajor09 w
  | 0xa => decMajor0A w
  | 0xb => decMajor0B w
  | 0xc => decMajor0C w
  | 0xd => decMajor0D w
  | 0xe => decMajor0E w
  | 0xf => decMajor0F w
  | 0x10 => decMajor10 w
  | 0x11 => decMajor11 w
  | 0x12 => decMajor12 w
  | 0x13 => decMajor13 w
  | 0x14 => decMajor14 w
  | 0x15 => decMajor15 w
  | 0x16 => decMajor16 w
  | 0x17 => decMajor17 w
  | 0x18 => decMajor18 w
  | 0x19 => decMajor19 w
  | 0x1a => decMajor1A w
  | 0x1b => decMajor1B w
  | 0x1c => decMajor1C w
  | 0x1d => decMajor1D w
  | 0x1e => decMajor1E w
  | 0x1f => decMajor1F w
  | 0x20 => decMajor20 w
  | 0x21 => decMajor21 w
  | 0x22 => decMajor22 w
  | 0x23 => decMajor23 w
  | 0x24 => decMajor24 w
  | 0x25 => decMajor25 w
  | 0x26 => decMajor26 w
  | 0x27 => decMajor27 w
  | 0x28 => decMajor28 w
  | 0x29 => decMajor29 w
  | 0x2a => decMajor2A w
  | 0x2b => decMajor2B w
  | 0x2c => decMajor2C w
  | 0x2d => decMajor2D w
  | 0x2e => decMajor2E w
  | 0x2f => decMajor2F w
  | _ => none


/-- Decoding one word (R310): its chain bit and its instruction; none is the fate ILLEGAL. -/
def decodeWord (w : W32) : Option (Bool × Instr) :=
  match rowOf w.toNat with
  | some i => if wellFormed i then some (slice w.toNat 31 1 == 1#1, i) else none
  | none => none

/-- The positions A, B, M (words 0, 1, 2) in which a word with this major, and for MISC this minor,
is allowed (R309). -/
def allowedAt (w : W32) (pos : Nat) : Bool :=
  let m := (slice w.toNat 25 6).toNat
  let fn := (slice w.toNat 0 7).toNat
  if m = 0 then
    if fn ≤ 2 then true else if fn = 4 then pos ≤ 1 else pos = 0
  else if m ≤ 0x0B ∨ (0x15 ≤ m ∧ m ≤ 0x17) then pos ≤ 1
  else if m ≤ 0x14 then pos = 0
  else if m ≤ 0x1F then pos = 1
  else pos = 2

/-- The instruction read from the bits of one word as spec/opcode_table.json numbers them. -/
def decodeTableWord (nbits w : Nat) : Option Instr :=
  if 0 < nbits ∧ nbits ≤ 32 then (decodeWord (BitVec.ofNat 32 (w % 2 ^ nbits))).map Prod.snd else none

/-- The word of an instruction, with chain bit `ch` (R307, R308); an event has none. -/
def encode (ch : BitVec 1) : Instr → Option W32
  | .nop => some (BitVec.ofNat 32 (push ch.toNat 0x0#31))
  | .brkpt k => some (BitVec.ofNat 32 (push (push (push ch.toNat 0x0#6) k) 0x1#7))
  | .syscall k => some (BitVec.ofNat 32 (push (push (push ch.toNat 0x0#6) k) 0x2#7))
  | .eret => some (BitVec.ofNat 32 (push ch.toNat 0x3#31))
  | .ckeq a b => some (BitVec.ofNat 32 (push (push (push (push ch.toNat 0x0#12) a) b) 0x4#7))
  | .sleep => some (BitVec.ofNat 32 (push ch.toNat 0x5#31))
  | .ctxgo d a b => some (BitVec.ofNat 32 (push (push (push (push (push ch.toNat 0x0#6) d) a) b) 0x6#7))
  | .halt => some (BitVec.ofNat 32 (push ch.toNat 0x7#31))
  | .yield => some (BitVec.ofNat 32 (push ch.toNat 0x8#31))
  | .add d a b => some (BitVec.ofNat 32 (push (push (push (push (push ch.toNat 0x1#6) d) a) b) 0x0#7))
  | .sub d a b => some (BitVec.ofNat 32 (push (push (push (push (push ch.toNat 0x1#6) d) a) b) 0x1#7))
  | .and d a b => some (BitVec.ofNat 32 (push (push (push (push (push ch.toNat 0x1#6) d) a) b) 0x2#7))
  | .or d a b => some (BitVec.ofNat 32 (push (push (push (push (push ch.toNat 0x1#6) d) a) b) 0x3#7))
  | .xor d a b => some (BitVec.ofNat 32 (push (push (push (push (push ch.toNat 0x1#6) d) a) b) 0x4#7))
  | .andn d a b => some (BitVec.ofNat 32 (push (push (push (push (push ch.toNat 0x1#6) d) a) b) 0x5#7))
  | .orn d a b => some (BitVec.ofNat 32 (push (push (push (push (push ch.toNat 0x1#6) d) a) b) 0x6#7))
  | .shl d a b => some (BitVec.ofNat 32 (push (push (push (push (push ch.toNat 0x1#6) d) a) b) 0x8#7))
  | .shr d a b => some (BitVec.ofNat 32 (push (push (push (push (push ch.toNat 0x1#6) d) a) b) 0x9#7))
  | .sha d a b => some (BitVec.ofNat 32 (push (push (push (push (push ch.toNat 0x1#6) d) a) b) 0xa#7))
  | .rol d a b => some (BitVec.ofNat 32 (push (push (push (push (push ch.toNat 0x1#6) d) a) b) 0xb#7))
  | .min d a b => some (BitVec.ofNat 32 (push (push (push (push (push ch.toNat 0x1#6) d) a) b) 0x10#7))
  | .max d a b => some (BitVec.ofNat 32 (push (push (push (push (push ch.toNat 0x1#6) d) a) b) 0x11#7))
  | .minz d a b => some (BitVec.ofNat 32 (push (push (push (push (push ch.toNat 0x1#6) d) a) b) 0x12#7))
  | .maxz d a b => some (BitVec.ofNat 32 (push (push (push (push (push ch.toNat 0x1#6) d) a) b) 0x13#7))
  | .mul d a b => some (BitVec.ofNat 32 (push (push (push (push (push ch.toNat 0x1#6) d) a) b) 0x18#7))
  | .mulh d a b => some (BitVec.ofNat 32 (push (push (push (push (push ch.toNat 0x1#6) d) a) b) 0x19#7))
  | .mulhz d a b => some (BitVec.ofNat 32 (push (push (push (push (push ch.toNat 0x1#6) d) a) b) 0x1a#7))
  | .div d a b => some (BitVec.ofNat 32 (push (push (push (push (push ch.toNat 0x1#6) d) a) b) 0x1c#7))
  | .divz d a b => some (BitVec.ofNat 32 (push (push (push (push (push ch.toNat 0x1#6) d) a) b) 0x1d#7))
  | .rem d a b => some (BitVec.ofNat 32 (push (push (push (push (push ch.toNat 0x1#6) d) a) b) 0x1e#7))
  | .remz d a b => some (BitVec.ofNat 32 (push (push (push (push (push ch.toNat 0x1#6) d) a) b) 0x1f#7))
  | .clz d a => some (BitVec.ofNat 32 (push (push (push (push ch.toNat 0x1#6) d) a) 0x20#13))
  | .ctz d a => some (BitVec.ofNat 32 (push (push (push (push ch.toNat 0x1#6) d) a) 0x21#13))
  | .popc d a => some (BitVec.ofNat 32 (push (push (push (push ch.toNat 0x1#6) d) a) 0x22#13))
  | .sextB d a => some (BitVec.ofNat 32 (push (push (push (push ch.toNat 0x1#6) d) a) 0x24#13))
  | .sextH d a => some (BitVec.ofNat 32 (push (push (push (push ch.toNat 0x1#6) d) a) 0x25#13))
  | .sextW d a => some (BitVec.ofNat 32 (push (push (push (push ch.toNat 0x1#6) d) a) 0x26#13))
  | .zextB d a => some (BitVec.ofNat 32 (push (push (push (push ch.toNat 0x1#6) d) a) 0x28#13))
  | .zextH d a => some (BitVec.ofNat 32 (push (push (push (push ch.toNat 0x1#6) d) a) 0x29#13))
  | .zextW d a => some (BitVec.ofNat 32 (push (push (push (push ch.toNat 0x1#6) d) a) 0x2a#13))
  | .bext d a b => some (BitVec.ofNat 32 (push (push (push (push (push ch.toNat 0x1#6) d) a) b) 0x30#7))
  | .bins d a b => some (BitVec.ofNat 32 (push (push (push (push (push ch.toNat 0x1#6) d) a) b) 0x31#7))
  | .addi d a i => some (BitVec.ofNat 32 (push (push (push (push ch.toNat 0x2#6) d) a) i))
  | .andi d a i => some (BitVec.ofNat 32 (push (push (push (push ch.toNat 0x3#6) d) a) i))
  | .ori d a i => some (BitVec.ofNat 32 (push (push (push (push ch.toNat 0x4#6) d) a) i))
  | .xori d a i => some (BitVec.ofNat 32 (push (push (push (push ch.toNat 0x5#6) d) a) i))
  | .shli d a s => some (BitVec.ofNat 32 (push (push (push (push (push ch.toNat 0x6#6) d) a) 0x0#7) s))
  | .shri d a s => some (BitVec.ofNat 32 (push (push (push (push (push ch.toNat 0x6#6) d) a) 0x20#7) s))
  | .shai d a s => some (BitVec.ofNat 32 (push (push (push (push (push ch.toNat 0x6#6) d) a) 0x40#7) s))
  | .roli d a s => some (BitVec.ofNat 32 (push (push (push (push (push ch.toNat 0x6#6) d) a) 0x60#7) s))
  | .limm d i => some (BitVec.ofNat 32 (push (push (push ch.toNat 0x7#6) d) i))
  | .lsh19 d i => some (BitVec.ofNat 32 (push (push (push ch.toNat 0x8#6) d) i))
  | .cmpEq p m a b => some (BitVec.ofNat 32 (push (push (push (push (push (push (push ch.toNat 0x9#6) p) m) 0x0#1) a) b) 0x0#7))
  | .cmpNe p m a b => some (BitVec.ofNat 32 (push (push (push (push (push (push (push ch.toNat 0x9#6) p) m) 0x0#1) a) b) 0x1#7))
  | .cmpLt p m a b => some (BitVec.ofNat 32 (push (push (push (push (push (push (push ch.toNat 0x9#6) p) m) 0x0#1) a) b) 0x2#7))
  | .cmpLtz p m a b => some (BitVec.ofNat 32 (push (push (push (push (push (push (push ch.toNat 0x9#6) p) m) 0x0#1) a) b) 0x3#7))
  | .cmpLe p m a b => some (BitVec.ofNat 32 (push (push (push (push (push (push (push ch.toNat 0x9#6) p) m) 0x0#1) a) b) 0x4#7))
  | .cmpLez p m a b => some (BitVec.ofNat 32 (push (push (push (push (push (push (push ch.toNat 0x9#6) p) m) 0x0#1) a) b) 0x5#7))
  | .cmpiEq p m a i => some (BitVec.ofNat 32 (push (push (push (push (push (push (push ch.toNat 0xa#6) p) m) 0x0#1) a) i) 0x0#3))
  | .cmpiNe p m a i => some (BitVec.ofNat 32 (push (push (push (push (push (push (push ch.toNat 0xa#6) p) m) 0x0#1) a) i) 0x1#3))
  | .cmpiLt p m a i => some (BitVec.ofNat 32 (push (push (push (push (push (push (push ch.toNat 0xa#6) p) m) 0x0#1) a) i) 0x2#3))
  | .cmpiLtz p m a i => some (BitVec.ofNat 32 (push (push (push (push (push (push (push ch.toNat 0xa#6) p) m) 0x0#1) a) i) 0x3#3))
  | .cmpiLe p m a i => some (BitVec.ofNat 32 (push (push (push (push (push (push (push ch.toNat 0xa#6) p) m) 0x0#1) a) i) 0x4#3))
  | .cmpiLez p m a i => some (BitVec.ofNat 32 (push (push (push (push (push (push (push ch.toNat 0xa#6) p) m) 0x0#1) a) i) 0x5#3))
  | .pand d a b y x => some (BitVec.ofNat 32 (push (push (push (push (push (push (push (push (push (push ch.toNat 0x58#9) d) 0x0#3) a) 0x0#3) b) 0x0#1) y) x) 0x0#4))
  | .por d a b y x => some (BitVec.ofNat 32 (push (push (push (push (push (push (push (push (push (push ch.toNat 0x58#9) d) 0x0#3) a) 0x0#3) b) 0x0#1) y) x) 0x1#4))
  | .pxor d a b y x => some (BitVec.ofNat 32 (push (push (push (push (push (push (push (push (push (push ch.toNat 0x58#9) d) 0x0#3) a) 0x0#3) b) 0x0#1) y) x) 0x2#4))
  | .pnot d a => some (BitVec.ofNat 32 (push (push (push (push (push ch.toNat 0x58#9) d) 0x0#3) a) 0x3#13))
  | .pmov d a => some (BitVec.ofNat 32 (push (push (push (push (push ch.toNat 0x58#9) d) 0x0#3) a) 0x4#13))
  | .sel d a b q => some (BitVec.ofNat 32 (push (push (push (push (push (push ch.toNat 0xb#6) d) a) b) q) 0x5#4))
  | .ptog d a => some (BitVec.ofNat 32 (push (push (push (push (push ch.toNat 0xb#6) d) 0x0#3) a) 0x6#13))
  | .pfromg d a => some (BitVec.ofNat 32 (push (push (push (push ch.toNat 0x58#9) d) a) 0x7#13))
  | .br p n o => some (BitVec.ofNat 32 (push (push (push (push ch.toNat 0xc#6) p) n) o))
  | .brm k n o => some (BitVec.ofNat 32 (push (push (push (push ch.toNat 0xd#6) k) n) o))
  | .jmp o => some (BitVec.ofNat 32 (push (push ch.toNat 0x380#12) o))
  | .call d o => some (BitVec.ofNat 32 (push (push (push ch.toNat 0xe#6) d) o))
  | .jr a => some (BitVec.ofNat 32 (push (push (push ch.toNat 0x3c0#12) a) 0x0#13))
  | .callr d a => some (BitVec.ofNat 32 (push (push (push (push ch.toNat 0xf#6) d) a) 0x1#13))
  | .ret a => some (BitVec.ofNat 32 (push (push (push ch.toNat 0x3c0#12) a) 0x2#13))
  | .loopn a s l => some (BitVec.ofNat 32 (push (push (push (push (push (push ch.toNat 0x10#6) a) 0x0#1) s) l) 0x0#2))
  | .loopnFz a l => some (BitVec.ofNat 32 (push (push (push (push (push ch.toNat 0x10#6) a) 0x400#11) l) 0x0#2))
  | .brg a b o => some (BitVec.ofNat 32 (push (push (push (push ch.toNat 0x11#6) a) b) o))
  | .cnarw d a b => some (BitVec.ofNat 32 (push (push (push (push (push (push ch.toNat 0x48#8) d) 0x0#2) a) b) 0x0#7))
  | .cadv d a b => some (BitVec.ofNat 32 (push (push (push (push (push (push ch.toNat 0x48#8) d) 0x0#2) a) b) 0x1#7))
  | .cseek d a b => some (BitVec.ofNat 32 (push (push (push (push (push (push ch.toNat 0x48#8) d) 0x0#2) a) b) 0x2#7))
  | .cdrop d a b => some (BitVec.ofNat 32 (push (push (push (push (push (push ch.toNat 0x48#8) d) 0x0#2) a) b) 0x3#7))
  | .cvoid d a => some (BitVec.ofNat 32 (push (push (push (push (push ch.toNat 0x48#8) d) 0x0#2) a) 0x4#13))
  | .ccopy d a => some (BitVec.ofNat 32 (push (push (push (push (push ch.toNat 0x48#8) d) 0x0#2) a) 0x5#13))
  | .crdlo d a => some (BitVec.ofNat 32 (push (push (push (push (push ch.toNat 0x12#6) d) 0x0#2) a) 0x8#13))
  | .crdsz d a => some (BitVec.ofNat 32 (push (push (push (push (push ch.toNat 0x12#6) d) 0x0#2) a) 0x9#13))
  | .crdcu d a => some (BitVec.ofNat 32 (push (push (push (push (push ch.toNat 0x12#6) d) 0x0#2) a) 0xa#13))
  | .crdpm d a => some (BitVec.ofNat 32 (push (push (push (push (push ch.toNat 0x12#6) d) 0x0#2) a) 0xb#13))
  | .crdsp d a => some (BitVec.ofNat 32 (push (push (push (push (push ch.toNat 0x12#6) d) 0x0#2) a) 0xc#13))
  | .crdvt d a => some (BitVec.ofNat 32 (push (push (push (push (push ch.toNat 0x12#6) d) 0x0#2) a) 0xd#13))
  | .cdist d a b => some (BitVec.ofNat 32 (push (push (push (push (push (push (push ch.toNat 0x12#6) d) 0x0#2) a) 0x0#2) b) 0xe#7))
  | .cadvi d a i => some (BitVec.ofNat 32 (push (push (push (push (push ch.toNat 0x4c#8) d) 0x0#2) a) i))
  | .mfc g r => some (BitVec.ofNat 32 (push (push (push (push ch.toNat 0x14#6) g) r) 0x0#7))
  | .mtc g r => some (BitVec.ofNat 32 (push (push (push (push ch.toNat 0x14#6) g) r) 0x1#7))
  | .msc g r => some (BitVec.ofNat 32 (push (push (push (push ch.toNat 0x14#6) g) r) 0x2#7))
  | .mcc g r => some (BitVec.ofNat 32 (push (push (push (push ch.toNat 0x14#6) g) r) 0x3#7))
  | .spl g s => some (BitVec.ofNat 32 (push (push (push (push ch.toNat 0x15#6) g) 0x0#9) s))
  | .sps g s => some (BitVec.ofNat 32 (push (push (push (push ch.toNat 0x16#6) g) 0x0#9) s))
  | .splv v s => some (BitVec.ofNat 32 (push (push (push (push ch.toNat 0x2e#7) v) 0x0#9) s))
  | .spsv v s => some (BitVec.ofNat 32 (push (push (push (push ch.toNat 0x2e#7) v) 0x1#9) s))
  | .splc x s => some (BitVec.ofNat 32 (push (push (push (push ch.toNat 0x5c#8) x) 0x2#9) s))
  | .spsc x s => some (BitVec.ofNat 32 (push (push (push (push ch.toNat 0x5c#8) x) 0x3#9) s))
  | .vadd d a b k => some (BitVec.ofNat 32 (push (push (push (push (push (push ch.toNat 0x18#6) d) a) b) k) 0x0#7))
  | .vsub d a b k => some (BitVec.ofNat 32 (push (push (push (push (push (push ch.toNat 0x18#6) d) a) b) k) 0x1#7))
  | .vmul d a b k => some (BitVec.ofNat 32 (push (push (push (push (push (push ch.toNat 0x18#6) d) a) b) k) 0x2#7))
  | .vmulh d a b k z => some (BitVec.ofNat 32 (push (push (push (push (push (push (push ch.toNat 0x18#6) d) a) b) k) z) 0x3#6))
  | .vmin d a b k z => some (BitVec.ofNat 32 (push (push (push (push (push (push (push ch.toNat 0x18#6) d) a) b) k) z) 0x4#6))
  | .vmax d a b k z => some (BitVec.ofNat 32 (push (push (push (push (push (push (push ch.toNat 0x18#6) d) a) b) k) z) 0x5#6))
  | .vabs d a k => some (BitVec.ofNat 32 (push (push (push (push (push (push ch.toNat 0x18#6) d) a) 0x0#5) k) 0x6#7))
  | .vneg d a k => some (BitVec.ofNat 32 (push (push (push (push (push (push ch.toNat 0x18#6) d) a) 0x0#5) k) 0x7#7))
  | .vand d a b k => some (BitVec.ofNat 32 (push (push (push (push (push (push ch.toNat 0x18#6) d) a) b) k) 0x8#7))
  | .vor d a b k => some (BitVec.ofNat 32 (push (push (push (push (push (push ch.toNat 0x18#6) d) a) b) k) 0x9#7))
  | .vxor d a b k => some (BitVec.ofNat 32 (push (push (push (push (push (push ch.toNat 0x18#6) d) a) b) k) 0xa#7))
  | .vshl d a b k => some (BitVec.ofNat 32 (push (push (push (push (push (push ch.toNat 0x18#6) d) a) b) k) 0xb#7))
  | .vshr d a b k => some (BitVec.ofNat 32 (push (push (push (push (push (push ch.toNat 0x18#6) d) a) b) k) 0xc#7))
  | .vsha d a b k => some (BitVec.ofNat 32 (push (push (push (push (push (push ch.toNat 0x18#6) d) a) b) k) 0xd#7))
  | .vclmul d a b k => some (BitVec.ofNat 32 (push (push (push (push (push (push ch.toNat 0x18#6) d) a) b) k) 0xe#7))
  | .vclmulh d a b k => some (BitVec.ofNat 32 (push (push (push (push (push (push ch.toNat 0x18#6) d) a) b) k) 0xf#7))
  | .vpopc d a k => some (BitVec.ofNat 32 (push (push (push (push (push (push ch.toNat 0x18#6) d) a) 0x0#5) k) 0x10#7))
  | .fadd d a b k t i u => some (BitVec.ofNat 32 (push (push (push (push (push (push (push (push (push ch.toNat 0x19#6) d) a) b) k) t) i) u) 0x0#3))
  | .fsub d a b k t i u => some (BitVec.ofNat 32 (push (push (push (push (push (push (push (push (push ch.toNat 0x19#6) d) a) b) k) t) i) u) 0x1#3))
  | .fmul d a b k t i u => some (BitVec.ofNat 32 (push (push (push (push (push (push (push (push (push ch.toNat 0x19#6) d) a) b) k) t) i) u) 0x2#3))
  | .fmin d a b k t i u => some (BitVec.ofNat 32 (push (push (push (push (push (push (push (push (push ch.toNat 0x19#6) d) a) b) k) t) i) u) 0x3#3))
  | .fmax d a b k t i u => some (BitVec.ofNat 32 (push (push (push (push (push (push (push (push (push ch.toNat 0x19#6) d) a) b) k) t) i) u) 0x4#3))
  | .fabs d a k t => some (BitVec.ofNat 32 (push (push (push (push (push (push (push ch.toNat 0x1a#6) d) a) 0x0#5) k) t) 0x0#5))
  | .fneg d a k t => some (BitVec.ofNat 32 (push (push (push (push (push (push (push ch.toNat 0x1a#6) d) a) 0x0#5) k) t) 0x1#5))
  | .fclass d a k t => some (BitVec.ofNat 32 (push (push (push (push (push (push (push ch.toNat 0x1a#6) d) a) 0x0#5) k) t) 0x2#5))
  | .vfma d a b k t i u => some (BitVec.ofNat 32 (push (push (push (push (push (push (push (push (push ch.toNat 0x1b#6) d) a) b) k) t) i) u) 0x0#3))
  | .vfms d a b k t i u => some (BitVec.ofNat 32 (push (push (push (push (push (push (push (push (push ch.toNat 0x1b#6) d) a) b) k) t) i) u) 0x1#3))
  | .vfnma d a b k t i u => some (BitVec.ofNat 32 (push (push (push (push (push (push (push (push (push ch.toNat 0x1b#6) d) a) b) k) t) i) u) 0x2#3))
  | .vcmpEq d a b k t => some (BitVec.ofNat 32 (push (push (push (push (push (push (push (push ch.toNat 0x1c#6) d) 0x0#2) a) b) k) t) 0x0#4))
  | .vcmpNe d a b k t => some (BitVec.ofNat 32 (push (push (push (push (push (push (push (push ch.toNat 0x1c#6) d) 0x0#2) a) b) k) t) 0x1#4))
  | .vcmpLt d a b k t => some (BitVec.ofNat 32 (push (push (push (push (push (push (push (push ch.toNat 0x1c#6) d) 0x0#2) a) b) k) t) 0x2#4))
  | .vcmpLe d a b k t => some (BitVec.ofNat 32 (push (push (push (push (push (push (push (push ch.toNat 0x1c#6) d) 0x0#2) a) b) k) t) 0x3#4))
  | .vcmpUnord d a b k t => some (BitVec.ofNat 32 (push (push (push (push (push (push (push (push ch.toNat 0x1c#6) d) 0x0#2) a) b) k) t) 0x4#4))
  | .vsel d a b k => some (BitVec.ofNat 32 (push (push (push (push (push (push ch.toNat 0x1d#6) d) a) b) k) 0x0#7))
  | .vperm d a b k => some (BitVec.ofNat 32 (push (push (push (push (push (push ch.toNat 0x1d#6) d) a) b) k) 0x1#7))
  | .vbcast d a k => some (BitVec.ofNat 32 (push (push (push (push (push (push ch.toNat 0x1d#6) d) a) 0x0#5) k) 0x2#7))
  | .vext d a b => some (BitVec.ofNat 32 (push (push (push (push (push ch.toNat 0x1d#6) d) a) b) 0x3#10))
  | .vins d a b => some (BitVec.ofNat 32 (push (push (push (push (push ch.toNat 0x1d#6) d) a) b) 0x4#10))
  | .vredAdd d a t k => some (BitVec.ofNat 32 (push (push (push (push (push (push (push ch.toNat 0x1d#6) d) a) 0x0#3) t) k) 0x5#7))
  | .vredMin d a t k => some (BitVec.ofNat 32 (push (push (push (push (push (push (push ch.toNat 0x1d#6) d) a) 0x1#3) t) k) 0x5#7))
  | .vredMax d a t k => some (BitVec.ofNat 32 (push (push (push (push (push (push (push ch.toNat 0x1d#6) d) a) 0x2#3) t) k) 0x5#7))
  | .vredAnd d a t k => some (BitVec.ofNat 32 (push (push (push (push (push (push (push ch.toNat 0x1d#6) d) a) 0x3#3) t) k) 0x5#7))
  | .vredOr d a t k => some (BitVec.ofNat 32 (push (push (push (push (push (push (push ch.toNat 0x1d#6) d) a) 0x4#3) t) k) 0x5#7))
  | .vredXor d a t k => some (BitVec.ofNat 32 (push (push (push (push (push (push (push ch.toNat 0x1d#6) d) a) 0x5#3) t) k) 0x5#7))
  | .viota d k => some (BitVec.ofNat 32 (push (push (push (push (push ch.toNat 0x1d#6) d) 0x0#10) k) 0x6#7))
  | .kand d a b => some (BitVec.ofNat 32 (push (push (push (push (push (push (push ch.toNat 0x74#8) d) 0x0#2) a) 0x0#2) b) 0x8#10))
  | .kor d a b => some (BitVec.ofNat 32 (push (push (push (push (push (push (push ch.toNat 0x74#8) d) 0x0#2) a) 0x0#2) b) 0x9#10))
  | .kxor d a b => some (BitVec.ofNat 32 (push (push (push (push (push (push (push ch.toNat 0x74#8) d) 0x0#2) a) 0x0#2) b) 0xa#10))
  | .knot d a => some (BitVec.ofNat 32 (push (push (push (push (push ch.toNat 0x74#8) d) 0x0#2) a) 0xb#15))
  | .kpop d a => some (BitVec.ofNat 32 (push (push (push (push (push ch.toNat 0x1d#6) d) 0x0#2) a) 0xc#15))
  | .kfromg d a => some (BitVec.ofNat 32 (push (push (push (push ch.toNat 0x74#8) d) a) 0xd#15))
  | .vcvt d a t s r x i u => some (BitVec.ofNat 32 (push (push (push (push (push (push (push (push (push (push ch.toNat 0x1e#6) d) a) t) s) r) x) i) u) 0x0#1))
  | .vexp2 d a k => some (BitVec.ofNat 32 (push (push (push (push (push (push ch.toNat 0x1f#6) d) a) 0x0#5) k) 0x0#7))
  | .vlog2 d a k => some (BitVec.ofNat 32 (push (push (push (push (push (push ch.toNat 0x1f#6) d) a) 0x0#5) k) 0x1#7))
  | .vrcp d a k => some (BitVec.ofNat 32 (push (push (push (push (push (push ch.toNat 0x1f#6) d) a) 0x0#5) k) 0x2#7))
  | .vrsq d a k => some (BitVec.ofNat 32 (push (push (push (push (push (push ch.toNat 0x1f#6) d) a) 0x0#5) k) 0x3#7))
  | .vtanh d a k => some (BitVec.ofNat 32 (push (push (push (push (push (push ch.toNat 0x1f#6) d) a) 0x0#5) k) 0x4#7))
  | .vsig d a k => some (BitVec.ofNat 32 (push (push (push (push (push (push ch.toNat 0x1f#6) d) a) 0x0#5) k) 0x5#7))
  | .ldS8 g c o => some (BitVec.ofNat 32 (push (push (push (push (push ch.toNat 0x20#6) g) c) 0x0#3) o))
  | .ldS16 g c o => some (BitVec.ofNat 32 (push (push (push (push (push ch.toNat 0x20#6) g) c) 0x1#3) o))
  | .ldS32 g c o => some (BitVec.ofNat 32 (push (push (push (push (push ch.toNat 0x20#6) g) c) 0x2#3) o))
  | .ldS64 g c o => some (BitVec.ofNat 32 (push (push (push (push (push ch.toNat 0x20#6) g) c) 0x3#3) o))
  | .ldZ8 g c o => some (BitVec.ofNat 32 (push (push (push (push (push ch.toNat 0x20#6) g) c) 0x4#3) o))
  | .ldZ16 g c o => some (BitVec.ofNat 32 (push (push (push (push (push ch.toNat 0x20#6) g) c) 0x5#3) o))
  | .ldZ32 g c o => some (BitVec.ofNat 32 (push (push (push (push (push ch.toNat 0x20#6) g) c) 0x6#3) o))
  | .ldAcq g c s w o => some (BitVec.ofNat 32 (push (push (push (push (push (push (push (push ch.toNat 0x20#6) g) c) 0x7#3) s) w) 0x0#1) o))
  | .stS8 g c o => some (BitVec.ofNat 32 (push (push (push (push (push ch.toNat 0x21#6) g) c) 0x0#3) o))
  | .stS16 g c o => some (BitVec.ofNat 32 (push (push (push (push (push ch.toNat 0x21#6) g) c) 0x1#3) o))
  | .stS32 g c o => some (BitVec.ofNat 32 (push (push (push (push (push ch.toNat 0x21#6) g) c) 0x2#3) o))
  | .stS64 g c o => some (BitVec.ofNat 32 (push (push (push (push (push ch.toNat 0x21#6) g) c) 0x3#3) o))
  | .stRel g c s w o => some (BitVec.ofNat 32 (push (push (push (push (push (push (push (push ch.toNat 0x21#6) g) c) 0x7#3) s) w) 0x0#1) o))
  | .ldv v c k o => some (BitVec.ofNat 32 (push (push (push (push (push ch.toNat 0x44#7) v) c) k) o))
  | .stv v c k o => some (BitVec.ofNat 32 (push (push (push (push (push ch.toNat 0x46#7) v) c) k) o))
  | .ldvg d c a k s => some (BitVec.ofNat 32 (push (push (push (push (push (push (push ch.toNat 0x24#6) d) c) a) k) s) 0x0#6))
  | .stvs d c a k s => some (BitVec.ofNat 32 (push (push (push (push (push (push (push ch.toNat 0x25#6) d) c) a) k) s) 0x0#6))
  | .ldc d c o => some (BitVec.ofNat 32 (push (push (push (push (push ch.toNat 0x98#8) d) c) 0x0#3) o))
  | .stc d c o => some (BitVec.ofNat 32 (push (push (push (push (push ch.toNat 0x98#8) d) c) 0x1#3) o))
  | .aadd d c b w a l s => some (BitVec.ofNat 32 (push (push (push (push (push (push (push (push (push ch.toNat 0x27#6) d) c) b) 0x0#4) w) a) l) s))
  | .aand d c b w a l s => some (BitVec.ofNat 32 (push (push (push (push (push (push (push (push (push ch.toNat 0x27#6) d) c) b) 0x1#4) w) a) l) s))
  | .aor d c b w a l s => some (BitVec.ofNat 32 (push (push (push (push (push (push (push (push (push ch.toNat 0x27#6) d) c) b) 0x2#4) w) a) l) s))
  | .axor d c b w a l s => some (BitVec.ofNat 32 (push (push (push (push (push (push (push (push (push ch.toNat 0x27#6) d) c) b) 0x3#4) w) a) l) s))
  | .amin d c b w a l s => some (BitVec.ofNat 32 (push (push (push (push (push (push (push (push (push ch.toNat 0x27#6) d) c) b) 0x4#4) w) a) l) s))
  | .amax d c b w a l s => some (BitVec.ofNat 32 (push (push (push (push (push (push (push (push (push ch.toNat 0x27#6) d) c) b) 0x5#4) w) a) l) s))
  | .aminz d c b w a l s => some (BitVec.ofNat 32 (push (push (push (push (push (push (push (push (push ch.toNat 0x27#6) d) c) b) 0x6#4) w) a) l) s))
  | .amaxz d c b w a l s => some (BitVec.ofNat 32 (push (push (push (push (push (push (push (push (push ch.toNat 0x27#6) d) c) b) 0x7#4) w) a) l) s))
  | .aswp d c b w a l s => some (BitVec.ofNat 32 (push (push (push (push (push (push (push (push (push ch.toNat 0x27#6) d) c) b) 0x8#4) w) a) l) s))
  | .acas d c b w a l s => some (BitVec.ofNat 32 (push (push (push (push (push (push (push (push (push ch.toNat 0x27#6) d) c) b) 0x9#4) w) a) l) s))
  | .tld t c r a l s => some (BitVec.ofNat 32 (push (push (push (push (push (push (push (push (push ch.toNat 0x28#6) t) c) 0x0#3) r) a) l) s) 0x0#5))
  | .tst t c r a l s => some (BitVec.ofNat 32 (push (push (push (push (push (push (push (push (push ch.toNat 0x28#6) t) c) 0x1#3) r) a) l) s) 0x0#5))
  | .tzero t => some (BitVec.ofNat 32 (push (push (push ch.toNat 0x28#6) t) 0x10000#22))
  | .tzeroInv t => some (BitVec.ofNat 32 (push (push (push ch.toNat 0x28#6) t) 0x14000#22))
  | .tmov t s => some (BitVec.ofNat 32 (push (push (push (push (push ch.toNat 0x28#6) t) 0x3#7) s) 0x0#12))
  | .tldv t v r b => some (BitVec.ofNat 32 (push (push (push (push (push (push (push ch.toNat 0x28#6) t) 0x4#7) v) r) b) 0x0#2))
  | .tstv t v r b => some (BitVec.ofNat 32 (push (push (push (push (push (push (push ch.toNat 0x28#6) t) 0x5#7) v) r) b) 0x0#2))
  | .tstat t g => some (BitVec.ofNat 32 (push (push (push (push (push ch.toNat 0x28#6) t) 0x6#7) g) 0x0#9))
  | .mma t c f r s b z l => some (BitVec.ofNat 32 (push (push (push (push (push (push (push (push (push (push ch.toNat 0x29#6) t) c) 0x0#4) f) r) s) b) z) l))
  | .mmas t c f r s b z l => some (BitVec.ofNat 32 (push (push (push (push (push (push (push (push (push (push ch.toNat 0x29#6) t) c) 0x1#4) f) r) s) b) z) l))
  | .mldb c f b i => some (BitVec.ofNat 32 (push (push (push (push (push (push (push ch.toNat 0x148#9) c) 0x2#4) f) b) i) 0x0#9))
  | .mgo s => some (BitVec.ofNat 32 (push (push (push ch.toNat 0x52#7) s) 0xc000#22))
  | .mgoCo s => some (BitVec.ofNat 32 (push (push (push ch.toNat 0x52#7) s) 0xe000#22))
  | .mpause => some (BitVec.ofNat 32 (push ch.toNat 0x52010000#31))
  | .mresume => some (BitVec.ofNat 32 (push ch.toNat 0x52014000#31))
  | .mwait => some (BitVec.ofNat 32 (push ch.toNat 0x52018000#31))
  | .mwaitNest s => some (BitVec.ofNat 32 (push (push (push ch.toNat 0x52#7) s) 0x1a000#22))
  | .mwake b => some (BitVec.ofNat 32 (push (push (push ch.toNat 0x14807#17) b) 0x0#10))
  | .mshape b => some (BitVec.ofNat 32 (push (push (push ch.toNat 0x14808#17) b) 0x0#10))
  | .mfid l r => some (BitVec.ofNat 32 (push (push (push (push ch.toNat 0x14809#17) l) r) 0x0#10))
  | .mrep n a b d => some (BitVec.ofNat 32 (push (push (push (push (push ch.toNat 0x2a#6) n) a) b) d))
  | .scacc d c p r i u => some (BitVec.ofNat 32 (push (push (push (push (push (push (push (push ch.toNat 0x2b#6) d) c) p) r) i) u) 0x0#8))
  | .send g h c a l s => some (BitVec.ofNat 32 (push (push (push (push (push (push (push (push (push ch.toNat 0x2c#6) g) h) c) 0x0#3) a) l) s) 0x0#1))
  | .sendt g h a l s => some (BitVec.ofNat 32 (push (push (push (push (push (push (push (push ch.toNat 0x2c#6) g) h) 0x1#7) a) l) s) 0x0#1))
  | .recv g h => some (BitVec.ofNat 32 (push (push (push (push ch.toNat 0x2c#6) g) h) 0x80#13))
  | .chwait h => some (BitVec.ofNat 32 (push (push (push ch.toNat 0xb00#12) h) 0xc0#13))
  | .charm g h => some (BitVec.ofNat 32 (push (push (push (push ch.toNat 0x2c#6) g) h) 0x100#13))
  | .chstat g h => some (BitVec.ofNat 32 (push (push (push (push ch.toNat 0x2c#6) g) h) 0x140#13))
  | .xld t c slot a l sc p => some (BitVec.ofNat 32 (push (push (push (push (push (push (push (push (push (push ch.toNat 0x2d#6) t) c) slot) a) l) sc) 0x0#3) p) 0x0#6))
  | .xst t c slot a l sc => some (BitVec.ofNat 32 (push (push (push (push (push (push (push (push ch.toNat 0x2d#6) t) c) slot) a) l) sc) 0x80#10))
  | .xred t c slot a l sc o n m => some (BitVec.ofNat 32 (push (push (push (push (push (push (push (push (push (push (push ch.toNat 0x2d#6) t) c) slot) a) l) sc) 0x2#3) o) n) m))
  | .xatom t c slot a l sc f w => some (BitVec.ofNat 32 (push (push (push (push (push (push (push (push (push (push (push ch.toNat 0x2d#6) t) c) slot) a) l) sc) 0x3#3) f) w) 0x0#2))
  | .xpf t c slot a sc => some (BitVec.ofNat 32 (push (push (push (push (push (push (push (push ch.toNat 0x2d#6) t) c) slot) a) 0x0#1) sc) 0x200#10))
  | .xwait t => some (BitVec.ofNat 32 (push (push (push ch.toNat 0x2d#6) t) 0x280#21))
  | .xtest t d => some (BitVec.ofNat 32 (push (push (push (push ch.toNat 0x2d#6) t) d) 0x300#15))
  | .barr g w => some (BitVec.ofNat 32 (push (push (push (push (push ch.toNat 0x2e#6) g) 0x0#7) w) 0x0#10))
  | .bwait g p w => some (BitVec.ofNat 32 (push (push (push (push (push (push ch.toNat 0x2e#6) g) p) 0x0#4) w) 0x40#10))
  | .btest g p w => some (BitVec.ofNat 32 (push (push (push (push (push (push ch.toNat 0x2e#6) g) p) 0x0#4) w) 0x80#10))
  | .wkpost c w => some (BitVec.ofNat 32 (push (push (push (push ch.toNat 0x5c00#15) c) w) 0xc0#10))
  | .wknext p w => some (BitVec.ofNat 32 (push (push (push (push (push ch.toNat 0xb80#12) p) 0x0#4) w) 0x100#10))
  | .hwin g => some (BitVec.ofNat 32 (push (push (push ch.toNat 0x2e#6) g) 0x140#19))
  | .swap => some (BitVec.ofNat 32 (push ch.toNat 0x5c000180#31))
  | .pwrq k => some (BitVec.ofNat 32 (push (push (push ch.toNat 0x1700007#25) k) 0x0#2))
  | .pwrrel => some (BitVec.ofNat 32 (push ch.toNat 0x5c000200#31))
  | .stg a c b s o => some (BitVec.ofNat 32 (push (push (push (push (push (push ch.toNat 0x2f#6) a) c) b) s) o))
  | .powerUp => none
  | .powerDown => none
  | .converterFail => none
  | .flowLow => none
  | .flowRestored => none
  | .thermalStepUp _ => none
  | .thermalStepDown _ => none
  | .fieldTrip _ => none
  | .droopAlarm _ => none
  | .droopEnd _ => none
  | .measurementUpdate _ => none
  | .graftRequest _ => none
  | .graftQueuedStart _ => none
  | .graftTileStopped _ => none
  | .graftDrained _ => none
  | .graftCopyDone _ _ => none
  | .graftMapSwitch _ => none
  | .fullRemap => none
  | .linkFail _ _ => none
  | .routerForward _ => none
  | .linkFlitReceive _ _ => none
  | .nakReceive _ _ => none
  | .idleSend _ => none
  | .allowReceive _ _ _ => none
  | .wavelengthFail _ _ _ => none
  | .narrowReceive _ _ => none
  | .narrowRestriped _ => none
  | .resumeReceive _ _ => none
  | .narrowTimeout _ => none
  | .laserWindow _ _ => none
  | .portDarkTimeout _ => none
  | .portWake _ => none
  | .bringupDone _ _ _ _ _ _ => none
  | .peerRequestArrival _ _ => none
  | .peerAnswerReturn _ _ _ _ => none
  | .reconfDrained _ => none
  | .reconfDrainTimeout _ => none
  | .reconfRelock _ _ _ => none
  | .lightTimeout _ => none
  | .heldPacketTimeout _ => none
  | .blockIssue _ => none
  | .ticketIdleReturn _ => none
  | .sequencerRecall _ _ => none
  | .recallAnswer _ => none
  | .ackFlitSend _ => none
  | .ackReceive _ => none
  | .stablePost _ => none
  | .trellisBroadcast => none
  | .gUpdate _ => none
  | .overflowReturn _ => none
  | .causalStall _ => none
  | .fieldRemoval _ => none
  | .vintageResync => none
  | .channelPayloadArrival _ => none
  | .payloadFullyWritten _ _ => none
  | .windowReturnSend _ _ => none
  | .windowReturnReceive _ => none
  | .cellarRequest _ => none
  | .tlbHomeQuery _ => none
  | .walkDone _ => none
  | .forwardResponse _ => none
  | .externalResponse _ => none
  | .lineRequestEmit _ => none
  | .stampWaitRelease _ => none
  | .cqEntry _ => none
  | .counterWriteback _ => none
  | .counterDecay _ => none
  | .rackCommand _ _ => none
  | .rackCopyDone _ _ => none
  | .rackSwitchDone _ _ => none
  | .rackAbort _ _ => none
  | .memRackdoneRead _ => none
  | .shootdown _ _ => none
  | .shootdownInvalidate _ _ => none
  | .shootdownAck _ _ => none
  | .stackRetire _ => none
  | .registerWrite _ _ _ => none
  | .bar2Write _ _ _ _ => none
  | .bar2Read _ _ _ => none
  | .bar2Atomicop _ => none
  | .hostIngressEntry _ => none
  | .postedQueueTimeout _ => none
  | .bar4Read _ _ _ => none
  | .bar4Write _ _ _ _ => none
  | .bar4Atomicop _ _ _ _ _ _ => none
  | .hostCompletion _ _ => none
  | .hostCompletionTimeout _ => none
  | .ctrlAccess => none
  | .linkTrain _ _ _ => none
  | .linkDown _ => none
  | .claim _ => none
  | .unclaim _ => none
  | .plotCreate _ _ _ _ _ _ _ => none
  | .plotLoad _ _ _ _ => none
  | .plotStart _ _ => none
  | .plotStatus _ _ => none
  | .plotRetire _ _ => none
  | .remap _ => none
  | .resync _ => none
  | .fieldClear _ _ _ => none
  | .portRestart _ _ => none
  | .switchReconf _ _ _ => none
  | .switchReconfSecond _ _ _ => none
  | .setCreate _ _ _ _ => none
  | .setDelete _ _ => none
  | .redwWrite _ _ _ => none
  | .peerwinWrite _ _ _ => none
  | .mapQuery _ _ _ => none
  | .waferId _ _ => none
  | .peerWrite _ _ _ => none
  | .stackRoot _ _ _ => none
  | .setRoot _ _ _ => none
  | .physCopy _ _ _ _ _ _ => none
  | .agentQuery _ _ _ => none
  | .fwStage _ _ => none
  | .badMailboxCommand _ _ => none
  | .getVersion => none
  | .getCapabilities => none
  | .negotiateAlgorithms => none
  | .getDigests => none
  | .getCertificate _ _ _ => none
  | .challenge _ _ => none
  | .getMeasurements _ _ _ => none
  | .chunkSend _ _ => none
  | .chunkGet _ => none
  | .spdmUnsupported _ => none
  | .sliceExpiry _ => none
  | .preemption _ => none
  | .restore _ => none
  | .plotCompletion _ => none
  | .barrierComplete _ _ => none
  | .walkerHandoff _ _ => none
  | .fieldGrantServe _ => none
  | .powerGrant _ => none
  | .monitorOverrun _ _ => none
  | .throttleEnd _ => none
  | .bandGate _ _ => none
  | .bandWakeAdmit _ => none
  | .bandWakeDone _ _ => none
  | .ballast _ _ => none
  | .sliceRailFault _ _ => none
  | .timingReplay _ => none
  | .rasWindowExpiry _ => none
  | .scrub _ => none
  | .imemUncorrectable _ _ => none
  | .trapEntry _ _ _ _ => none
  | .asyncTrapTake _ _ => none
  | .timerExpiry _ _ => none
  | .loopBack _ _ => none
  | .rngAppend _ => none
  | .poisonRollback _ => none
  | .rngSeedWrite _ _ => none
  | .chnCfgWrite _ _ _ => none
  | .cauVecWrite _ _ _ => none
  | .passCfgWrite _ _ => none
  | .rasThreshWrite _ _ => none
  | .matFinjWrite _ _ => none
  | .matFidWrite _ _ _ => none
  | .matNestWrite _ _ _ _ => none
  | .matrixOpStart _ => none
  | .matrixRowEnd _ => none
  | .matrixOpComplete _ => none
  | .mldbComplete _ => none
  | .transferComplete _ => none
  | .illegalWord _ _ => none
  | .packetFetchFault _ _ => none
  | .sliceRailFaultEnd _ _ => none
  | .atomicopRequesterEnable _ _ => none

end Sys2Proof
end

