-- ==== Sys2Proof/Machine/Fetch.lean ====
section
/-! DEFINITION. Fetching a packet and dividing it into issue groups (R199 to R201), its ILLEGAL check
(R200, R310), suppression by the loop buffer (R224) and substitution by MREP (R398, R399). -/

namespace Sys2Proof.Machine

open Host Sys2Proof

/-- The highest packet index (R199). -/
def lastPacket : Nat := 10921

/-- Word i of packet p: byte 12p + 4i, little-endian (R199). -/
def Tile.imemWord (T : Tile) (p i : Nat) : W32 := BitVec.ofNat 32 (readBytes T.imem (12 * p + 4 * i) 4)

def Tile.packet (T : Tile) (p : Nat) : List W32 := [T.imemWord p 0, T.imemWord p 1, T.imemWord p 2]

/-- A 64-bit instruction-memory word of the packet reads uncorrectable, so the packet cannot issue (R300). -/
def Tile.packetBad (T : Tile) (p : Nat) : Bool :=
  (units 8 (12 * p) 12).any (fun w => T.imemBad.contains w)

/-- The chain bit of a word (R200). -/
def chained (w : W32) : Bool := w.getLsbD 31

/-- The last word of the issue group that begins at word `first` (R201). -/
def groupLast (ws : List W32) (first : Nat) : Nat :=
  let c0 := chained (ws.getD 0 0)
  let c1 := chained (ws.getD 1 0)
  if first = 0 then (if c0 then (if c1 then 2 else 1) else 0)
  else if first = 1 then (if c1 then 2 else 1)
  else 2

/-- A word that passes the check of R200 and R310 at its position: its instruction. -/
def decodeAt (w : W32) (pos : Nat) : Option Instr :=
  match decodeWord w with
  | some (c, i) => if allowedAt w pos && !(c && pos == 2) then some i else none
  | none => none

/-- A word as it issues: its position, the word, its instruction, what st0 adds to its address operand, and
whether it is an issue of the repeat state. -/
structure Issued where
  pos : Nat
  raw : W32
  instr : Instr
  addrOff : Nat := 0
  rep : Bool := false
  /-- the repeat state refuses the packet's word 2 (R398, R399) -/
  bad : Bool := false
deriving DecidableEq, Repr

/-- Which word of the packet is ILLEGAL first: none when the packet passes the check, which covers the whole packet before any
word issues, the words that the loop buffer suppresses among them (R200; DEDUCED, log 57: R224 has a suppressed word raise
nothing, which is read of the word's own checks at its issue). -/
def illegalWord (ws : List W32) : Option (Nat × W32) :=
  ((List.range 3).find? (fun w => (decodeAt (ws.getD w 0) w).isNone)).map (fun w => (w, ws.getD w 0))

/-! ### MREP (R398, R399) -/

/-- Field t := (t + m × st) mod 8. -/
def stepReg (t : BitVec 3) (m : Nat) (st : Int) : BitVec 3 := BitVec.ofInt 3 (t.toNat + m * st)

/-- Issue m of a repeated word under streams st1 and st2; none when the word is not repeatable or a nonzero
stream applies to no field of it. -/
def repeated (r : Repeat) (i : Instr) : Option Instr :=
  let t' := fun (t : BitVec 3) => stepReg t r.m r.st1
  let p' := fun (t : BitVec 3) => stepReg t r.m r.st2
  match i with
  | .mma t c f n s b z l => if r.st2 = 0 then some (.mma (t' t) c f n s b z l) else none
  | .mmas t c f n s b z l => if r.st2 = 0 then some (.mmas (t' t) c f n s b z l) else none
  | .scacc d c p n x u => some (.scacc (t' d) c (p' p) n x u)
  | .tld t c n a l s => if r.st2 = 0 then some (.tld (t' t) c n a l s) else none
  | .tst t c n a l s => if r.st2 = 0 then some (.tst (t' t) c n a l s) else none
  | .tzero t => if r.st0 = 0 ∧ r.st2 = 0 then some (.tzero (t' t)) else none
  | .tzeroInv t => if r.st0 = 0 ∧ r.st2 = 0 then some (.tzeroInv (t' t)) else none
  | .tmov t s => if r.st0 = 0 then some (.tmov (t' t) (p' s)) else none
  | _ => none

/-- The address offset of issue m. -/
def repOffset (r : Repeat) : Nat := if r.st0 = 0 then 0 else r.m * 2 ^ (r.st0 + 4)

/-- The repeat state acts on this packet: it is in the mode in which MREP issued (R399). -/
def Ctx.repeating (c : Ctx) : Option Repeat :=
  match c.rep with
  | some r => if r.smode == c.sMode then some r else none
  | none => none

/-- The head's own ILLEGAL, found at decode of its packet: its word 2 `w` is not repeatable, or a nonzero stream applies to no field of
it (R398, R399). -/
def headIllegal (c : Ctx) (w : W32) : Bool :=
  match c.repeating with
  | none => false
  | some r => r.head && ((decodeAt w 2).bind (repeated r)).isNone

/-- ILLEGAL of a word 2 other than NOP under a repetition that is not suppressed (R399). -/
def repIllegal (c : Ctx) (w : W32) : Bool :=
  match c.repeating with
  | none => false
  | some r => !r.head && !lbSuppressed c 2 && w != 0#32

/-- What issues in word 2 under the repeat state. -/
def repIssue (r : Repeat) (w : W32) : Issued :=
  let raw := if r.head then w else r.word
  let i := match decodeAt raw 2 with
    | some i => (repeated r i).getD .nop
    | none => .nop
  ⟨2, raw, i, repOffset r, true, false⟩

/-- The word that issues at position `w` of a packet that passed its checks. -/
def issuedAt (c : Ctx) (ws : List W32) (w : Nat) : Issued :=
  let raw := ws.getD w 0
  if w = 2 ∧ repIllegal c raw then { pos := w, raw := raw, instr := .nop, bad := true }
  else if lbSuppressed c w then ⟨w, raw, .nop, 0, w == 2 && c.repeating.isSome, false⟩
  else
    match (if w = 2 then c.repeating else none) with
    | some r => repIssue r raw
    | none => ⟨w, raw, (decodeAt raw w).getD .nop, 0, false, false⟩

/-- One issue of the repeat state is consumed. -/
def Ctx.consumeRep (c : Ctx) (w : W32) : Ctx :=
  match c.rep with
  | none => c
  | some r =>
    let r' : Repeat := { r with head := false, word := if r.head then w else r.word, left := r.left - 1, m := r.m + 1 }
    { c with rep := if r'.left = 0 then none else some r' }

end Sys2Proof.Machine
end

