-- ==== Sys2Proof/Machine/Ras.lean ====
section
/-! DEFINITION. RAS windows and thresholds (R300, R305). -/

namespace Sys2Proof.Machine

open Host Sys2Proof

/-- A threshold passed for the first time in the window: the hit bit is set, and the graft request is treated as a
write of MAP_GREQ.go (R300). A threshold of 0 disables its action. -/
def Tile.threshold (T : Tile) (count limit hit : Nat) : Tile :=
  if limit ≠ 0 ∧ limit < count ∧ !bit (T.cr 0x784) hit then
    { T with greq := true }.modCr 0x784 (setBit · hit true)
  else T

/-- RAS_ECC.corr and the window's corrections. -/
def Tile.countEcc (T : Tile) (n : Nat) : Tile :=
  let T := (T.modCr 0x783 (incFld · 0 32 n)).modCr 0x784 (incFld · 0 16 n)
  T.threshold (fld (T.cr 0x784) 0 16) (fld (T.cr 0x787) 0 8) 48

/-- RAS_REPLAY.total and the window's replays. -/
def Tile.countReplay (T : Tile) : Tile :=
  let T := (T.modCr 0x780 (incFld · 0 32 1)).modCr 0x784 (incFld · 16 16 1)
  T.threshold (fld (T.cr 0x784) 16 16) (fld (T.cr 0x787) 8 12) 49

/-- The window's detected slice errors, injections left out (R270, R300). -/
def Tile.countSlice (T : Tile) (n : Nat) : Tile :=
  let T := T.modCr 0x784 (incFld · 32 16 n)
  T.threshold (fld (T.cr 0x784) 32 16) (fld (T.cr 0x787) 20 8) 50

/-- RAS_POISON.made: uncorrectable errors of this tile's storage (R290). -/
def Tile.countMade (T : Tile) (n : Nat) : Tile := T.modCr 0x782 (incFld · 0 16 n)

/-- A word of the pad reads uncorrectable: its poison bit is set (R290). -/
def Tile.padLoses (T : Tile) (w : Nat) : Tile := { T with padPoison := mset false T.padPoison w true }.countMade 1

/-- A spill slot of context x reads uncorrectable: its poison bit is set (R290). -/
def Tile.slotLoses (T : Tile) (x slot : Nat) : Tile :=
  (T.modCtx x (fun c =>
    let v : RVal := mget {} c.regs (spKey slot)
    { c with regs := mset {} c.regs (spKey slot) { v with poison := true } })).countMade 1

/-- One finding of an access (R290), by the key of the choice: 10 corrections, in pad, spill or instruction memory; an
uncorrectable word of the pad; an uncorrectable spill slot. -/
def Tile.finds (T : Tile) (key n : Nat) : Tile :=
  if n = 0 then T
  else if key = 10 then T.countEcc n
  else if 2 ^ 24 ≤ key ∧ key < 2 ^ 24 + 2 ^ 19 then T.padLoses (key - 2 ^ 24)
  else if 2 ^ 25 ≤ key ∧ key < 2 ^ 25 + 2 ^ 12 then T.slotLoses ((key - 2 ^ 25) / 1024) (key % 1024)
  else T

/-- What the accesses of this cycle of tile t find in its storage: the surroundings choose it, whichever word is read (log 57). -/
def State.storageErrors (s : State) (t : Nat) : State :=
  s.choices.foldl (fun s e => s.modTile t (·.finds e.1 e.2)) s

end Sys2Proof.Machine
end

