-- ==== Sys2Proof/Machine/Issue.lean ====
section
/-! DEFINITION. Issue: one issue group of one context of one tile per step (R168, R169, R201, R202, R227,
R229). The meanings come in as `run`, so that this file stands before the dispatch. -/

namespace Sys2Proof.Machine

open Host Sys2Proof

/-! ### One group -/

/-- The issue record of one word of the group. -/
def State.withWord (s : State) (t x first last : Nat) (w : Issued) : State :=
  { s with cur := { tile := t, ctx := x, word := w.pos, first := first, last := last, raw := w.raw,
                    addrOff := w.addrOff, popped := s.cur.popped, trial := s.cur.trial } }

def isCall : Instr → Bool
  | .syscall _ => true
  | .brkpt _ => true
  | _ => false

/-- The registers that a word writes, but for spill results, which land in exactly the next cycle. -/
def writtenBy (run : Instr → State → Res) (t x first last : Nat) (s : State) (w : Issued) : List Nat :=
  match run w.instr (s.withWord t x first last w) with
  | .next s' => ((s'.ctx t x).flights.filter (fun f => f.issued == (s.tile t).cycle && !f.exact)).map (·.reg)
  | _ => []

/-- The state in which a word of a group runs: what the words after it write is undefined to it (R202, R203). -/
def State.withGroup (s : State) (run : Instr → State → Res) (t x first last : Nat) (w : Issued) (l : List Issued) : State :=
  let u := s.withWord t x first last w
  { u with cur := { u.cur with hidden := l.flatMap (writtenBy run t x first last s) } }

/-- What became of a group: the state with every word's effect, the trap of the lowest trapping word, the
lowest word that waits. -/
structure GroupRun where
  s : State
  trap : Option (Issued × Nat × W64) := none
  wait : Option Issued := none
  kept : Bool := false

/-- Run the words in order, SYSCALL and BRKPT left out; a waiting word has no effect, and a trap of a later word
still keeps the group from issuing (R227). -/
def foldGroup (run : Instr → State → Res) (t x first last : Nat) :
    List Issued → GroupRun → Outcome GroupRun Fault Refusal
  | [], g => .next g
  | w :: l, g =>
    if w.bad then .next { g with trap := some (w, 0x01, w64 (w.pos + w.raw.toNat * 4)) } else
    match run w.instr (g.s.withGroup run t x first last w l) with
    | .fault r => .fault r
    | .refused r => .refused r
    | .next s' =>
      match s'.cur.ended with
      | .trapped => .next { g with trap := some (w, s'.cur.cause, s'.cur.info), kept := s'.cur.kept }
      | .waits => foldGroup run t x first last l { g with wait := some (g.wait.getD w) }
      | .done => foldGroup run t x first last l { g with s := s' }

/-- A group that issued waits no more. -/
def Ctx.placed (c : Ctx) : Ctx := { c with waitSeq := none }

def State.wentOn (s : State) (t x : Nat) : State := if (s.ctx t x).waitSeq.isSome then s.modCtx t x Ctx.placed else s

/-- The end of a group that issued: the repeat state, the SYSCALL or BRKPT of the lowest position, the packet's
next group or its end. -/
def afterGroup (run : Instr → State → Res) (t x first last : Nat) (ws : List Issued) (s : State) : Res :=
  let s := match ws.find? (·.rep) with
    | some w => s.modCtx t x (·.consumeRep w.raw)
    | none => s
  let s := s.wentOn t x
  match ws.find? (fun w => isCall w.instr) with
  | some w => run w.instr (s.withWord t x first last w)
  | none =>
    if last < 2 then
      .next (s.modTile t (fun T => { T with active := some x }.modCtx x (fun c => { c with first := last + 1 })))
    else .next (s.endPacket t x)

/-- Issue one group, or trap, or wait (R201, R202, R227). -/
def issueGroup (run : Instr → State → Res) (t x first last : Nat) (ws : List Issued) (s : State) : Res :=
  match foldGroup run t x first last (ws.filter (fun w => !isCall w.instr)) { s := s } with
  | .fault r => .fault r
  | .refused r => .refused r
  | .next g =>
    match g.trap, g.wait with
    | some (w, cause, info), _ =>
      if w.bad then .next (((s.withWord t x first last w).modMe (fun c => { c with rep := none })).raise cause info)
      else if g.kept then run w.instr (s.withWord t x first last w)
      else .next ((s.withWord t x first last w).raise cause info)
    | none, some w => run w.instr (s.withWord t x first last w)
    | none, none => afterGroup run t x first last ws g.s

/-! ### A packet -/

/-- The trap of a packet that issues no word: CTX_EPC names it, resume its first word not yet issued. -/
def State.packetTrap (s : State) (t x cause : Nat) (info : W64) : State :=
  let c := s.ctx t x
  let s := { s with cur := { s.cur with tile := t, ctx := x, ended := .trapped, cause := cause, info := info } }
  s.trapAt t x c.pc c.first cause info

/-- What a fetch of the context's packet raises before any word issues: an index above 10,921 (R199), a U-mode
fetch in the supervisor region (R226), an illegal word (R200), a head that cannot be repeated (R399). -/
def fetchTrap (T : Tile) (c : Ctx) : Option (Nat × W64) :=
  if lastPacket < c.pc then some (0x01, 0#64)
  else if !c.sMode && decide (fld (T.cr 0x003) 0 14 ≤ c.pc) then some (0x02, 0#64)
  else
    match illegalWord (T.packet c.pc) with
    | some (w, raw) => some (0x01, w64 (w + raw.toNat * 4))
    | none =>
      let raw := (T.packet c.pc).getD 2 0
      if headIllegal c raw then some (0x01, w64 (2 + raw.toNat * 4)) else none

/-- The trap of a fetch. An ILLEGAL word 2 under the repeat state clears that state (R398, R399). -/
def State.fetchRaise (s : State) (t x cause : Nat) (info : W64) : State :=
  let s := if cause = 0x01 ∧ fld info 0 2 = 2 ∧ (s.ctx t x).repeating.isSome then s.modCtx t x (fun c => { c with rep := none }) else s
  s.packetTrap t x cause info

/-- The issuing context's group: the packet's checks, then the group at its first word not yet issued. The
ILLEGAL of the repeat state is word 2's own, and clears it (R398, R399). -/
def issueNext (run : Instr → State → Res) (t x : Nat) (s : State) : Res :=
  let T := s.tile t
  let c := T.ctx x
  let s := { s with cur := { s.cur with popped := none } }
  match fetchTrap T c with
  | some (cause, info) => .next (s.fetchRaise t x cause info)
  | none =>
    let ws := T.packet c.pc
    let last := groupLast ws c.first
    let group := (fromTo c.first last).map (issuedAt c ws)
    issueGroup run t x c.first last group s

/-! ### Choosing a context (R169) -/

def Ctx.canIssue (c : Ctx) (T : Tile) : Bool :=
  (c.st == ready || c.st == trapped) && decide (c.hold ≤ T.cycle) && !T.packetBad c.pc

/-- The contexts that could issue in this slot. -/
def Tile.eligibleCtxs (T : Tile) : List Nat := (List.range 4).filter (fun x => (T.ctx x).canIssue T)

/-- Rank 2: the first of contexts after the one served last, round-robin. -/
def afterServed (served : Nat) (cand : List Nat) : Option Nat :=
  ([1, 2, 3, 4].map (fun k => (served + k) % 4)).find? (fun x => cand.contains x)

/-- The context that R169 selects, and whether rank 2 served it. A context that has just yielded issues only
when no other can (R326). -/
def Tile.choose (T : Tile) : Option (Nat × Bool) :=
  let el := T.eligibleCtxs
  let cand := el.filter (fun x => !(T.ctx x).yielded)
  let cand := if cand.isEmpty then el else cand
  if cand.contains 0 && decide (16 ≤ (T.ctx 0).passed) then some (0, false)
  else
    match afterServed T.served (cand.filter (fun x => x != 0 || (T.ctx 0).st == trapped)) with
    | some x => some (x, true)
    | none => if cand.contains 0 then some (0, false) else none

/-- The slot begins: it counts, rank 2 goes on from the context it served, and yields are taken back (R169, R326). -/
def Tile.takeSlot (T : Tile) (x : Nat) (rank2 : Bool) : Tile :=
  let T := (List.range 4).foldl (fun (T : Tile) y => T.modCtx y (fun c => { c with yielded := false })) T
  { T with slots := T.slots + 1, served := if rank2 then x else T.served, active := some x }

/-- The group of the slot has issued: the count of context x returns to 0, and every other context that could have issued in the slot, as
tile `T₀` stood before it, has been passed over (R169, R326). -/
def Tile.countPasses (T T₀ : Tile) (x : Nat) : Tile :=
  let el := T₀.eligibleCtxs
  (List.range 4).foldl (fun (T : Tile) y => T.modCtx y (fun c =>
    let yielded := (T₀.ctx y).yielded
    { c with passed := if y = x then (if yielded then c.passed else 0)
                       else if el.contains y && !yielded then c.passed + 1 else c.passed })) T

/-- The group that the step ran has issued: it ended in no trap before its issue, and does not wait. A SYSCALL or BRKPT traps after its group, and
a status is raised by a word that has acted (R227, R321, R395, R414). -/
def Cur.issued (c : Cur) : Bool :=
  match c.ended with
  | .done => true
  | .trapped => c.kept || c.cause == 0x13 || c.cause == 0x14
  | .waits => false

/-! ### The boundary before a packet (R206, R229, R264) -/

/-- The first asynchronous cause pending of context x in U mode: PREEMPT, POWER, TIMER (R229). -/
def Tile.asyncCause (T : Tile) (x : Nat) : Option (Nat × Nat) :=
  let m := (T.ctx x).cr 0x015
  if (T.ctx x).sMode then none
  else if bit m 3 then some (3, 0x15)
  else if T.powerDue x then some (4, 0x09)
  else if bit m 5 then some (5, 0x16)
  else none

/-- CTX_EINFO of POWER: the estimate that the monitor found, and g (R194, R230); 0 otherwise. -/
def asyncInfo (T : Tile) (cause : Nat) : W64 :=
  if cause = 0x09 then w64 (T.powEst % 16 + fld (T.cr 0x501) 0 4 * 16) else 0#64

/-- The asynchronous cause is taken at a packet boundary, with resume 0, or the resume word of a packet to
which ERET has returned (R229, R322). -/
def State.takeAsync (s : State) (t x b cause : Nat) : State :=
  let T := s.tile t
  let c := T.ctx x
  let s := if cause = 0x09 then s.modTile t (fun T => { T with powerLoose := false }.modCr 0x502 (setBit · 14 false))
    else s.modCtx t x (·.modCr 0x015 (setBit · b false))
  s.trapAt t x c.pc c.first cause (asyncInfo T cause)

/-- A status that waits for the context's packet boundary: one already due, the POISON of a completed direct
operation, and the statuses of a nest of the context that is DONE (R264, R293, R388); none of an operation that the context issued before
its last HALT or SLEEP (R400). -/
def dueStatus (s : State) (t x : Nat) : Option (Nat × W64 × State) :=
  let T := s.tile t
  let c := T.ctx x
  let live := fun (e : MatStatus) => decide (c.sleptAt ≤ e.seq)
  match c.boundPend.find? live, c.matPend.find? live with
  | some e, _ => some (e.cause.toNat, e.info, s.modCtx t x (fun c => { c with boundPend := eraseFirst live c.boundPend }))
  | none, some e => some (e.cause.toNat, e.info, s.modCtx t x (fun c => { c with matPend := eraseFirst live c.matPend }))
  | none, none =>
    let due := fun (n : NestRun) => decide (c.sleptAt ≤ n.seq) && (n.run.pend != 0 || n.pend.any (fun e => e.cause == 0x0B#8))
    match (List.range 4).find? (fun k => fld (T.cr (0x411 + 8 * k)) 33 2 == 3 &&
        fld (T.cr (0x411 + 8 * k)) 35 2 == x && due (mget {} T.nests k)) with
    | none => none
    | some k =>
      let n : NestRun := mget {} T.nests k
      let fid := n.run.pend
      let run : FidRun := { n.run with pend := 0 }
      let rest := eraseFirst (fun e => e.cause == 0x0B#8) n.pend
      if fid != 0 then
        let n' : NestRun := { n with run := run }
        some (0x0A, w64 (fid.toNat + k * 8 + 32), s.modTile t (fun T => { T with nests := mput T.nests k n' }))
      else
        let n' : NestRun := { n with pend := rest }
        match n.pend.find? (fun e => e.cause == 0x0B#8) with
        | some e => some (0x0B, e.info, s.modTile t (fun T => { T with nests := mput T.nests k n' }))
        | none => none

/-- What the context does at the boundary instead of issuing: a status that is due there, then an asynchronous
cause. -/
def boundaryTrap (s : State) (t x : Nat) : Option State :=
  let c := s.ctx t x
  match dueStatus s t x with
  | some (cause, info, s) => some (s.raiseAt t x c.pc c.first cause info)
  | none =>
    match (s.tile t).asyncCause x with
    | some (b, cause) => some (s.takeAsync t x b cause)
    | none => none

/-- The context begins its next packet: its writes of control registers that are due take effect (R206). -/
def State.beginPacket (s : State) (t x : Nat) : State :=
  let s := s.modCtx t x (fun c => { c with packets := c.packets + 1, midPacket := true })
  s.applyCregs t

/-- READY becomes RUNNING while it issues; a TRAPPED context stays TRAPPED until its ERET (R168). -/
def Ctx.toRunning (c : Ctx) : Ctx := if c.st = ready then c.setSt running 0 else c

/-! ### Waits that end (R168) -/

/-- A look at whether a waiting group would go on, without its checks (R348). -/
def State.onTrial (s : State) (b : Bool) : State := { s with cur := { s.cur with trial := b } }

/-- The waiting group would go on now: a trial run of it does not wait. -/
def goesOn (run : Instr → State → Res) (t x : Nat) (s : State) : Bool :=
  match issueNext run t x (s.onTrial true) with
  | .next s' => !(s'.cur.ended == .waits && s'.cur.tile == t && s'.cur.ctx == x)
  | _ => true

/-- A waiting context becomes READY after its condition is met (R168). A context that waits for a rollback of its pass goes
on by POISON_ROLLBACK only (R296). While the stall of R222 or R246 lasts, its counter counts. -/
def wakeOne (run : Instr → State → Res) (t : Nat) (s : State) (x : Nat) : State :=
  let c := s.ctx t x
  if c.st ≠ waiting ∨ (x = 0 ∧ (s.tile t).pass.roll ≠ 0) then s
  else if goesOn run t x s then s.modCtx t x (·.setSt ready 0)
  else
    match issueNext run t x (s.onTrial true) with
    | .next s' => s'.onTrial false
    | _ => s

/-! ### A cycle of the tile -/

/-- One issue cycle passes: a CTXGO that is due commits, results that are due land, the timers and the clock count (R203, R211, R229,
R325). -/
def Tile.tick (T : Tile) : Tile :=
  let T := { T with cycle := T.cycle + 1, clock := T.clock + 1 }.commitGoes (T.cycle + 1)
  { T with ctxs := T.ctxs.map (fun e => (e.1, (e.2.settleUpTo T.cycle).tickTimer)) }

/-- An issue cycle of the core of tile t has passed: what is due lands, the monitor looks, control-register writes that leave the commit stage
are performed, held data whose ACQ is over are copied, and the field's clock is noted (R194, R203, R206, R208, R295). -/
def State.tick (s : State) (t : Nat) : State :=
  (((s.modTile t (fun T => T.tick.monitorCycle s.seed t 0)).applyCregs t).copyHeld t).noteClock t

def tickRes (t : Nat) : Res → Res
  | .next s => .next (s.tick t)
  | .fault r => .fault r
  | .refused r => .refused r

/-- A context whose next group waits for a result to land leaves its slot to the others (R169, R312). -/
def State.leaveSlot (s : State) (t x : Nat) : State :=
  (s.modTile t (fun T => { T with active := none })).modCtx t x (fun c => if c.st = running then c.setSt ready 0 else c)

/-- The passes of a slot are counted once its group has issued. -/
def countRes (t x : Nat) (T₀ : Tile) : Res → Res
  | .next s => .next (if s.cur.issued then s.modTile t (·.countPasses T₀ x) else s)
  | .fault r => .fault r
  | .refused r => .refused r

/-- A packet slot: the chosen context goes on with its packet, or begins one (R169). A context that enters a trap at its boundary begins no
packet, and no slot passes. -/
def coreSlot (run : Instr → State → Res) (t : Nat) (s : State) : Res :=
  let T₀ := s.tile t
  match T₀.choose with
  | none => .next (s.catchUp t)
  | some (x, rank2) =>
    let slot := s.modTile t (·.takeSlot x rank2)
    if (s.ctx t x).midPacket then countRes t x T₀ (issueNext run t x (slot.modCtx t x Ctx.toRunning))
    else
      match boundaryTrap s t x with
      | some s => .next s
      | none => countRes t x T₀ (issueNext run t x ((slot.beginPacket t x).modCtx t x Ctx.toRunning))

/-- The core of tile t in one cycle: an active context continues its packet; otherwise a slot begins. -/
def coreCycle (run : Instr → State → Res) (t : Nat) (s : State) : Res :=
  let s := (List.range 4).foldl (wakeOne run t) s
  match (s.tile t).active with
  | some x =>
    if (s.ctx t x).hold ≤ (s.tile t).cycle then issueNext run t x s else coreSlot run t (s.leaveSlot t x)
  | none => coreSlot run t s

/-- A step of the core of tile t: nothing while it is not released, or stopped by a graft or a pre-emption. -/
def coreStep (run : Instr → State → Res) (t : Nat) (s : State) : Res :=
  if 15360 ≤ t then .fault .offWafer
  else if (s.tile t).released && !(s.tile t).stopped then
    tickRes t (coreCycle run t ({ s with cur := { tile := t } }.storageErrors t))
  else .next s

end Sys2Proof.Machine
end

