-- ==== Sys2Proof/Machine/Format.lean ====
section
/-! DEFINITION. Number formats, rounding, conversions and the random-bit generator (R232 to R249).
A finite value is an exact dyadic number; every operation is exact and one function rounds. -/

namespace Sys2Proof.Machine

open Host Sys2Proof

/-- An exact value: (−1)^neg × m × 2^e, an infinity, or NaN. A zero keeps its sign. -/
inductive Num where
  | nan
  | inf (neg : Bool)
  | fin (neg : Bool) (m : Nat) (e : Int)
deriving DecidableEq, Repr

/-- A binary floating-point format (R234). -/
structure FFmt where
  ebits : Nat
  fbits : Nat
  bias : Nat
  /-- E4M3: no infinity, and only fraction 0b111 of the highest exponent is NaN -/
  e4m3 : Bool := false
deriving DecidableEq, Repr

def fp32 : FFmt := ⟨8, 23, 127, false⟩
def fp16 : FFmt := ⟨5, 10, 15, false⟩
def bf16 : FFmt := ⟨8, 7, 127, false⟩
def e4m3 : FFmt := ⟨4, 3, 7, true⟩
def e5m2 : FFmt := ⟨5, 2, 15, false⟩

def FFmt.width (F : FFmt) : Nat := 1 + F.ebits + F.fbits
/-- The sign bit's weight in a code. -/
def FFmt.sign (F : FFmt) : Nat := 2 ^ (F.ebits + F.fbits)
/-- The code of +infinity, which is also one above the largest finite code but in E4M3. -/
def FFmt.infCode (F : FFmt) : Nat := (2 ^ F.ebits - 1) * 2 ^ F.fbits
/-- The largest finite magnitude code (R234). -/
def FFmt.maxCode (F : FFmt) : Nat := if F.e4m3 then 0x7E else F.infCode - 1
/-- The canonical NaN (R234, R235). -/
def FFmt.nanCode (F : FFmt) : Nat := if F.e4m3 then 0x7F else F.infCode + 2 ^ (F.fbits - 1)

def FFmt.neg (F : FFmt) (code : Nat) : Bool := code / F.sign % 2 == 1
def FFmt.mag (F : FFmt) (code : Nat) : Nat := code % F.sign
def FFmt.isNan (F : FFmt) (code : Nat) : Bool :=
  if F.e4m3 then F.mag code == 0x7F else decide (F.infCode < F.mag code)
/-- An encoding that is subnormal: exponent field 0, fraction not 0. -/
def FFmt.isSub (F : FFmt) (code : Nat) : Bool :=
  0 < F.mag code && decide (F.mag code < 2 ^ F.fbits)

/-- The exact value of a code (R234). -/
def FFmt.decode (F : FFmt) (code : Nat) : Num :=
  let m := F.mag code
  let s := F.neg code
  if F.isNan code then .nan
  else if !F.e4m3 && m == F.infCode then .inf s
  else
    let x := m / 2 ^ F.fbits
    let f := m % 2 ^ F.fbits
    if x = 0 then .fin s f (1 - (F.bias : Int) - F.fbits)
    else .fin s (f + 2 ^ F.fbits) ((x : Int) - F.bias - F.fbits)

/-- Rounding modes of R240. -/
inductive Rm where
  | rne | rtz | rdn | rup | sr
deriving DecidableEq, Repr

def rmOf (n : Nat) : Rm :=
  if n = 1 then .rtz else if n = 2 then .rdn else if n = 3 then .rup else if n = 4 then .sr else .rne

/-- Does an inexact magnitude, `num / den` of the way from lo to hi, round to hi (R240, R241)? `odd` says
that lo's code has bit 0 = 1. -/
def roundsUp (rm : Rm) (neg odd : Bool) (num den u : Nat) : Bool :=
  match rm with
  | .rne => decide (den < 2 * num) || (decide (2 * num = den) && odd)
  | .rtz => false
  | .rdn => neg
  | .rup => !neg
  | .sr => decide (u < num * 2 ^ 32 / den)

/-- A magnitude m × 2^e in units of 2^q, rounded. -/
def roundAt (rm : Rm) (neg : Bool) (m : Nat) (e q : Int) (u : Nat) : Nat :=
  if q ≤ e then m <<< (e - q).toNat
  else
    let sh := (q - e).toNat
    let lo := m >>> sh
    let rem := m % 2 ^ sh
    if rem = 0 then lo else if roundsUp rm neg (lo % 2 == 1) rem (2 ^ sh) u then lo + 1 else lo

/-- The code of an overflowing result (the overflow table of R243). -/
def FFmt.overflow (F : FFmt) (rm : Rm) (sat neg : Bool) : Nat :=
  let s := if neg then F.sign else 0
  let toInf := match rm with
    | .rne | .sr => true
    | .rtz => false
    | .rdn => neg
    | .rup => !neg
  if sat || !toInf then s + F.maxCode else if F.e4m3 then F.nanCode else s + F.infCode

/-- Round a value to a code (R240, R241, R243, R244). -/
def FFmt.round (F : FFmt) (rm : Rm) (sat fzo : Bool) (u : Nat) (x : Num) : Nat :=
  match x with
  | .nan => F.nanCode
  | .inf s =>
    let sg := if s then F.sign else 0
    if sat then sg + F.maxCode else if F.e4m3 then F.nanCode else sg + F.infCode
  | .fin s m e =>
    let sg := if s then F.sign else 0
    if m = 0 then sg
    else
      let emin : Int := 1 - (F.bias : Int)
      let top : Int := (Nat.log2 m : Int) + e
      let q : Int := (if top < emin then emin else top) - F.fbits
      let M := roundAt rm s m e q u
      -- the code of M × 2^q: the exponent field counts from emin
      let code := M + (q + F.fbits - emin).toNat * 2 ^ F.fbits
      if F.maxCode < code then F.overflow rm sat s
      else if fzo && decide (code < 2 ^ F.fbits) then sg
      else sg + code

/-! ### Tapered formats (R236, R242) -/

/-- Length of the leading run of `mag`  from bit n - 1 down. -/
def ltRun (mag : Nat) (b : Bool) : Nat → Nat
  | 0 => 0
  | n + 1 => if mag.testBit n == b then 1 + ltRun mag b n else 0

/-- lt_decode of R236 for n = 8 or 6. -/
def ltDecode (c n : Nat) : Num :=
  let s := c.testBit (n - 1)
  let w := n - 1
  let mag := c % 2 ^ w
  if mag = 0 then (if s then .nan else .fin false 0 0)
  else
    let b := mag.testBit (w - 1)
    let m := ltRun mag b w
    let r : Int := if b then (m : Int) - 1 else -(m : Int)
    let rest := if m < w then w - m - 1 else 0
    let es := if n = 8 then 1 else 0
    let e := if es = 1 ∧ 1 ≤ rest then (mag.testBit (rest - 1)).toNat else 0
    let fb := if es ≤ rest then rest - es else 0
    let f := mag % 2 ^ fb
    let p : Int := if n = 8 then 2 * r + e else r
    .fin s (2 ^ fb + f) (p - fb)

/-- The value of a magnitude code in units of 2^-12, in which every LT value is whole. -/
def ltUnits (n mag : Nat) : Nat :=
  match ltDecode mag n with
  | .fin _ m e => m <<< (e + 12).toNat
  | _ => 0

/-- The largest magnitude code whose value is at most num / den (in units of 2^-12). -/
def ltFloor (n num den : Nat) : Nat → Nat
  | 0 => 0
  | k + 1 => if ltUnits n (k + 1) * den ≤ num then k + 1 else ltFloor n num den k

/-- Rounding into LT8 or LT6 (R242). -/
def ltRound (n : Nat) (rm : Rm) (fzo : Bool) (u : Nat) (x : Num) : Nat :=
  match x with
  | .nan | .inf _ => 2 ^ (n - 1)
  | .fin s m e =>
    let sg := if s then 2 ^ (n - 1) else 0
    let top := 2 ^ (n - 1) - 1
    let num := m <<< (e + 12).toNat
    let den := 1 <<< (-(e + 12)).toNat
    if m = 0 then 0
    else if ltUnits n top * den < num then sg + top
    else if fzo && decide (num < ltUnits n 1 * den) then 0
    else
      let lo := ltFloor n num den top
      let vlo := ltUnits n lo * den
      let r := if vlo = num then lo
        else if roundsUp rm s (lo % 2 == 1) (num - vlo) (ltUnits n (lo + 1) * den - vlo) u then lo + 1 else lo
      if r = 0 then sg + 1 else sg + r

/-! ### Formats by code (R232) -/

def fmtOf (code : Nat) : Option FFmt :=
  if code = 6 then some fp32 else if code = 7 then some fp16 else if code = 8 then some bf16
  else if code = 9 then some e4m3 else if code = 10 then some e5m2 else none

/-- Bits of an element of a format (R232). -/
def fmtBits (code : Nat) : Nat :=
  if code = 0 then 4 else if code ≤ 2 then 8 else if code = 3 then 16 else if code = 4 then 32
  else if code = 5 then 64 else if code = 6 then 32 else if code ≤ 8 then 16 else if code = 12 then 6 else 8

/-- Integer formats: 0 to 5. -/
def fmtMin (code : Nat) : Int := if code = 2 then 0 else -(2 ^ (fmtBits code - 1) : Int)
def fmtMax (code : Nat) : Int := if code = 2 then 255 else 2 ^ (fmtBits code - 1) - 1

/-- The integer an element of an integer format holds. -/
def intOf (code e : Nat) : Int := if code = 2 then ((e % 256 : Nat) : Int) else sext e (fmtBits code)

/-- An integer as an exact value. -/
def numOfInt (x : Int) : Num := .fin (decide (x < 0)) x.natAbs 0

/-- The exact value of an element read as format `code`, its subnormal flushed when FZI is set (R244). -/
def decodeAs (code : Nat) (fzi : Bool) (e : Nat) : Num :=
  match fmtOf code with
  | some F =>
    let e := e % 2 ^ F.width
    if fzi && F.isSub e then .fin (F.neg e) 0 0 else F.decode e
  | none => if code = 11 then ltDecode (e % 256) 8 else if code = 12 then ltDecode (e % 64) 6
            else numOfInt (intOf code e)

/-- The integer nearest by `rm` (R240), for a finite value. -/
def roundInt (rm : Rm) (u : Nat) (s : Bool) (m : Nat) (e : Int) : Int :=
  let M := roundAt rm s m e 0 u
  if s then -(M : Int) else M

def clampInt (x lo hi : Int) : Int := if x < lo then lo else if hi < x then hi else x

/-- convert of R377: element `e` of format `st` to format `dt` (R243, R376). -/
def convert (dt st : Nat) (rm : Rm) (sat fzi fzo : Bool) (u e : Nat) : Nat :=
  if dt = st then
    match fmtOf dt with
    | some F =>
      let e := e % 2 ^ F.width
      if F.isNan e then F.nanCode
      else if (fzi || fzo) && F.isSub e then (if F.neg e then F.sign else 0) else e
    | none => e % 2 ^ fmtBits dt
  else
    let x := decodeAs st fzi e
    match fmtOf dt with
    | some F => F.round rm sat fzo u x
    | none =>
      if dt = 11 then ltRound 8 rm fzo u x
      else if dt = 12 then ltRound 6 rm fzo u x
      else if st ≤ 5 then
        let v := intOf st e
        wrap (if sat then clampInt v (fmtMin dt) (fmtMax dt) else v) (fmtBits dt)
      else
        match x with
        | .nan => 0
        | .inf s => wrap (if s then fmtMin dt else fmtMax dt) (fmtBits dt)
        | .fin s m e => wrap (clampInt (roundInt rm u s m e) (fmtMin dt) (fmtMax dt)) (fmtBits dt)

/-! ### Exact arithmetic (R248) -/

def Num.negate : Num → Num
  | .nan => .nan
  | .inf s => .inf (!s)
  | .fin s m e => .fin (!s) m e

/-- The integer m × 2^(e - q), for q ≤ e. -/
def scaled (s : Bool) (m : Nat) (e q : Int) : Int :=
  let v : Int := (m <<< (e - q).toNat : Nat)
  if s then -v else v

/-- The exact sum; an exact zero is −0 only when both addends are −0 (R248). -/
def Num.add : Num → Num → Num
  | .nan, _ => .nan
  | _, .nan => .nan
  | .inf s, .inf t => if s = t then .inf s else .nan
  | .inf s, _ => .inf s
  | _, .inf t => .inf t
  | .fin s m e, .fin t n f =>
    let q := if e ≤ f then e else f
    let v := scaled s m e q + scaled t n f q
    if v = 0 then .fin (m == 0 && n == 0 && s && t) 0 0 else .fin (decide (v < 0)) v.natAbs q

/-- The exact product; an infinity times a zero is NaN (R370). -/
def Num.mul : Num → Num → Num
  | .nan, _ => .nan
  | _, .nan => .nan
  | .inf s, .inf t => .inf (xor s t)
  | .inf s, .fin t n _ => if n = 0 then .nan else .inf (xor s t)
  | .fin s m _, .inf t => if m = 0 then .nan else .inf (xor s t)
  | .fin s m e, .fin t n f => .fin (xor s t) (m * n) (e + f)

/-- Numeric order of two values that are not NaN; −0 = +0. -/
def Num.lt : Num → Num → Bool
  | .nan, _ => false
  | _, .nan => false
  | .inf s, .inf t => s && !t
  | .inf s, .fin _ _ _ => s
  | .fin _ _ _, .inf t => !t
  | .fin s m e, .fin t n f =>
    let q := if e ≤ f then e else f
    decide (scaled s m e q < scaled t n f q)

def Num.eqv (x y : Num) : Bool := x != .nan && y != .nan && !x.lt y && !y.lt x

/-- The arithmetic element types of VFLT, VFLT2, VFMA: 0 F32, 1 F16, 2 BF16 (R370). -/
def arithFmt (t : Nat) : FFmt := if t = 1 then fp16 else if t = 2 then bf16 else fp32

/-- An arithmetic result rounded once, in RNE (R248). -/
def FFmt.rne (F : FFmt) (fzo : Bool) (x : Num) : Nat := F.round .rne false fzo 0 x

/-- An operand with FZI applied (R244). -/
def FFmt.flush (F : FFmt) (fzi : Bool) (e : Nat) : Nat :=
  let e := e % 2 ^ F.width
  if fzi && F.isSub e then (if F.neg e then F.sign else 0) else e

/-- minimumNumber, or maximumNumber when `mx` (R235, R370): one of the inputs unchanged; −0 < +0. -/
def FFmt.minMax (F : FFmt) (mx fzo : Bool) (x y : Nat) : Nat :=
  let r :=
    if F.isNan x && F.isNan y then F.nanCode
    else if F.isNan x then y
    else if F.isNan y then x
    else
      let less := if F.mag x = 0 ∧ F.mag y = 0 then F.neg x && !F.neg y else (F.decode x).lt (F.decode y)
      if mx then (if less then y else x) else (if less then x else y)
  if fzo && !F.isNan r && F.isSub r then (if F.neg r then F.sign else 0) else r

/-- FCLASS (R371). -/
def FFmt.classify (F : FFmt) (e : Nat) : Nat :=
  let e := e % 2 ^ F.width
  if F.isNan e then 2 ^ 8
  else if F.mag e = F.infCode then (if F.neg e then 1 else 2 ^ 7)
  else if F.mag e = 0 then (if F.neg e then 2 ^ 3 else 2 ^ 4)
  else if F.isSub e then (if F.neg e then 2 ^ 2 else 2 ^ 5)
  else (if F.neg e then 2 else 2 ^ 6)

/-! ### The random-bit generator (R245) -/

def rotl32 (x r : Nat) : Nat := (x <<< r % 2 ^ 32) ||| (x >>> (32 - r))

def rngRounds (x y : Nat) : List (Nat × Nat) → Nat
  | [] => x ^^^ y
  | (k, rot) :: l =>
    let x := rotl32 ((x + y + k) % 2 ^ 32) rot
    rngRounds x (y ^^^ x) l

/-- Lane i of rng_word(seed, n). -/
def rngLane (seed n i : Nat) : Nat :=
  let a := seed % 2 ^ 32
  let b := seed / 2 ^ 32 % 2 ^ 32
  rngRounds (n % 2 ^ 32) (((n / 2 ^ 32 % 2 ^ 27) <<< 5) ||| i)
    [(a, 7), (b, 13), (a ^^^ b, 19), ((a + b) % 2 ^ 32, 26)]

/-- rng_word(seed, n): lane i in bits [32i+31:32i]. -/
def rngWord (seed n : Nat) : BitVec 1024 :=
  BitVec.ofNat 1024 ((List.range 32).foldl (fun w i => w + rngLane seed n i * 2 ^ (32 * i)) 0)

/-! ### The reduction tree (R249) -/

def node {α : Type} (op : α → α → α) : Option α → Option α → Option α
  | none, b => b
  | a, none => a
  | some a, some b => some (op a b)

/-- One level of the tree: neighbours combine, the lower lane first. -/
def treeLevel {α : Type} (op : α → α → α) : List (Option α) → List (Option α)
  | a :: b :: l => node op a b :: treeLevel op l
  | l => l

/-- Five levels over 32 lanes. -/
def treeReduce {α : Type} (op : α → α → α) (l : List (Option α)) : Option α :=
  ((treeLevel op (treeLevel op (treeLevel op (treeLevel op (treeLevel op l))))).head?).join

end Sys2Proof.Machine
end

