-- ==== Sys2Proof/Machine/MatArith.lean ====
section
/-! DEFINITION. The arithmetic of the matrix unit on plain data: WIF, alignment, segment sums, slices and checkers
(R239, R251 to R262). -/

namespace Sys2Proof.Machine

open Host Sys2Proof

/-- Matrix format codes (R309) as the codes of R232. -/
def matFmt (f : Nat) : Nat := [0, 1, 2, 11, 12, 9, 10, 8].getD f 0

/-- The class: float-like or integer (R253). -/
def matFloat (f : Nat) : Bool := 3 ≤ f

/-- Bytes of `k` elements of matrix format f, k even (R233, R387). -/
def matBytes (f k : Nat) : Nat := if f = 0 then k / 2 else if f = 7 then 2 * k else k

/-- Element k of packed bytes (R233). -/
def elemOf (f : Nat) (bytes : List Nat) (k : Nat) : Nat :=
  if f = 0 then bytes.getD (k / 2) 0 / 16 ^ (k % 2) % 16
  else if f = 7 then bytes.getD (2 * k) 0 + 256 * bytes.getD (2 * k + 1) 0
  else bytes.getD k 0

/-- The wide internal float (R239): s in bit 17, E in [16:8], M in [7:0]. -/
abbrev Wif := BitVec 18

def wifMake (s : Bool) (E M : Nat) : Wif := BitVec.ofNat 18 (M % 256 + E % 512 * 2 ^ 8 + (if s then 2 ^ 17 else 0))
def wifSign (x : Wif) : Bool := x.getLsbD 17
def wifE (x : Wif) : Nat := x.toNat / 2 ^ 8 % 512
def wifM (x : Wif) : Nat := x.toNat % 256

/-- Zero with a sign, and infinity or NaN. -/
def wifZero (x : Wif) : Bool := wifE x == 0
def wifSpecial (x : Wif) : Bool := wifE x == 511

/-- Decode an element of any matrix operand format into WIF, FZI applied first (R239, R244). -/
def wifOf (f : Nat) (fzi : Bool) (e : Nat) : Wif :=
  match decodeAs (matFmt f) fzi e with
  | .nan => wifMake false 511 128
  | .inf s => wifMake s 511 0
  | .fin s m ex =>
    if m = 0 then wifMake s 0 0
    else
      let l := Nat.log2 m
      wifMake s (255 + (l : Int) + ex).toNat (if l ≤ 7 then m <<< (7 - l) else m >>> (l - 7))

/-- R251 for one segment: the exponent and the aligned 9-bit values. -/
def alignSeg (xs : List Wif) : Int × List Int :=
  if xs.any wifSpecial then (-256, xs.map (fun _ => 0))
  else if xs.all wifZero then (-255, xs.map (fun _ => 0))
  else
    let emax := xs.foldl (fun (m : Nat) x => max m (wifE x)) 0
    ((emax : Int) - 255, xs.map (fun x =>
      let mag : Int := (wifM x >>> (emax - wifE x) : Nat)
      if wifSign x then -mag else mag))

/-- One segment of an operand in its class: integers stand as they are, with exponent 0, as the table of R251 states. -/
def decodeSeg (f : Nat) (fzi : Bool) (codes : List Nat) : Int × List Int :=
  if matFloat f then alignSeg (codes.map (wifOf f fzi))
  else (0, codes.map (fun e => intOf (matFmt f) e))

/-! ### Slices (R260 to R262) -/

/-- Slice s of a cell: 2 bits of bits [5:0], or the signed bits [8:6]. -/
def sliceOf (s : Nat) (cell : Int) : Int :=
  if s = 3 then cell / 64 else (cell % 512) / 4 ^ s % 4

def dot (a b : List Int) : Int := (a.zip b).foldl (fun (acc : Int) p => acc + p.1 * p.2) 0

/-- The delivered partial of an undervolted slice: any value, clamped to [−3N, 3P] (R261). -/
def delivered (a : List Int) (q err : Int) : Int :=
  let P := a.foldl (fun (acc : Int) x => if 0 < x then acc + x else acc) 0
  let N := a.foldl (fun (acc : Int) x => if x < 0 then acc - x else acc) 0
  clampInt (q + err) (-3 * N) (3 * P)

/-- A segment sum, and the slices whose checkers see a mismatch (R261, R262). `low` are the undervolted
slices. -/
def segSum (seed key : Nat) (low : List Nat) (a cells : List Int) : Int × List Nat :=
  (List.range 4).foldl (fun (acc : Int × List Nat) s =>
    let q := dot a (cells.map (sliceOf s))
    if low.contains s then
      let d := delivered a q (Config.fidError seed (4 * key + s))
      (acc.1 + 4 ^ s * d, if (q - d) % 3 = 0 then acc.2 else acc.2 ++ [s])
    else (acc.1 + 4 ^ s * q, acc.2)) (0, [])

/-! ### Accumulation (R254 to R257) -/

/-- Integer class: one segment added, wrapping or saturating (R254). -/
def accInt (sat : Bool) (acc : W32) (seg : Int) : W32 :=
  let v := acc.toInt + seg
  BitVec.ofInt 32 (if sat then clampInt v (-(2 ^ 31)) (2 ^ 31 - 1) else v)

/-- The part of a float segment (R255). -/
def partOf (fzo : Bool) (ea eb seg : Int) : Nat :=
  if ea = -256 ∨ eb = -256 then fp32.nanCode
  else if seg = 0 then 0
  else fp32.rne fzo (.fin (decide (seg < 0)) seg.natAbs (ea + eb - 14))

/-- acc := rne32(acc + part) (R255). -/
def accFloat (fzo : Bool) (acc : W32) (part : Nat) : W32 :=
  BitVec.ofNat 32 (fp32.rne fzo ((fp32.decode acc.toNat).add (fp32.decode part)))

/-- acc + part × sa × sb with one rounding (R257). -/
def scaleAcc (fzi fzo : Bool) (acc part : W32) (sa sb : Nat) : W32 :=
  let d := fun (e : Nat) => fp32.decode (fp32.flush fzi e)
  BitVec.ofNat 32 (fp32.rne fzo ((fp32.decode acc.toNat).add (((d part.toNat).mul (d sa)).mul (d sb))))

end Sys2Proof.Machine
end

