-- ==== Sys2Proof/Machine/Chn.lean ====
section
/-! DEFINITION. The channel words (R402 to R408), and the shared checks of the words of majors 0x2C to 0x2E
(R401). -/

namespace Sys2Proof.Machine

open Host Sys2Proof

/-- The channel's mode: 0 off, 1 send, 2 receive, 3 acts as off (R82). -/
def Tile.chanMode (T : Tile) (n : Nat) : Nat := fld (T.cfg n) 0 2

/-- A run-time refusal: ILLEGAL with the word (R401). -/
def refuseIf (s : State) (b : Bool) : Option (Nat × W64) := cond b 0x01 s.illegalInfo

/-! ### SEND and SENDT (R403) -/

/-- The window, ring position and packets that a send of `n` lines takes (R84). -/
structure Take where
  /-- lines taken from win -/
  lines : Nat
  /-- positions wp advances by -/
  pos : Nat
  pkts : Nat
deriving DecidableEq, Repr

def Tile.takeOf (T : Tile) (ch n : Nat) : Take :=
  let cfg := T.cfg ch
  let s := skipOf cfg (fld (T.cst ch) 0 16) n
  { lines := min (n + s) (chSize cfg), pos := n + s, pkts := if bit cfg 42 then 1 else 0 }

/-- The window suffices (R84, R403). -/
def Tile.windowOpen (T : Tile) (ch : Nat) (k : Take) : Bool :=
  decide (k.lines ≤ fld (T.cst ch) 32 16) && decide (k.pkts ≤ fld (T.cst ch) 48 5)

/-- Take the window and advance wp modulo 2^(size+1) (R82, R84). -/
def Tile.takeWindow (T : Tile) (ch : Nat) (k : Take) : Tile :=
  T.modCr (0x240 + ch) (fun w =>
    let w := setFld w 0 16 ((fld w 0 16 + k.pos) % (2 * chSize (T.cfg ch)))
    setFld (setFld w 32 16 (fld w 32 16 - k.lines)) 48 5 (fld w 48 5 - k.pkts))

/-- Window, packets and wp of held sends go back (R296). -/
def Tile.untake (T : Tile) (h : Nat × Nat × Nat × Nat) : Tile :=
  let (ch, lines, pkts, pos) := h
  T.modCr (0x240 + ch) (fun w =>
    let m := 2 * chSize (T.cfg ch)
    let w := setFld w 0 16 ((fld w 0 16 + m - pos % m) % m)
    setFld (setFld w 32 16 (fld w 32 16 + lines)) 48 5 (fld w 48 5 + pkts))

/-- Hold a send of context 0: outbox lines are taken for its data, and the packet takes no ticket (R295). -/
def Tile.holdSend (T : Tile) (e : Emission) (k : Take) : Tile :=
  let used := T.outboxUsed
  let T := T.modCr 0x582 (setFld · 7 13 (used + linesOf e.len))
  let P : Pass := { T.pass with
    held := T.pass.held ++ [{ e with seq := T.opSeq, box := some used }],
    taken := T.pass.taken ++ [(e.ch, k.lines, k.pkts, k.pos)] }
  { T with pass := P, opSeq := T.opSeq + 1 }

/-- A held packet fits in the outbox. -/
def Tile.outboxFits (T : Tile) (len : Nat) : Bool := T.outboxUsed + linesOf len ≤ T.outboxLen

/-- A send that has taken its window goes into the outbox of an open pass, or into the order of emission; a
packet that does not fit in the outbox ends the pass's protection (R295, R297). -/
def Tile.sendOut (T : Tile) (x : Nat) (e : Emission) (k : Take) : Tile :=
  if x = 0 ∧ T.passOpen then
    if T.outboxFits e.len then T.holdSend e k else (T.unprotect 2).enqueue e
  else T.enqueue e

/-- REL at GRP or wider by context 0 ends an open pass's protection as it issues (R297). -/
def Tile.wideRelease (T : Tile) (x : Nat) (rel : Bool) (scope : Nat) : Tile :=
  if rel && x == 0 && decide (2 ≤ scope) then T.unprotect 4 else T

/-- The emission of a send by context x on channel ch. -/
def Tile.sendEmission (T : Tile) (x ch addr len : Nat) (data : Option (List PByte)) (acq rel : Bool) (scope : Nat) :
    Emission :=
  let cfg := T.cfg ch
  { seq := 0, ctx := x, ch := ch, dst := tileAt (fld cfg 2 7) (fld cfg 9 7), pch := fld cfg 16 6,
    addr := addr, len := len, data := data, acq := acq, rel := rel, scope := scope }

/-- len is refused: no state of the channel could serve it (R401, R403). -/
def Tile.lenRefused (T : Tile) (ch len : Nat) : Bool :=
  T.chanMode ch != 1 || len < 1 || 4096 < len || chSize (T.cfg ch) < linesOf len

/-- CORE_RTRK.stalls counts the cycles of a group stalled for want of an entry (R222). -/
def State.stallTracker (s : State) : State := s.modHere (·.modCr 0x004 (incFld · 12 16 1))

/-- A tracker entry is free, or the group stalls with reason 7 (R222). -/
def trackerOr (s : State) (k : State → Res) : Res :=
  if s.here.trkFull then .next (s.stallTracker.waitFor 7) else k s

/-- SEND enters its tracker entry before it waits for its window; while it waits the entry stands (R403). -/
def sendEntry (addr len : Nat) (s : State) (k : State → Res) : Res :=
  let x := s.cur.ctx
  if s.here.trk.any (fun e => e.kind == .sendWait x) then k s
  else trackerOr s fun s => k (s.modHere (fun T => (T.trkAdd (.sendWait x) false addr (addr + len) false).getD T))

/-- The entry of the SEND of context x is now that of a send on channel ch, which CHWAIT retires (R280, R406). -/
def Tile.sendAccepted (T : Tile) (x ch : Nat) : Tile :=
  { T with trk := T.trk.map (fun e => if e.kind == .sendWait x then { e with kind := .send x ch } else e) }

def execSend (g h : BitVec 6) (c : BitVec 4) (a l : BitVec 1) (sc : BitVec 3) (s : State) : Res :=
  let ch := h.toNat
  let len := (s.gv g.toNat).toNat
  let addr := s.padAddr c.toNat 0
  orTrap [refuseIf s (s.here.lenRefused ch len), s.padCap c.toNat 0 len (permR + permAG) 1,
      s.trkCheck addr (addr + len) false true, poisonIf s (s.gp g.toNat || (s.c c.toNat).poison)] s fun s =>
  sendEntry addr len s fun s =>
    let k := s.here.takeOf ch (linesOf len)
    waitOr (s.here.windowOpen ch k) 1 s fun s =>
      let x := s.cur.ctx
      let e := s.here.sendEmission x ch addr len none (a == 1#1) (l == 1#1) sc.toNat
      let s := s.modHere (fun T =>
        let T := T.sendAccepted x ch
        ((T.takeWindow ch k).wideRelease x (l == 1#1) sc.toNat).sendOut x e k)
      .next (s.drain s.cur.tile)

/-- The 8 bytes of a register with its poison. -/
def regBytes (v : W64) (poison : Bool) : List PByte :=
  (List.range 8).map (fun i => ((v.extractLsb' (8 * i) 8 : Byte), poison))

def execSendt (g h : BitVec 6) (a l : BitVec 1) (sc : BitVec 3) (s : State) : Res :=
  let ch := h.toNat
  orTrap [refuseIf s (s.here.lenRefused ch 8)] s fun s =>
    let k := s.here.takeOf ch 1
    waitOr (s.here.windowOpen ch k) 1 s fun s =>
      let x := s.cur.ctx
      let data := regBytes (s.gv g.toNat) (s.gp g.toNat)
      let e := s.here.sendEmission x ch 0 8 (some data) (a == 1#1) (l == 1#1) sc.toNat
      let s := s.modHere (fun T => ((T.takeWindow ch k).wideRelease x (l == 1#1) sc.toNat).sendOut x e k)
      .next (s.drain s.cur.tile)

/-! ### RECV, CHWAIT (R405, R406) -/

/-- Send the deferred return of channel n, when one is pending (R86). -/
def Tile.sendDeferred (T : Tile) (n : Nat) (ctx0 : Bool) : Tile :=
  match (T.chan n).deferred with
  | none => T
  | some (lines, pkts) => (T.setChan n { T.chan n with deferred := none }).returnLines n lines pkts ctx0

/-- A payload consumed by context 0 in an open, protected pass is kept for a rollback (R295, R296). -/
def Tile.eat (T : Tile) (x n : Nat) (p : Payload) : Tile :=
  if x = 0 ∧ T.passOpen then
    let P : Pass := { T.pass with eaten := T.pass.eaten ++ [(n, p)] }
    { T with pass := P }
  else T

/-- RECV (R405). The deferred return of the last RECV is sent even when this one waits. -/
def execRecv (g h : BitVec 6) (s : State) : Res :=
  let n := h.toNat
  let x := s.cur.ctx
  let T := s.here
  orTrap [refuseIf s (T.chanMode n != 2 || bit (T.arm n) 16 || T.queued n != 0)] s fun s =>
    let s := s.modHere (·.sendDeferred n (x == 0))
    match (s.here.chan n).ready with
    | [] => .next (s.waitFor 5)
    | p :: l =>
      let s := s.modHere (fun T =>
        let T := (T.setChan n { T.chan n with ready := l }).advanceRp n p.lines
        ((T.mergeStamp p.stamp).acquire x).eat x n p)
      match p.lost with
      | some q =>
        let s := s.modHere (fun T => T.returnLines n p.lines (T.retPkts n) (x == 0))
        .next ({ s with cur := { s.cur with kept := true } }.raise 0x0C (causalChan n q))
      | none =>
        let s := s.modHere (fun T => T.setChan n { T.chan n with deferred := some (p.lines, T.retPkts n) })
        .next (s.landHold (gKey g.toNat) (gval (w64 (p.addr + p.len * 2 ^ 32)) false))

/-- Every earlier SEND of context x on channel n has read its buffer. -/
def Tile.sendsRead (T : Tile) (x n : Nat) : Bool :=
  T.emitq.all (fun e => e.ctx != x || e.ch != n || e.place || e.data.isSome) &&
    T.pass.held.all (fun e => e.ctx != x || e.ch != n || e.place || e.box.isNone)

def execChwait (h : BitVec 6) (s : State) : Res :=
  let n := h.toNat
  let x := s.cur.ctx
  let m := s.here.chanMode n
  orTrap [refuseIf s (m != 1 && m != 2)] s fun s =>
    if m = 2 then .next (s.modHere (·.sendDeferred n (x == 0)))
    else waitOr (s.here.sendsRead x n) 2 s fun s =>
      .next (s.modHere (·.trkRetire (fun k => k == TrkKind.send x n)))

/-! ### CHARM, CHSTAT (R407, R408) -/

/-- The refusals of CHARM. -/
def Tile.armRefused (T : Tile) (n : Nat) (v : W64) : Bool :=
  T.chanMode n != 2 || !bit (T.cfg n) 42 || (bit v 16 && fld v 14 2 == 0) ||
    (bit v 16 && decide (10921 < fld v 0 14)) || (T.chan n).deferred.isSome || fld v 17 47 != 0

/-- A payload as the arrival of an armed channel. -/
def Payload.arrival (p : Payload) (n : Nat) : Arrival :=
  { ch := n, addr := p.addr, len := p.len, src := p.src, stamp := p.stamp, lost := p.lost, lines := p.lines }

/-- The unconsumed payloads of a channel just armed become arrivals in ring order (R407). -/
def State.armReady (s : State) (t n : Nat) : State :=
  let T := s.tile t
  if bit (T.arm n) 16 then
    let ps := (T.chan n).ready
    let s := s.modTile t (fun T => T.setChan n { T.chan n with ready := [] })
    ps.foldl (fun s p => s.deliverArrival t (fld (T.arm n) 14 2) (p.arrival n)) s
  else s

def execCharm (g h : BitVec 6) (s : State) : Res :=
  let n := h.toNat
  let v := s.gv g.toNat
  orTrap [refuseIf s (s.here.armRefused n v), poisonIf s (s.gp g.toNat)] s fun s =>
    let s := s.modHere (·.setCr (0x280 + n) (w64 (fld v 0 17)))
    .next (s.armReady s.cur.tile n)

/-- The ready bit of CHSTAT (R408). -/
def Tile.chanReady (T : Tile) (n : Nat) : Bool :=
  let st := T.cst n
  if T.chanMode n = 1 then 1 ≤ fld st 32 16 && (!bit (T.cfg n) 42 || decide (1 ≤ fld st 48 5))
  else if T.chanMode n = 2 then !(T.chan n).ready.isEmpty || T.queued n != 0
  else false

def execChstat (g h : BitVec 6) (s : State) : Res :=
  let n := h.toNat
  .next (s.landG g.toNat (setBit (s.here.cst n) 63 (s.here.chanReady n)) false 2)

end Sys2Proof.Machine
end

