-- ==== Sys2Proof/Machine/TileReg.lean ====
section
/-! DEFINITION. The TILE words (R383 to R385), ownership (R212), the order of queued operations (R380, R381) and
the end of a tile load or store (R384). -/

namespace Sys2Proof.Machine

open Host Sys2Proof

/-! ### Ownership (R211, R212, R382) -/

/-- A tile register is free when valid = 0 and it is not in flight (R212). -/
def Tile.tfree (T : Tile) (i : Nat) : Bool := !(T.treg i).valid && !T.inflight i

/-- TILEOWN: the lowest of the named registers that another context owns (R212, R230). -/
def ownCheck (s : State) (regs : List Nat) : Option (Nat × W64) :=
  match regs.find? (fun i => !s.here.tfree i && (s.here.treg i).owner != some s.cur.ctx) with
  | some i => some (0x0F, w64 (i + ((s.here.treg i).owner.getD 0) * 8))
  | none => none

/-- A free target becomes the context's, and reads as zero (R212, R382). -/
def Tile.claim (T : Tile) (x i : Nat) : Tile :=
  if T.tfree i then T.setTreg i { owner := some x } else T

def Tile.claimAll (T : Tile) (x : Nat) (l : List Nat) : Tile := l.foldl (fun T i => T.claim x i) T

/-- Element (r, n) of a tile register: a free one supplies 0 (R382). -/
def Tile.elem (T : Tile) (i r n : Nat) : W32 :=
  if T.tfree i then 0#32 else mget 0#32 (T.treg i).data (256 * r + n)

def TReg.put (r : TReg) (row n : Nat) (v : W32) : TReg := { r with data := mset 0#32 r.data (256 * row + n) v }

/-- A completed write: valid and dirty (R382). -/
def Tile.written (T : Tile) (i : Nat) (ok : Bool) : Tile :=
  let q : TReg := { T.treg i with valid := ok, dirty := true }
  T.setTreg i q

/-! ### Order across the three queues (R380, R381) -/

/-- Registers an array operation reads and writes. -/
def MatOp.reads (o : MatOp) : List Nat := (if o.kind = 2 then [o.tp] else []) ++ (if o.z then [] else o.tds)
def MatOp.writes (o : MatOp) : List Nat := o.tds
def XferOp.reads (o : XferOp) : List Nat := if o.store then [o.t] else []
def XferOp.writes (o : XferOp) : List Nat := if o.store then [] else [o.t]

def meets (a b : List Nat) : Bool := a.any (fun x => b.contains x)

/-- An operation at place `seq` that reads `rd` and writes `wr` must wait for an earlier one. -/
def Tile.blockedRegs (T : Tile) (seq : Nat) (rd wr : List Nat) : Bool :=
  T.aq.any (fun e => decide (e.seq < seq) && (meets e.writes (rd ++ wr) || meets e.reads wr)) ||
    T.tq.any (fun e => decide (e.seq < seq) && (meets e.writes (rd ++ wr) || meets e.reads wr))

/-- A synchronous word that names register i waits for it: not in flight, and read by every earlier reader (R381). -/
def Tile.tready (T : Tile) (i : Nat) : Bool := !T.inflight i && !T.aq.any (fun o => o.reads.contains i)

/-! ### TLD and TST (R384) -/

def transfer (store : Bool) (t : BitVec 3) (c : BitVec 4) (r : BitVec 5) (a l : BitVec 1) (sc : BitVec 3)
    (s : State) : Res :=
  let rows := r.toNat + 1
  let off : Int := s.cur.addrOff
  let n := 1024 * rows
  let addr := s.padAddr c.toNat off
  let x := s.cur.ctx
  let i := t.toNat
  orTrap [s.padCap c.toNat off n ((if store then permW else permR) + permAG) 64,
      s.trkCheck addr (addr + n) store true, poisonIf s (s.c c.toNat).poison, ownCheck s [i]] s fun s =>
  waitOr (s.here.tq.length < 4) 7 s fun s =>
  trackerOr s fun s =>
  scopeOr (a == 1#1) (l == 1#1) sc.toNat s fun s =>
    .next (s.modHere (fun T =>
      let T := if l = 1#1 ∧ 1 ≤ sc.toNat then T.release else T
      let T := (T.trkAdd (.tile x i (a == 1#1 && 1 ≤ sc.toNat)) store addr (addr + n) false).getD T
      let T := T.claim x i
      let op : XferOp := { ctx := x, store := store, t := i, addr := addr, rows := rows, seq := T.opSeq }
      { T with tq := T.tq ++ [op], opSeq := T.opSeq + 1 }))

def execTld (t : BitVec 3) (c : BitVec 4) (r : BitVec 5) (a l : BitVec 1) (sc : BitVec 3) (s : State) : Res :=
  transfer false t c r a l sc s
def execTst (t : BitVec 3) (c : BitVec 4) (r : BitVec 5) (a l : BitVec 1) (sc : BitVec 3) (s : State) : Res :=
  transfer true t c r a l sc s

/-- TLD: element (r, n) is the 4 bytes at a + 1024 r + 4 n. -/
def Tile.loadRows (T : Tile) (o : XferOp) : TReg :=
  (List.range (256 * o.rows)).foldl (fun (q : TReg) (k : Nat) =>
    q.put (k / 256) (k % 256) (BitVec.ofNat 32 (T.padRead (o.addr + 4 * k) 4))) (T.treg o.t)

/-- TST: the rows as bytes of the pad, with tags and clean poison of an engine write of the context (R281). -/
def Tile.storeRows (T : Tile) (o : XferOp) : Tile :=
  (List.range (128 * o.rows)).foldl (fun (T' : Tile) (k : Nat) =>
    let lo := T.elem o.t (2 * k / 256) (2 * k % 256)
    let hi := T.elem o.t ((2 * k + 1) / 256) ((2 * k + 1) % 256)
    T'.padWrite o.ctx (o.addr + 8 * k) 8 (lo.toNat + hi.toNat * 2 ^ 32) false) T

/-- The lowest poisoned row of a transfer. -/
def Tile.poisonRow (T : Tile) (addr rowBytes rows : Nat) : Option Nat :=
  (List.range rows).find? (fun r => T.padPoisoned (addr + rowBytes * r) rowBytes)

/-- CTX_EINFO of a matrix or tile POISON: engine layout, token 0x8, the row as the element, [44] (R230, R384). -/
def matPoison (row seq : Nat) : MatStatus := ⟨0x0B#8, w64 (8 + row * 16 + 2 ^ 44), seq⟩

/-- TRANSFER_COMPLETE (R384): the oldest TLD or TST, once nothing earlier holds it back (R381), finishes its rows;
the in-flight bit clears. A poisoned row leaves td with valid = 0, and POISON comes at the next packet
boundary. -/
def execTransferComplete (t : BitVec 14) (s : State) : Res :=
  let T := s.tile t.toNat
  if 15360 ≤ t.toNat then .fault .offWafer
  else if T.frozen then .next s
  else match T.tq with
  | [] => .next s
  | o :: l =>
    if T.blockedRegs o.seq o.reads o.writes then .next s
    else if o.store then
      let T' : Tile := { T.storeRows o with tq := l }
      let q : TReg := { T'.treg o.t with dirty := false }
      .next (s.setTile t.toNat (if o.rows = 32 then T'.setTreg o.t q else T'))
    else
      let bad := T.poisonRow o.addr 1024 o.rows
      let T' := ({ T.setTreg o.t (T.loadRows o) with tq := l }).written o.t bad.isNone
      .next (s.setTile t.toNat (match bad with
        | none => T'
        | some r => T'.modCtx o.ctx (fun c => { c with boundPend := c.boundPend ++ [matPoison r o.seq] })))

/-! ### Synchronous words (R385) -/

/-- A synchronous word that reads and writes the named registers: TILEOWN, then the wait of R381. -/
def syncTile (regs : List Nat) (s : State) (k : State → Res) : Res :=
  orTrap [ownCheck s regs] s fun s => waitOr (regs.all (fun i => s.here.tready i)) 2 s k

def execTzero (t : BitVec 3) (s : State) : Res :=
  syncTile [t.toNat] s fun s =>
    .next (s.modHere (fun T => T.setTreg t.toNat (TReg.mk [] true true (some s.cur.ctx))))

/-- TZERO.INV: on a free register it has no effect. -/
def execTzeroInv (t : BitVec 3) (s : State) : Res :=
  syncTile [t.toNat] s fun s =>
    .next (s.modHere (fun T => if T.tfree t.toNat then T else T.setTreg t.toNat {}))

def execTmov (t sr : BitVec 3) (s : State) : Res :=
  syncTile [t.toNat, sr.toNat] s fun s =>
    .next (s.modHere (fun T =>
      let src := if T.tfree sr.toNat then [] else (T.treg sr.toNat).data
      T.setTreg t.toNat (TReg.mk src true true (some s.cur.ctx))))

/-- TLDV: a poisoned lane leaves td with valid = 0, and raises POISON at the next packet boundary (R293). -/
def execTldv (t : BitVec 3) (v r : BitVec 5) (b : BitVec 3) (s : State) : Res :=
  syncTile [t.toNat] s fun s =>
    let bad := (List.range 32).any (fun i => (s.lane v.toNat i).poison)
    let s' := s.modHere (fun T =>
      let T := T.claim s.cur.ctx t.toNat
      let q := (List.range 32).foldl (fun (q : TReg) (i : Nat) =>
        q.put r.toNat (32 * b.toNat + i) (s.lane v.toNat i).lo32) (T.treg t.toNat)
      (T.setTreg t.toNat q).written t.toNat (!bad))
    .next (if bad then s'.modMe (fun c => { c with boundPend := c.boundPend ++ [matPoison r.toNat s.here.opSeq] }) else s')

/-- TSTV: the lanes land by R312, and are never poisoned. -/
def execTstv (t : BitVec 3) (v r : BitVec 5) (b : BitVec 3) (s : State) : Res :=
  syncTile [t.toNat] s fun s =>
    .next ((List.range 32).foldl (fun (s' : State) (i : Nat) =>
      s'.landHold (vKey v.toNat i) (lval (s.here.elem t.toNat r.toNat (32 * b.toNat + i)) false)) s)

/-- The tracker entry is of a transfer of register t. -/
def TrkKind.moves (t : Nat) (k : TrkKind) : Bool :=
  match k with
  | .tile _ i _ => i == t
  | _ => false

/-- The entry is of a transfer of register t with ACQ at TILE or wider. -/
def TrkKind.movesAcq (t : Nat) (k : TrkKind) : Bool :=
  match k with
  | .tile _ i a => a && i == t
  | _ => false

/-- TSTAT never waits and never raises TILEOWN; reading inflight = 0 it retires the tracker entries of the
register's loads and stores (R275, R384). It consumes their completion, so those with ACQ at TILE or wider are acquires of the
context (R281; DEDUCED, log 17: as XWAIT is for an engine command). -/
def execTstat (t : BitVec 3) (g : BitVec 6) (s : State) : Res :=
  let T := s.here
  let v := w64 (T.tstat t.toNat)
  let s := if T.inflight t.toNat then s
    else s.modHere (fun T =>
      let acq := T.trk.any (fun e => e.kind.movesAcq t.toNat)
      let T := T.trkRetire (·.moves t.toNat)
      if acq then T.acquire s.cur.ctx else T)
  .next (s.landG g.toNat v false 2)

end Sys2Proof.Machine
end

