-- ==== Sys2Proof/Machine/Matrix.lean ====
section
/-! DEFINITION. The matrix words (R386 to R398). -/

namespace Sys2Proof.Machine

open Host Sys2Proof

/-! ### Sharing the unit (R267) -/

/-- The nest that runs: begun and not paused. -/
def Tile.runningNest (T : Tile) : Option MatOp :=
  if T.paused.isSome then none else T.aq.find? (fun o => o.kind == 3 && o.begun)

/-- MATBUSY: another context's nest is running (R267, R230). -/
def matBusy (s : State) : Option (Nat × W64) :=
  match s.here.runningNest with
  | some o => cond (o.ctx != s.cur.ctx) 0x0E (w64 o.ctx)
  | none => none

/-- The format of a set by the last MLDB to it issued earlier (R387). -/
def Tile.setFmt (T : Tile) (k : Nat) : Nat :=
  match (T.lq.filter (fun l => l.set == k)).getLast? with
  | some l => l.fmt
  | none => (mget {} T.sets k : MacroSet).fmt

/-- XERR of the matrix unit: source 2, element 0 (R230, R387, R392). -/
def matXerr (b : Bool) (token : Nat) : Option (Nat × W64) := cond b 0x0D (w64 (token + 2 * 2 ^ 40))

/-- Bands that take part, as columns (R259). -/
def columns (bands : BitVec 4) : List Nat := (List.range 256).filter (fun n => bands.getLsbD (n / 64))

/-- A wake of each named gated band is started: it joins its field's queue for admission (R195). -/
def State.wakeBands (s : State) (t : Nat) (bands : BitVec 4) : State :=
  (List.range 4).foldl (fun (s : State) (b : Nat) =>
    let w := (s.tile t).cr 0x502
    if bands.getLsbD b && !bit w (15 + b) && !bit w (19 + b) then
      (s.modTile t (·.modCr 0x502 (setBit · (19 + b) true))).modField (s.tileField t)
        (fun F => { F with wakeQ := F.wakeQ ++ [(t, b)] })
    else s) s

/-- An operation enters the array queue (R380). -/
def Tile.pushArray (T : Tile) (o : MatOp) : Tile :=
  { T with aq := T.aq ++ [{ o with seq := T.opSeq }], opSeq := T.opSeq + 1 }

/-! ### MMA and MMAS (R387) -/

/-- Bytes of one row of the A block. -/
def rowBytes (f segs : Nat) : Nat := matBytes f (32 * segs)

/-- The target registers: td, or td to td + S − 1 for MMAS, those that exist. -/
def targets (mmas : Bool) (td segs : Nat) : List Nat :=
  if mmas then (fromTo td (td + segs - 1)).filter (· < 8) else [td]

/-- A direct array operation: its checks, the stall of R380, its tracker entry, and its place in the queue. With no
band taking part it completes at once and reads nothing (R259). -/
def arrayOp (o : MatOp) (off : Int) (c : BitVec 4) (n align : Nat) (named : List Nat)
    (xerr : Option (Nat × W64)) (s : State) : Res :=
  let addr := s.padAddr c.toNat off
  orTrap [s.padCap c.toNat off n (permR + permAG) align, s.trkCheck addr (addr + n) false true,
      poisonIf s (s.c c.toNat).poison, xerr, matBusy s, ownCheck s named] s fun s =>
    if o.bands = 0 then .next s
    else
      waitOr (s.here.aq.length < 8) 7 s fun s =>
      trackerOr s fun s =>
        let s := s.modHere (fun T =>
          let T := (T.trkAdd (.direct o.ctx) false addr (addr + n) false).getD T
          (T.claimAll o.ctx named).pushArray { o with addr := addr })
        .next (s.wakeBands s.cur.tile o.bands)

def matMul (mmas : Bool) (t : BitVec 3) (c : BitVec 4) (f : BitVec 3) (r : BitVec 5) (sg : BitVec 3) (b z l : BitVec 1)
    (s : State) : Res :=
  let x := s.cur.ctx
  let fmt := f.toNat
  let rows := r.toNat + 1
  let segs := sg.toNat + 1
  let tds := targets mmas t.toNat segs
  let o₀ : MatOp := { kind := mmas.toNat, ctx := x, td := t.toNat, fmt := fmt, rows := rows, segs := segs, tds := tds }
  let o₁ : MatOp := { o₀ with set := b.toNat, z := z == 1#1, fl := l == 1#1, bands := s.me.matShape }
  let o : MatOp := { o₁ with level := s.me.matFid.toNat % 4, gen := s.me.runNo }
  let bad := matFloat fmt != matFloat (s.here.setFmt b.toNat) ||
    (mmas && (!matFloat fmt || decide (7 < t.toNat + segs - 1)))
  arrayOp o s.cur.addrOff c (rows * rowBytes fmt segs) 16 tds (matXerr bad 8) s

def execMma (t : BitVec 3) (c : BitVec 4) (f : BitVec 3) (r : BitVec 5) (sg : BitVec 3) (b z l : BitVec 1)
    (s : State) : Res := matMul false t c f r sg b z l s
def execMmas (t : BitVec 3) (c : BitVec 4) (f : BitVec 3) (r : BitVec 5) (sg : BitVec 3) (b z l : BitVec 1)
    (s : State) : Res := matMul true t c f r sg b z l s

/-- SCACC (R390): both registers are named; it occupies the array in queue order. -/
def execScacc (d : BitVec 3) (c : BitVec 4) (p : BitVec 3) (r : BitVec 5) (i u : BitVec 1) (s : State) : Res :=
  let o₀ : MatOp := { kind := 2, ctx := s.cur.ctx, td := d.toNat, tp := p.toNat, rows := r.toNat + 1, tds := [d.toNat] }
  let o : MatOp := { o₀ with fzi := i == 1#1, fl := u == 1#1, bands := s.me.matShape, gen := s.me.runNo }
  let own := ownCheck s [d.toNat, p.toNat]
  let addr := s.padAddr c.toNat s.cur.addrOff
  orTrap [s.padCap c.toNat s.cur.addrOff 1152 (permR + permAG) 64, s.trkCheck addr (addr + 1152) false true,
      poisonIf s (s.c c.toNat).poison, matBusy s, own] s fun s =>
    arrayOp o s.cur.addrOff c 1152 64 [d.toNat] none s

/-! ### MLDB (R389) -/

/-- MLDB to a set that a running, paused or queued operation of another context reads raises MATBUSY (R267). -/
def setBusy (s : State) (k : Nat) : Option (Nat × W64) :=
  match s.here.aq.find? (fun o => o.kind != 2 && o.set == k && o.ctx != s.cur.ctx) with
  | some o => some (0x0E, w64 o.ctx)
  | none => none

def execMldb (c : BitVec 4) (f : BitVec 3) (b i : BitVec 1) (s : State) : Res :=
  let n := matBytes f.toNat 65536
  let addr := s.padAddr c.toNat 0
  let x := s.cur.ctx
  orTrap [s.padCap c.toNat 0 n (permR + permAG) 64, s.trkCheck addr (addr + n) false true,
      poisonIf s (s.c c.toNat).poison, matBusy s, setBusy s b.toNat] s fun s =>
  waitOr (s.here.lq.length < 2) 7 s fun s =>
  trackerOr s fun s =>
    .next (s.modHere (fun T =>
      let T := (T.trkAdd (.direct x) false addr (addr + n) false).getD T
      let o : LdOp := { ctx := x, addr := addr, fmt := f.toNat, set := b.toNat, fzi := i == 1#1, seq := T.opSeq }
      { T with lq := T.lq ++ [o], opSeq := T.opSeq + 1 }))

/-! ### Nests (R391 to R394) -/

def Tile.nw (T : Tile) (slot j : Nat) : W64 := T.cr (0x410 + 8 * slot + j)
def Tile.nestState (T : Tile) (slot : Nat) : Nat := fld (T.nw slot 1) 33 2
def Tile.nestOwner (T : Tile) (slot : Nat) : Nat := fld (T.nw slot 1) 35 2
def Tile.setNestState (T : Tile) (slot st : Nat) : Tile := T.modCr (0x411 + 8 * slot) (setFld · 33 2 st)
def Tile.nest (T : Tile) (slot : Nat) : NestRun := mget {} T.nests slot
def Tile.setNest (T : Tile) (slot : Nat) (n : NestRun) : Tile := { T with nests := mput T.nests slot n }

def Tile.nestCnt (T : Tile) (slot j : Nat) : Nat := fld (T.nw slot 0) (10 * j) 10
def Tile.nestStride (T : Tile) (slot j : Nat) : Int := sext (fld (T.nw slot (3 + j / 2)) (32 * (j % 2)) 32) 32
def Tile.nestTinc (T : Tile) (slot j : Nat) : Int := sext (fld (T.nw slot 6) (4 * j) 4) 4
def Tile.nestRows (T : Tile) (slot : Nat) : Nat := fld (T.nw slot 1) 4 5 + 1
def Tile.nestSegs (T : Tile) (slot : Nat) : Nat := fld (T.nw slot 1) 9 3 + 1
def Tile.nestFmt (T : Tile) (slot : Nat) : Nat := fld (T.nw slot 1) 1 3
def Tile.nestMmas (T : Tile) (slot : Nat) : Bool := bit (T.nw slot 1) 0

/-- Σ over the levels. -/
def levelSum (f : Nat → Int) : Int := (List.range 6).foldl (fun (acc : Int) j => acc + f j) 0

/-- The bounding range of every iteration's A block, as offsets from the cursor (R392). -/
def Tile.nestRange (T : Tile) (slot : Nat) : Int × Int :=
  let abase := sext (fld (T.nw slot 2) 0 32) 32
  let reach := fun (j : Nat) => T.nestStride slot j * (T.nestCnt slot j : Int)
  (abase + levelSum (fun j => min 0 (reach j)),
   abase + levelSum (fun j => max 0 (reach j)) + (T.nestRows slot * rowBytes (T.nestFmt slot) (T.nestSegs slot) : Nat))

/-- Every register the nest can target (R393): residues mod 8. -/
def Tile.nestTargets (T : Tile) (slot : Nat) : List Nat :=
  let base := (List.range 6).foldl (fun (l : List Nat) (j : Nat) =>
    (List.range 8).filter (fun r => l.any (fun q => (fromTo 0 (min 7 (T.nestCnt slot j))).any (fun (k : Nat) =>
      ((q : Int) + k * T.nestTinc slot j) % 8 == (r : Int))))) [fld (T.nw slot 1) 26 3]
  if T.nestMmas slot then (List.range 8).filter (fun r => base.any (fun q => decide (q ≤ r) && decide (r < q + T.nestSegs slot)))
  else base

/-- The cooperative fields of w7 (R391). -/
structure Coop where
  chw : Nat
  che : Nat
  chn : Nat
  chs : Nat
  cx : Nat
  cy : Nat
  w : Nat
  h : Nat
  ks : Nat

def Tile.coop (T : Tile) (slot : Nat) : Coop :=
  let v := T.nw slot 7
  ⟨fld v 0 6, fld v 6 6, fld v 12 6, fld v 18 6, fld v 24 2, fld v 26 5, fld v 31 2, fld v 33 5, fld v 38 2⟩

def Coop.west (k : Coop) : Bool := 0 < k.cx
def Coop.east (k : Coop) : Bool := k.cx < k.w
def Coop.north (k : Coop) : Bool := 0 < k.cy % 2 ^ k.ks
def Coop.south (k : Coop) : Bool := k.cy % 2 ^ k.ks < 2 ^ k.ks - 1

/-- The constraints of R394. -/
def Tile.coopOk (T : Tile) (slot : Nat) : Bool :=
  let k := T.coop slot
  let chan := fun (n mode : Nat) => T.chanMode n == mode && !bit (T.arm n) 16
  !T.nestMmas slot && (k.h + 1) % 2 ^ k.ks == 0 && decide ((k.h + 1) / 2 ^ k.ks ≤ 4) && decide (k.cx ≤ k.w) &&
    decide (k.cy ≤ k.h) && (!k.west || chan k.chw 2) && (!k.east || chan k.che 1) && (!k.north || chan k.chn 2) &&
    (!k.south || chan k.chs 1)

/-- The XERR checks of MGO (R392). -/
def Tile.nestBad (T : Tile) (slot : Nat) (co : Bool) : Bool :=
  let w1 := T.nw slot 1
  T.nestState slot != 0 || decide (5 < fld w1 14 3) || fld w1 20 2 == 3 ||
    (T.nestMmas slot && !matFloat (T.nestFmt slot)) ||
    matFloat (T.nestFmt slot) != matFloat (T.setFmt (fld w1 12 1)) || (co && !T.coopOk slot)

/-- The alignment of every A address of the nest: 16 bytes, as for MMA (R387, R392). -/
def Tile.nestAligned (T : Tile) (slot : Nat) (cursor : Int) : Bool :=
  (cursor + sext (fld (T.nw slot 2) 0 32) 32) % 16 == 0 &&
    (List.range 6).all (fun j => T.nestCnt slot j == 0 || T.nestStride slot j % 16 == 0)

/-- The place of a cooperative nest's payloads in the order of emission, where the tile sends any (R274, R394). -/
def Tile.coopPlace (T : Tile) (x slot : Nat) (co : Bool) : Tile :=
  if co && ((T.coop slot).east || (T.coop slot).south) then T.enqueue { seq := 0, ctx := x, nest := some slot } else T

/-- MGO and MGO.CO (R392): the capability is copied, the slot is QUEUED, and the nest joins the array queue. With no band taking part the
nest is DONE at once, and reads and writes nothing (R259). -/
def goNest (co : Bool) (sl : BitVec 2) (s : State) : Res :=
  let slot := sl.toNat
  let x := s.cur.ctx
  let T := s.here
  let cr := fld (T.nw slot 1) 29 4
  let v := s.c cr
  let lo := (T.nestRange slot).1
  let hi := (T.nestRange slot).2
  let n := (hi - lo).toNat
  let addr := s.padAddr cr lo
  let tds := T.nestTargets slot
  let bands : BitVec 4 := BitVec.ofNat 4 (fld (T.nw slot 1) 22 4)
  orTrap [s.padCap cr lo n (permR + permAG) 1,
      cond (!T.nestAligned slot (capAddr v)) 0x04 (alignInfo s.cur.word (capAt v lo)),
      s.trkCheck addr (addr + n) false true, poisonIf s v.poison, matXerr (T.nestBad slot co) slot, matBusy s,
      ownCheck s tds] s fun s =>
  let owned := fun (T : Tile) (st : Nat) => (T.setNestState slot st).modCr (0x411 + 8 * slot) (setFld · 35 2 x)
  if bands = 0#4 then .next (s.modHere (fun T => (owned T 3).setNest slot {}))
  else
  waitOr (s.here.aq.length < 8) 7 s fun s =>
  trackerOr s fun s =>
    let s := s.modHere (fun T =>
      let T := (T.trkAdd (.nest slot) false addr (addr + n) false).getD T
      let T := owned T 1
      let run : FidRun := { level := fld (T.nw slot 1) 18 2, rate := fld (T.nw slot 1) 20 2 }
      let T := T.setNest slot { cap := v, run := run, seq := T.opSeq }
      let k := fld (T.nw slot 1) 12 1
      let o : MatOp := { kind := 3, ctx := x, td := 0, slot := slot, coop := co, tds := tds, set := k, rows := T.nestRows slot, bands := bands }
      ((T.claimAll x tds).coopPlace x slot co).pushArray o)
    .next (s.wakeBands s.cur.tile bands)

def execMgo (sl : BitVec 2) (s : State) : Res := goNest false sl s
def execMgoCo (sl : BitVec 2) (s : State) : Res := goNest true sl s

/-! ### The operation that runs -/

/-- The nest that MPAUSE has stopped. -/
def Tile.isPaused (T : Tile) (o : MatOp) : Bool := o.kind == 3 && T.paused == some o.slot

/-- The operation that occupies the array: one that has begun and is not paused; a resumed nest continues after the
operation then running (R267). -/
def Tile.runningOp (T : Tile) : Option MatOp :=
  match T.aq.find? (fun o => o.begun && o.kind != 3) with
  | some o => some o
  | none => T.aq.find? (fun o => o.begun && !T.isPaused o)

/-- The run that an operation belongs to. -/
def Tile.runOf (T : Tile) (o : MatOp) : FidRun :=
  let c := T.ctx o.ctx
  if o.kind = 3 then (T.nest o.slot).run else if o.gen = c.runNo then c.run else mget {} c.oldRuns o.gen

/-- MAT_CSEG and the period fields of MAT_ERRCNT show the running operation's run (R269). -/
def Tile.showRun (T : Tile) (r : FidRun) : Tile :=
  let T := T.setCr 0x407 (w64 (r.cseg % 2 ^ 34))
  (List.range 3).foldl (fun (T : Tile) (k : Nat) => T.modCr (0x404 + k) (setFld · 32 8 (sat (r.err.getD k 0) 255))) T

/-- The run of the operation that runs now is shown. -/
def Tile.showRunning (T : Tile) : Tile :=
  match T.runningOp with
  | some o => T.showRun (T.runOf o)
  | none => T

/-! ### MPAUSE and MRESUME -/

/-- MPAUSE waits until another context's running nest stops at its iteration boundary (R267, R396). -/
def execMpause (s : State) : Res :=
  match s.here.runningNest with
  | some o =>
    if o.ctx = s.cur.ctx then .next s
    else .next ((s.modHere (fun T => { T with pauseReq := true })).waitFor 2)
  | none => .next s

/-- MRESUME (R396). -/
def execMresume (s : State) : Res :=
  orTrap [matBusy s] s fun s =>
    .next (match s.here.paused with
      | some slot => s.modHere (fun T => ({ T with paused := none }.modCr (0x411 + 8 * slot) (setBit · 37 false)).showRunning)
      | none => s)

/-! ### MWAIT (R395) -/

/-- The status of the lowest code among those pending on a token. -/
def statusOf (fid : BitVec 3) (slot : Nat) (pend : List MatStatus) : Option (Nat × W64) :=
  lowest (cond (fid != 0) 0x0A (w64 (fid.toNat + slot * 8)) :: pend.map (fun e => some (e.cause.toNat, e.info)))

/-- A status is raised; what the word has done stands. -/
def raiseStatus (st : Option (Nat × W64)) (s : State) : State :=
  match st with
  | some (cause, info) => { s with cur := { s.cur with kept := true } }.raise cause info
  | none => s

/-- Every direct operation of the context has completed. -/
def Tile.directDone (T : Tile) (x : Nat) : Bool :=
  T.aq.all (fun o => o.ctx != x || o.kind == 3) && T.lq.all (fun o => o.ctx != x)

/-- MATBUSY belongs to the issue of an MWAIT: one that waits already only waits on (R267, R395; DEDUCED, log 14). -/
def mwaitBusy (s : State) : Option (Nat × W64) := if s.me.mwaits then none else matBusy s

/-- An MWAIT waits with reason 2 until `ok` holds; from then on it waits no more. -/
def mwaitOr (ok : Bool) (s : State) (k : State → Res) : Res :=
  if ok then k (s.modMe (fun c => { c with mwaits := false }))
  else .next ((s.modMe (fun c => { c with mwaits := true })).waitFor 2)

def execMwait (s : State) : Res :=
  let x := s.cur.ctx
  orTrap [mwaitBusy s] s fun s =>
  mwaitOr (s.here.directDone x) s fun s =>
    let st := statusOf s.me.run.pend 0 s.me.matPend
    let s := (s.modHere (·.trkRetire (fun k => k == TrkKind.direct x))).modMe (fun c =>
      let run : FidRun := { c.run with pend := 0 }
      { c with matPend := [], run := run })
    .next (raiseStatus st s)

def execMwaitNest (sl : BitVec 2) (s : State) : Res :=
  let slot := sl.toNat
  orTrap [mwaitBusy s] s fun s =>
    mwaitOr (s.here.nestState slot = 0 || s.here.nestState slot = 3) s fun s =>
      if s.here.nestState slot = 0 ∨ s.here.nestOwner slot ≠ s.cur.ctx then .next s
      else
        let n := s.here.nest slot
        let st := statusOf n.run.pend slot n.pend
        let s := s.modHere (fun T =>
          ((T.trkRetire (fun k => k == TrkKind.nest slot)).setNestState slot 0).setNest slot {})
        .next (raiseStatus st s)

/-! ### MWAKE, MSHAPE, MFID, MREP (R397, R398) -/

def execMwake (b : BitVec 4) (s : State) : Res :=
  orTrap [matBusy s] s fun s => .next (s.wakeBands s.cur.tile b)

/-- MSHAPE: matrix words see the value at once, MFC by R206. -/
def execMshape (b : BitVec 4) (s : State) : Res :=
  orTrap [matBusy s] s fun s =>
    .next ((s.modMe (fun c => { c with matShape := b })).queueShown 0x400 (b.setWidth 64))

/-- MFID: the direct-issue run ends and a new one starts. -/
def execMfid (l r : BitVec 2) (s : State) : Res :=
  let v : BitVec 4 := r ++ l
  orTrap [matBusy s] s fun s =>
    .next ((s.modHere (·.newRun s.cur.ctx v)).queueShown 0x401 (v.setWidth 64))

/-- MREP: the next packet's word 2 is the head (R398). -/
def execMrep (n : BitVec 10) (a b d : BitVec 5) (s : State) : Res :=
  orTrap [matBusy s] s fun s =>
    let r := Repeat.mk true 0 (n.toNat + 1) 0 a.toNat b.toInt d.toInt s.me.sMode
    .next (s.modMe (fun c => { c with rep := some r }))

end Sys2Proof.Machine
end

