-- ==== Sys2Proof/Machine/Xen.lean ====
section
/-! DEFINITION. The engine words and the requests of engine commands (R123 to R127, R295 to R297, R409 to R416). -/

namespace Sys2Proof.Machine

open Host Sys2Proof

/-! ### Issue (R411) -/

/-- Width of an XRED item (R142) and of an XATOM (R360), from the arg field. -/
def redWidth (arg : Nat) : Nat := if arg / 2 % 8 = 2 ∨ arg / 2 % 8 = 3 then 8 else 4
def atomWidth (arg : Nat) : Nat := if arg / 4 % 2 = 1 then 8 else 4
def atomFn (arg : Nat) : Nat := arg / 8 % 16

/-- The command writes the pad: XLD and XATOM. -/
def Cmd.writesPad (m : Cmd) : Bool := m.op == 0 || m.op == 3
/-- Its requests are stamped writes: XST, XRED and XATOM (R413). -/
def Cmd.stamped (m : Cmd) : Bool := 1 ≤ m.op && m.op ≤ 3
/-- Its completion is consumed by a handler start, not by XWAIT (R416). -/
def Cmd.handled (m : Cmd) (T : Tile) : Bool := m.peerAtom && fld (T.cr 0x481) 20 2 != 0

/-! ### Issue (R411) -/

/-- XEN_DESC of the context: word j of slot d. -/
def Ctx.desc (c : Ctx) (d j : Nat) : W64 := c.cr (0x490 + 8 * d + j)

/-- The command that the word describes. -/
def State.newCmd (s : State) (op token cr slot arg : Nat) (acq rel : Bool) (scope : Nat) : Cmd :=
  let D := s.me.desc slot
  let cnt := (List.range 6).map (fun j => fld (D 0) (10 * j) 10)
  let m := fld (D 1) 0 12 + 1
  let pc := s.c (fld (D 1) 12 4)
  let pad := (capAddr pc : Int) + sext (fld (D 1) 16 24) 24
  let ps := (List.range 6).map (fun j => sext (fld (D (2 + j)) 0 24) 24)
  let xs := (List.range 6).map (fun j => sext (fld (D (2 + j)) 24 40) 40)
  let sets := (List.range 12).map (fun k => s.reg0 (offSet k))
  let v := s.c cr
  let xlen := if op = 3 then atomWidth arg else m
  let m₀ : Cmd := { ctx := s.cur.ctx, token := token, op := op, cnt := cnt, elem := m, xlen := xlen, pad := pad, ext := capAddr v, pstride := ps, xstride := xs }
  let m₁ : Cmd := { m₀ with arg := arg, acq := acq, rel := rel, scope := scope, seq := s.here.opSeq, setDefs := sets }
  { m₁ with peerAtom := op == 3 && capSpace v == 4 }

/-- The engine layout of CTX_EINFO (R230). -/
def engineInfo (token elem status : Nat) : W64 := w64 (token + elem % 2 ^ 32 * 16 + status * 2 ^ 36)

def statBadReq : Nat := 4

/-- The permission a command needs on its pad side and on its external side; space CTRL also needs SV (R215, R217, R410). -/
def padPerm (op : Nat) : Nat := permAG + (if op = 0 then permW else if op = 3 then permR + permW else permR)
def extPerm (op space : Nat) : Nat :=
  permAG + (if op = 0 ∨ op = 4 then permR else if op = 3 then permAM else permW) + (if space = 5 then permSV else 0)
/-- The spaces a command may name; HOST stays among those of XRED, which raises HOSTATOM there (R410, R411). -/
def extSpaces (op : Nat) : List Nat := if op ≤ 1 then [2, 3, 4, 5] else if op ≤ 3 then [2, 3, 4] else [2]

/-- XERR with status BADREQ (R411). -/
def Cmd.badReq (m : Cmd) (T : Tile) : Bool :=
  T.cmds.any (fun e => e.ctx == m.ctx && e.token == m.token) || decide (2 ^ 32 < m.elems) ||
    (m.op == 3 && m.elem != (if atomFn m.arg = 9 then 2 else 1) * atomWidth m.arg) ||
    (m.peerAtom && !bit (T.cr 0x481) 36)

/-- The ALIGN rule of XATOM and XRED (R411); CTX_EINFO names the external cursor if it is misaligned, else the pad base. -/
def State.engineAlign (s : State) (m : Cmd) (pcur : Nat) : Option (Nat × W64) :=
  let n : Int := if m.op = 3 then atomWidth m.arg else redWidth m.arg
  let bad := fun (x : Int) => x % n != 0
  cond ((m.op == 2 || m.op == 3) && (bad m.ext || bad pcur || bad (m.pad - pcur) || m.pstride.any bad || m.xstride.any bad))
    0x04 (alignInfo s.cur.word (if bad m.ext then m.ext else m.pad))

/-- HOSTATOM: XRED to HOST, and XATOM to HOST other than AADD, ASWP and ACAS (R411, R154). -/
def hostAtom (op arg space : Nat) : Bool :=
  space == 3 && (op == 2 || (op == 3 && !(atomFn arg == 0 || atomFn arg == 8 || atomFn arg == 9)))

/-- XST or XRED of context 0 in an open, protected pass: outbox lines are taken for its data, the requests are held as a command without a
token, and the token is complete once the data are copied (R295). -/
def Tile.holdCmd (T : Tile) (m : Cmd) : Tile :=
  let used := T.outboxUsed
  let key := 16 + T.opSeq
  let m := { m with seq := T.opSeq }
  let held : Cmd := { m with token := key, ghost := true, box := some used }
  let e : Emission := { seq := T.opSeq, ctx := m.ctx, cmd := some key, acq := m.acq, rel := m.rel, scope := m.scope }
  let done : Cmd := { m with next := m.elems, copying := true }
  let T := T.modCr 0x582 (setFld · 7 13 (used + linesOf (m.elem * m.elems)))
  let P : Pass := { T.pass with held := T.pass.held ++ [e], heldCmds := T.pass.heldCmds ++ [held] }
  { T with pass := P, cmds := T.cmds ++ [done], opSeq := T.opSeq + 1 }

/-- A command takes its place; stamped requests stand in the order of R274. -/
def Tile.enterCmd (T : Tile) (m : Cmd) : Tile :=
  let T' : Tile := { T with cmds := T.cmds ++ [m] }
  if m.stamped then
    T'.enqueue { seq := 0, ctx := m.ctx, cmd := some m.token, acq := m.acq, rel := m.rel, scope := m.scope }
  else { T' with opSeq := T.opSeq + 1 }

/-- An input of the pass is logged; with 16 entries logged the pass loses protection (R295, R297). -/
def Tile.logInput (T : Tile) (m : Cmd) : Tile :=
  if 16 ≤ T.pass.log.length then T.unprotect 1
  else
    let P : Pass := { T.pass with log := T.pass.log ++ [m] }
    { T with pass := P }.modCr 0x582 (setFld · 2 5 (T.pass.log.length + 1))

/-- What a guarded pass does with a command of context 0 (R295, R297). -/
def Tile.guard (T : Tile) (m : Cmd) : Tile :=
  if m.ctx = 0 ∧ T.passOpen then
    if m.op = 1 ∨ m.op = 2 then
      if T.outboxFits (m.elem * m.elems) then T.holdCmd m else (T.unprotect 2).enterCmd m
    else if m.op = 3 then (T.unprotect 3).enterCmd m
    else if m.op = 0 ∧ m.arg / 64 = 1 then (T.logInput m).enterCmd m
    else T.enterCmd m
  else T.enterCmd m

/-- An engine command: its checks (R411), its tracker entry, and its place. -/
def engine (op : Nat) (t c : BitVec 4) (slot : BitVec 2) (arg : Nat) (a l : BitVec 1) (sc : BitVec 3) (s : State) : Res :=
  let m := s.newCmd op t.toNat c.toNat slot.toNat arg (a == 1#1) (l == 1#1) sc.toNat
  let pn := fld (s.me.desc slot.toNat 1) 12 4
  let pcap := s.c pn
  let v := s.c c.toNat
  let hasPad := op != 4
  let p := spanOf m.pad m.cnt m.pstride m.elem
  let x := spanOf m.ext m.cnt m.xstride m.xlen
  let word := s.cur.word
  let check := fun (v : RVal) (cr : Nat) (r : Int × Int) (spaces : List Nat) (need : Nat) =>
    capCheck v cr word s.me.sMode r.1 (r.2 - r.1).toNat spaces need 1
  orTrap [refuseIf s (8 ≤ t.toNat),
      if hasPad then check pcap pn p [1] (padPerm op) else none,
      check v c.toNat x (extSpaces op) (extPerm op (capSpace v)),
      s.engineAlign m (capAddr pcap),
      if hasPad then s.trkCheck p.1.toNat p.2.toNat m.writesPad true else none,
      poisonIf s (v.poison || (hasPad && pcap.poison)),
      cond (m.badReq s.here) 0x0D (engineInfo m.token 0 statBadReq),
      cond (hostAtom op arg (capSpace v)) 0x11 (w64 m.token)] s fun s =>
  let enter := fun (s : State) => Outcome.next ((s.modHere (fun T =>
    let T := if hasPad then (T.trkAdd (.engine m.ctx m.token) m.writesPad p.1.toNat p.2.toNat false).getD T else T
    (T.wideRelease m.ctx m.rel m.scope).guard m)).copyHeld s.cur.tile)
  if hasPad then trackerOr s enter else enter s

def execXld (t c : BitVec 4) (slot : BitVec 2) (a l : BitVec 1) (sc : BitVec 3) (p : BitVec 1) (s : State) : Res :=
  engine 0 t c slot (p.toNat * 64) a l sc s
def execXst (t c : BitVec 4) (slot : BitVec 2) (a l : BitVec 1) (sc : BitVec 3) (s : State) : Res :=
  engine 1 t c slot 0 a l sc s
def execXred (t c : BitVec 4) (slot : BitVec 2) (a l : BitVec 1) (sc o n : BitVec 3) (m : BitVec 1) (s : State) : Res :=
  engine 2 t c slot (o.toNat * 16 + n.toNat * 2 + m.toNat) a l sc s
def execXatom (t c : BitVec 4) (slot : BitVec 2) (a l : BitVec 1) (sc : BitVec 3) (f : BitVec 4) (w : BitVec 1)
    (s : State) : Res :=
  engine 3 t c slot (f.toNat * 8 + w.toNat * 4) a l sc s
def execXpf (t c : BitVec 4) (slot : BitVec 2) (a : BitVec 1) (sc : BitVec 3) (s : State) : Res :=
  engine 4 t c slot 0 a 0#1 sc s

/-! ### XWAIT and XTEST (R414, R415) -/

/-- The trap of a status (R126, R230, R414). -/
def Cmd.statusTrap (m : Cmd) : Option (Nat × W64) :=
  match m.bad with
  | none => none
  | some (elem, _, st) =>
    if st = 5 then some (0x0B, engineInfo m.token elem st ||| w64 (2 ^ 44))
    else if st = 6 then some (0x06, engineInfo m.token elem st)
    else if st = 7 then
      let q := m.lost.getD ⟨0, 0⟩
      some (0x0C, w64 (1 + m.token * 2 + q.f * 2 ^ 7 + q.t.toNat * 2 ^ 13 + elem % 2 ^ 32 * 2 ^ 29))
    else if st = 8 then some (0x12, engineInfo m.token elem st)
    else some (0x0D, engineInfo m.token elem st)

/-- The completion is consumed: the tracker entry retires, the token is free, and an ACQ at TILE or wider takes effect
(R275, R280, R281). -/
def Tile.consumeCmd (T : Tile) (x token : Nat) (m : Cmd) : Tile :=
  let T' := { T with cmds := eraseFirst (fun e => e.ctx == x && e.token == token) T.cmds }.trkRetire
    (fun k => k == TrkKind.engine x token)
  if m.acq && decide (1 ≤ m.scope) then T'.acquire x else T'

def Tile.cmd (T : Tile) (x token : Nat) : Option Cmd := T.cmds.find? (fun m => m.ctx == x && m.token == token)

/-- A command with REL at SYS whose responses are in sends the flushing reads that end it (R276). -/
def State.finishFlush (s : State) (m : Cmd) : State :=
  if m.complete && m.rel && m.scope == 5 && !s.flushed s.cur.tile m.upTo then s.sendFlushes s.cur.tile else s

def execXwait (t : BitVec 4) (s : State) : Res :=
  let x := s.cur.ctx
  orTrap [refuseIf s (8 ≤ t.toNat)] s fun s =>
    match s.here.cmd x t.toNat with
    | none => .next s
    | some m =>
      let s := s.finishFlush m
      waitOr (s.cmdDone s.cur.tile m && !m.handled s.here) 2 s fun s =>
        let s := s.modHere (·.consumeCmd x t.toNat m)
        match m.statusTrap with
        | none => .next s
        | some (cause, info) => .next ({ s with cur := { s.cur with kept := true } }.raise cause info)

def execXtest (t : BitVec 4) (d : BitVec 6) (s : State) : Res :=
  let x := s.cur.ctx
  orTrap [refuseIf s (8 ≤ t.toNat)] s fun s =>
    match s.here.cmd x t.toNat with
    | none => .next (s.landG d.toNat 0#64 false 2)
    | some m =>
      let s := s.finishFlush m
      if !s.cmdDone s.cur.tile m || m.handled s.here then .next (s.landG d.toNat 1#64 false 2)
      else
        match m.bad with
        | none => .next ((s.modHere (·.consumeCmd x t.toNat m)).landG d.toNat 2#64 false 2)
        | some (elem, _, st) => .next (s.landG d.toNat (w64 (3 + st * 4 + elem * 64)) false 2)

/-! ### Where a request goes (R123, R127, R56) -/

/-- Where the attachment of an agent that is no tile is kept in State.attach. -/
def agentKey : Agent → Option Nat
  | .tile _ => none
  | .cellar k => some k
  | .port p => some (256 + p)
  | .pcie n => some (512 + n)
  | .ctrl => some 768
  | .overflow f => some (1024 + f)

/-- The logical tile at whose router an agent stands (R434). -/
def State.agentTile (s : State) : Agent → Nat
  | .tile n => n
  | a => mget 0 s.attach ((agentKey a).getD 0)

/-- The members of a set, in increasing stack number (R123, R127). -/
def members (d : W64) : List Nat := (List.range 48).filter (fun k => bit d k)

/-- The stack that holds a set's offset (R123, R128). -/
def memberOf (d : W64) (off : Nat) : Nat := (members d).getD (off / 256 % (members d).length) 0

/-- The port named by OPT_PEER for a peer id; 96 and more read as invalid (R56). -/
def State.peerPort (s : State) (id : Nat) : Option Nat :=
  let e := s.reg0 (offPeer id)
  if bit e 0 && decide (fld e 1 7 < 96) then some (fld e 1 7) else none

/-- The agent a request of the tile is addressed to, or the status with which it completes without leaving its tile
(R56, R100, R123, R127). -/
def State.addressee (s : State) (t : Nat) (sets : List W64) (va : Nat) : Sum Nat Agent :=
  let o := ownerOf va
  let off := va % 2 ^ 50
  if o < 48 then .inr (.cellar o)
  else if o < 60 then
    let d := sets.getD (o - 48) 0#64
    if bit d 60 && !(members d).isEmpty then .inr (.cellar (memberOf d off)) else .inl 3
  else if o = 60 then .inr (.pcie (fld ((s.tile t).cr 0x680) 0 2))
  else if o = 61 then
    let id := off / 2 ^ 42
    if id = fld (s.reg0 offSelf) 0 8 then .inl 8
    else match s.peerPort id with
      | some p => .inr (.port p)
      | none => .inl 8
  else if o = 62 then .inl 3
  else .inr .ctrl

/-! ### LINE_REQUEST_EMIT (R413) -/

/-- The piece that a command requests next: element, pad address, external address, bytes. An element of the control space goes whole,
since R149 judges the element. An XPF has no pad side; its pieces carry their place in the element instead, so that of two that fail the
lower is known (R412). -/
structure Piece where
  elem : Nat
  pad : Nat
  va : Nat
  len : Nat

def Cmd.piece (m : Cmd) : Piece :=
  let xa := (m.extAt m.next + m.off).toNat
  let left := m.xlen - m.off
  ⟨m.next, if m.op = 4 then m.off else (m.padAt m.next + m.off).toNat, xa % 2 ^ 56, if ownerOf (xa % 2 ^ 56) = 63 then left else min left (64 - xa % 64)⟩

/-- The command after that piece. -/
def Cmd.advance (m : Cmd) (len : Nat) : Cmd :=
  if m.off + len < m.xlen then { m with off := m.off + len } else { m with off := 0, next := m.next + 1 }

/-- A failing request; the lowest element, and in it the lowest address, gives the status (R412, R414). -/
def Cmd.fail (m : Cmd) (elem pad st : Nat) (lost : Option Pair) : Cmd :=
  match m.bad with
  | none => { m with bad := some (elem, pad, st), lost := lost }
  | some (e, p, _) =>
    if elem < e ∨ (elem = e ∧ pad < p) then { m with bad := some (elem, pad, st), lost := lost } else m

/-- The lowest pad byte of a command. -/
def Cmd.padLow (m : Cmd) : Nat := (spanOf m.pad m.cnt m.pstride m.elem).1.toNat

/-- A command that begins: its waits are over, and an XATOM of several elements has read its operands, since a pad byte that a command
both reads and writes is read before it is written (R273). -/
def Tile.startCmd (T : Tile) (m : Cmd) : Cmd :=
  if m.begun then m
  else
    let r := spanOf m.pad m.cnt m.pstride m.elem
    { m with begun := true, store := if m.op = 3 ∧ 1 < m.elems then T.padBytes m.padLow (r.2 - r.1).toNat else m.store }

/-- The data a request carries. -/
def Tile.pieceData (T : Tile) (m : Cmd) (p : Piece) : List PByte :=
  if m.op = 0 ∨ m.op = 4 then []
  else if m.op = 3 then (if m.store.isEmpty then T.padBytes p.pad m.elem else (m.store.drop (p.pad - m.padLow)).take m.elem)
  else if m.ghost then (m.store.drop (m.next * m.elem + m.off)).take (min p.len 64)
  else T.padBytes p.pad (min p.len 64)

/-- rmask of a RED request: the items of the sector that lie whole inside it (R125). -/
def itemMask (w va len : Nat) : BitVec 16 :=
  BitVec.ofNat 16 ((List.range (64 / w)).foldl (fun v i =>
    if va % 64 ≤ i * w ∧ i * w + w ≤ va % 64 + len then v + 2 ^ i else v) 0)

/-- Low two bits of the tile's phase of group 0 (R125). -/
def State.phase0 (s : State) (t : Nat) : BitVec 2 :=
  match s.groupOf t 0 with
  | some (_, G) => BitVec.ofNat 2 G.phase.toNat
  | none => 0#2

/-- The header of a request (R125); its fn is the word's arg (R309). -/
def State.reqHead (s : State) (t : Nat) (m : Cmd) (p : Piece) (merge : Bool) : ReqHead :=
  let op := if m.op = 4 then 4 else m.op
  let mask := if m.op = 2 then itemMask (redWidth m.arg) p.va p.len else 0#16
  ReqHead.mk (BitVec.ofNat 56 p.va) (BitVec.ofNat 4 op) (BitVec.ofNat 6 (min p.len 64 - 1)) merge (s.phase0 t)
    (BitVec.ofNat 8 (m.arg % 2 ^ 7)) (BitVec.ofNat 14 t) (BitVec.ofNat 10 (s.tile t).nextTag) 0#3 mask 0#8

def Tile.putCmd (T : Tile) (m : Cmd) : Tile :=
  { T with cmds := mapFirst (fun e => e.ctx == m.ctx && e.token == m.token) (fun _ => m) T.cmds }

/-- A command that has requested every element leaves the order of R274; one without a token is then forgotten once
it is complete. -/
def Tile.settleCmd (T : Tile) (m : Cmd) : Tile :=
  let T := if m.stamped && m.next == m.elems then
      { T with emitq := eraseFirst (fun e => e.cmd == some m.token && e.ctx == m.ctx) T.emitq } else T
  if m.ghost && m.complete then
    { T with cmds := eraseFirst (fun e => e.ctx == m.ctx && e.token == m.token) T.cmds } else T

/-- The ACQ and REL waits of a command, in its place in the issue order (R276). -/
def State.gateOpen (s : State) (t : Nat) (m : Cmd) : Bool :=
  m.begun || s.scopeMet m.acq m.rel t m.ctx m.scope m.seq

/-- A command that still waits at SYS sends the flushing reads of its waits. -/
def State.gateFlush (s : State) (t : Nat) (m : Cmd) : State :=
  if m.begun then s else s.flushFor m.acq m.rel t m.ctx m.scope m.seq

/-- The command begins its requests: RC advances for REL at TILE or wider (R281). -/
def State.beginCmd (s : State) (t : Nat) (m : Cmd) : State :=
  if m.begun then s
  else s.modTile t (fun T =>
    let T := if m.rel && decide (1 ≤ m.scope) then T.release else T
    T.putCmd (T.startCmd m))

/-- Send the next request of a command, or complete it here when it leaves no tile. `st` is its stamp. -/
def State.sendPiece (s : State) (t : Nat) (m : Cmd) (a : Agent) (st : Stamp) (merge : Bool) : State :=
  let p := m.piece
  let T := s.tile t
  let body := Body.request (s.reqHead t m p merge) (T.pieceData m p) m.ctx m.token p.elem p.pad
  let m' := { m.advance p.len with out := m.out + 1, swait := false, begun := true }
  let s := s.modTile t (fun T => { T.putCmd m' with nextTag := (T.nextTag + 1) % 1024 }.settleCmd m')
  s.inject (mkPacket t (s.agentTile a) a 2 (some st) body)

/-- The pad bytes of a read request are written as an engine write of the issuing context (R281, R412). -/
def Tile.engineWrite (T : Tile) (x a : Nat) (data : List PByte) : Tile :=
  (T.putPoisoned a data).tagLines x T.rc a data.length

/-- Insert by first component, behind equals. -/
def insertPiece {α : Type} (w : Nat × α) : List (Nat × α) → List (Nat × α)
  | [] => [w]
  | q :: l => if w.1 < q.1 then w :: q :: l else q :: insertPiece w l

/-- No two elements of the command share a pad byte: taken by increasing size, each stride spans what the smaller levels fill. -/
def Cmd.apart (m : Cmd) : Bool :=
  let levels := ((m.pstride.zip m.cnt).filter (fun l => l.2 != 0)).foldl (fun l q => insertPiece (q.1.natAbs, q.2) l) []
  (levels.foldl (fun (acc : Bool × Nat) l => (acc.1 && decide (acc.2 ≤ l.1), acc.2 + l.1 * l.2)) (true, m.elem)).1

/-- The data of one request are written in the pad; those of later elements that came before them stand over them, as if the elements
were written in their order (R273, R412). -/
def Tile.writePiece (T : Tile) (m : Cmd) (elem pad : Nat) (data : List PByte) : Tile :=
  (m.wrote.filter (fun w => decide (elem < w.1))).foldl (fun (T : Tile) w => T.engineWrite m.ctx w.2.1 w.2.2) (T.engineWrite m.ctx pad data)

/-- The stamp of a reply joins V when it completes a read, an XATOM or an XPF (R104). -/
def Tile.replyStamp (T : Tile) (m : Cmd) (st : Option Stamp) : Tile :=
  match st with
  | some q => if m.op = 1 ∨ m.op = 2 then T else T.mergeStamp q
  | none => T

/-- A response is recorded: the outstanding count, the status, the data, and the stamp. -/
def Tile.response (T : Tile) (m : Cmd) (st : Option Stamp) (status : Nat) (data : List PByte) (lost : Option Pair)
    (elem pad : Nat) : Tile :=
  let T := T.replyStamp m st
  let T := if status = 0 ∧ m.writesPad then T.writePiece m elem pad data else T
  let m' := { m with out := m.out - 1, wrote := if status = 0 ∧ m.writesPad ∧ !m.apart then insertPiece (elem, pad, data) m.wrote else m.wrote }
  let m' := if status = 0 then m' else m'.fail elem pad status lost
  (T.putCmd m').settleCmd m'

/-- Entries of the completion queue: 2^size, size clamped to 2 to 12 (R409). -/
def Tile.cqSize (T : Tile) : Nat := 2 ^ (max 2 (min 12 (fld (T.cr 0x481) 16 4)))

/-- The pad address of completion-queue entry k. A queue whose base and size run past the end of the 4 MiB pad goes on at its beginning
(DESIGN CHOICE, log 57: R409 and R416 do not say where such entries lie). -/
def Tile.cqAddr (T : Tile) (k : Nat) : Nat := (fld (T.cr 0x481) 0 16 * 64 + 16 * k) % 2 ^ 22

/-- The queue is full, or its next entry is still in use because a later command's entries were freed first (DEDUCED, log 57: entries are
taken in ring order). -/
def Tile.cqFull (T : Tile) : Bool := decide (T.cqSize ≤ T.cq.length) || T.cq.any (fun e => e.slot == T.cqHead)

/-- The 16 bytes of an entry (R416). -/
def cqBytes (e : CqEntry) : List PByte :=
  let v := e.old.toNat + e.elem % 2 ^ 32 * 2 ^ 64 + (e.token % 16 + e.status * 16) * 2 ^ 96 + e.ctx * 2 ^ 104
  (List.range 16).map (fun i => (BitVec.ofNat 8 (v / 256 ^ i), false))

def oldValue (data : List PByte) : W64 :=
  w64 ((List.range 8).foldl (fun v i => v + (data.getD i (0#8, false)).1.toNat * 256 ^ i) 0)

/-- The receive path has a tracker entry for an entry of the completion queue. -/
def Tile.cqTracked (T : Tile) : Bool := decide ((T.trk.filter (fun e => 28 ≤ e.n)).length < 4)

/-- The receive path holds a tracker entry while it writes an entry of the queue (R222, R416). -/
def Tile.throughQueue (T : Tile) : Tile :=
  let a := T.cqAddr T.cqHead
  ((T.trkAdd .completion true a (a + 16) true).getD T).trkRetire (· == .completion)

/-- The queue takes a reply now. -/
def Tile.cqReady (T : Tile) : Bool := !T.cqFull && T.cqTracked

/-- An entry lands in the queue. With no handler context the old value goes to the element's pad address and the entry is
freed; with one the entries stay, and the completed command starts that context (R416). -/
def State.landCq (s : State) (t : Nat) (m : Cmd) (stamp : Option Stamp) (status : Nat) (data : List PByte) (lost : Option Pair)
    (elem pad : Nat) : State :=
  let T := (s.tile t).throughQueue
  let e : CqEntry := { slot := T.cqHead, old := oldValue data, elem := elem, token := m.token, ctx := m.ctx, status := status, pad := pad }
  let T := { (T.padReceive (T.cqAddr e.slot) (cqBytes e)) with cqHead := (T.cqHead + 1) % T.cqSize }.modCr 0x482 (setBit · 13 false)
  let k := fld (T.cr 0x481) 20 2
  if k = 0 then s.setTile t (T.response m stamp status data lost elem pad)
  else
    let T := T.replyStamp m stamp
    let m' := { m with out := m.out - 1 }
    let m' := if status = 0 then m' else m'.fail elem pad status lost
    let T := { T.putCmd m' with cq := T.cq ++ [e] }
    let s := s.setTile t T
    if m'.complete then
      let mine := T.cq.filter (fun e => e.token == m.token && e.ctx == m.ctx)
      let first := (mine.head?.map (fun e => T.cqAddr e.slot)).getD 0
      let st : Stamp := { own := none, deps := [], vint := s.vint }
      let a : Arrival := { ch := 0, addr := first, len := 16 * mine.length, src := 0, stamp := st, lost := none, lines := 0, cq := some (m.token, m.ctx) }
      s.deliverArrival t k a
    else s

/-- An element that fails without leaving the tile. One of an XATOM to space PEER is answered through the completion queue like the others
(R56, R416; DEDUCED, log 57). -/
def State.localFail (s : State) (t : Nat) (m : Cmd) (st : Nat) : State :=
  let p := m.piece
  if m.peerAtom then
    let m' := { m.advance p.len with out := m.out + 1, begun := true }
    (s.modTile t (fun T => (T.putCmd m').settleCmd m')).landCq t m' none st [] none p.elem p.pad
  else
    let m' := { (m.fail p.elem p.pad st none).advance p.len with begun := true }
    s.modTile t (fun T => (T.putCmd m').settleCmd m')

/-- An element that fails here waits, when it is answered through the completion queue, until the queue takes its entry. -/
def State.failsLater (s : State) (t : Nat) (m : Cmd) : Bool := m.peerAtom && !(s.tile t).cqReady

/-- What shows of that wait: XEN_CQST.full (R416). -/
def State.showFull (s : State) (t : Nat) : State :=
  if (s.tile t).cqFull then s.modTile t (·.modCr 0x482 (setBit · 13 true)) else s

/-- One command's turn: none when it has nothing to send or waits; `blocked` tells that a request waiting by R107 stands
before it, which holds back the stamped requests behind it (R413). -/
def State.tryEmit (s : State) (t : Nat) (m : Cmd) (blocked : Bool) : State × Bool × Bool :=
  if m.next = m.elems then (s, false, blocked)
  else if m.stamped then
    let head := match (s.tile t).emitq with
      | e :: _ => e.cmd == some m.token && e.ctx == m.ctx
      | [] => false
    if blocked || !head then (s, false, true)
    else if !s.gateOpen t m then (s.gateFlush t m, false, true)
    else
      match s.addressee t m.setDefs m.piece.va with
      | .inl st =>
        if s.failsLater t m then (s.showFull t, false, true)
        else ((s.beginCmd t m).localFail t ((s.tile t).startCmd m) st, true, blocked)
      | .inr a =>
        let deps := (s.tile t).pending
        match s.stampWrite t m.ctx m.seq with
        | (s', none) =>
          let w := decide (3 < deps.length)
          (s'.modTile t (·.putCmd { m with swait := w }), false, true)
        | (s', some st) =>
          let merge := m.op == 2 && m.arg % 2 == 1 && deps.isEmpty
          let st := if merge then { st with deps := st.own.toList ++ st.own.toList ++ st.own.toList, merge := true } else st
          ((s'.beginCmd t m).sendPiece t ((s'.tile t).startCmd m) a st merge, true, blocked)
  else if !s.gateOpen t m then (s.gateFlush t m, false, blocked)
  else
    match s.addressee t m.setDefs m.piece.va with
    | .inl st => ((s.beginCmd t m).localFail t ((s.tile t).startCmd m) st, true, blocked)
    | .inr a =>
      let deps := (s.tile t).pending
      if 4 < deps.length then (s.modTile t (·.putCmd { m with swait := true }), false, true)
      else
        let st : Stamp := { own := none, deps := deps, vint := s.vint, null := (s.tile t).nullPair (s.tileField t) }
        ((s.beginCmd t m).sendPiece t ((s.tile t).startCmd m) a st false, true, blocked)

/-- The first command, in issue order, that can send. -/
def State.emitFirst (s : State) (t : Nat) : List Cmd → Bool → State
  | [], _ => s
  | m :: l, blocked =>
    match s.tryEmit t m blocked with
    | (s', true, _) => s'
    | (s', false, b) => s'.emitFirst t l b

/-- LINE_REQUEST_EMIT: at most 256 requests await responses (R413). -/
def execLineRequestEmit (t : BitVec 14) (s : State) : Res :=
  let n := t.toNat
  if 15360 ≤ n then .fault .offWafer
  else if (s.tile n).frozen then .next s
  else
    let T := s.tile n
    let s := s.flushRelease n
    if 256 ≤ T.cmds.foldl (fun k m => k + m.out) 0 then .next s
    else .next ((s.emitFirst n T.cmds false).drain n)

/-- STAMP_WAIT_RELEASE: what waits by R107 leaves when enough entries are stable. -/
def execStampWaitRelease (t : BitVec 14) (s : State) : Res :=
  let n := t.toNat
  if 15360 ≤ n then .fault .offWafer
  else if (s.tile n).frozen then .next s
  else
    let T := s.tile n
    if T.cmds.any (·.swait) && decide (T.cmds.foldl (fun k m => k + m.out) 0 < 256) then
      .next ((s.emitFirst n T.cmds false).drain n)
    else .next (s.drain n)

/-! ### Responses (R126, R412, R416) -/

/-- A packet's stamp is of the current vintage (R118). -/
def State.fresh (s : State) (p : Packet) : Bool := (p.stamp.map (·.vint)).getD s.vint == s.vint

def State.dropNet (s : State) (j : Nat) : State := { s with net := s.net.eraseIdx j }

/-- A discard of a stamped packet of an old vintage at tile t (R118). -/
def State.stale (s : State) (t : Nat) : State := s.modTile t (·.modCr 0x640 (incFld · 45 8 1))

/-- EXTERNAL_RESPONSE: the packet at place j of the network has reached its tile. -/
def execExternalResponse (j : Nat) (s : State) : Res :=
  match s.net[j]? with
  | none => .next s
  | some p =>
    match p.dst, p.body with
    | .tile t, .response _ status data lost x token elem pad =>
      if !p.arrived then .next s
      else if !s.fresh p then .next ((s.dropNet j).stale t)
      else
        match (s.tile t).cmd x token with
        | none => .next (s.dropNet j)
        | some m =>
          if m.peerAtom then .next s
          else .next ((((s.dropNet j).modTile t (·.response m p.stamp status data lost elem pad)).flushRelease t).drain t)
    | _, _ => .next s

/-- CQ_ENTRY: the oldest reply of an XATOM to space PEER that has reached the tile. A full queue shows in XEN_CQST.full
and the reply waits. -/
def execCqEntry (t : BitVec 14) (s : State) : Res :=
  let n := t.toNat
  if 15360 ≤ n then .fault .offWafer
  else
    let mine := fun (p : Packet) => p.arrived && p.dst == .tile n && (match p.body with
      | .response _ _ _ _ x token _ _ => (((s.tile n).cmd x token).map (·.peerAtom)).getD false
      | _ => false)
    match s.net.findIdx? mine with
    | none => .next s
    | some j =>
      match s.net[j]? with
      | none => .next s
      | some p =>
        match p.body with
        | .response _ status data lost x token elem pad =>
          match (s.tile n).cmd x token with
          | none => .next s
          | some m =>
            if !s.fresh p then .next ((s.dropNet j).stale n)
            else if !(s.tile n).cqReady then .next (s.showFull n)
            else .next ((s.dropNet j).landCq n m p.stamp status data lost elem pad)
        | _ => .next s

end Sys2Proof.Machine
end

