-- ==== Sys2Proof/Machine/Sync.lean ====
section
/-! DEFINITION. The SYNC words (R417 to R424): barriers (R113, R173, R174, R279), walkers (R175 to R177), HWIN (R151,
R287), SWAP (R298), power requests (R190). -/

namespace Sys2Proof.Machine

open Host Sys2Proof

/-! ### Barriers -/

/-- BADTOKEN (R230). -/
def badToken (slot tok phase : Nat) (invalid : Bool) : Nat × W64 :=
  (0x10, w64 (slot + tok % 2 ^ 16 * 4 + phase % 2 ^ 16 * 2 ^ 18 + (if invalid then 2 ^ 34 else 0)))

/-- The plot of the issuing tile. -/
def State.myPlot (s : State) : Nat := s.here.plot.getD 0

/-- A group of the plot is changed. -/
def State.modGroup (s : State) (p g : Nat) (f : Group → Group) : State :=
  s.modPlot p (fun P => { P with groups := mput P.groups g (f (mget {} P.groups g)) })

/-- R113 and R279: nothing pending in V, and the waits of a release at scope GRP for every context of the tile, by which every engine
command has emitted and delivered its writes. -/
def State.mayArrive (s : State) : Bool := s.here.pending.isEmpty && s.released s.cur.tile s.cur.ctx 2 s.myPlace

def execBarr (g : BitVec 6) (w : BitVec 2) (s : State) : Res :=
  let t := s.cur.tile
  match s.groupOf t w.toNat with
  | none => trap (badToken w.toNat 0 0 true).1 (badToken w.toNat 0 0 true).2 s
  | some (k, G) =>
    let s := s.wideReleaseHere
    placeOr (!G.arrived.contains t && s.mayArrive && !s.grafting t) 0 s fun s =>
      let s := s.modHere Tile.release
      let s := s.modGroup s.myPlot k (fun G => { G with arrived := G.arrived ++ [t] })
      .next (s.landHold (gKey g.toNat) (gval (w64 G.phase.toNat) false))

/-- An acquire of the issuing context (R281). -/
def State.acquireMe (s : State) : State := s.modHere (·.acquire s.cur.ctx)

/-- The token operand of BWAIT and BTEST, and its distance d (R174). -/
def State.token (s : State) (g : BitVec 6) : BitVec 16 := (s.gv g.toNat).setWidth 16

def execBwait (g : BitVec 6) (p : BitVec 3) (w : BitVec 2) (s : State) : Res :=
  let slot := w.toNat
  let tok := s.token g
  match s.groupOf s.cur.tile slot with
  | none =>
    orTrap [poisonIf s (s.gp g.toNat), some (badToken slot tok.toNat 0 true)] s .next
  | some (_, G) =>
    let d := (G.phase - tok).toNat
    let done := fun (d : Nat) (past : Bool) (s : State) =>
      let s := (s.modMe (fun c => { c with bwait := none })).acquireMe
      (s.landHold (gKey g.toNat) (gval (w64 d) false)).landHold (pKey p.toNat) (pval past false)
    orTrap [poisonIf s (s.gp g.toNat)] s fun s =>
      if s.me.bwait = some (slot, tok) then
        if d = 0 then .next (s.waitFor 0) else .next (done 1 false s)
      else
        orTrap [if 32768 ≤ d then some (badToken slot tok.toNat G.phase.toNat false) else none] s fun s =>
          if d = 0 then .next ((s.modMe (fun c => { c with bwait := some (slot, tok) })).waitFor 0)
          else .next (done d true s)

def execBtest (g : BitVec 6) (p : BitVec 3) (w : BitVec 2) (s : State) : Res :=
  let slot := w.toNat
  let tok := s.token g
  match s.groupOf s.cur.tile slot with
  | none => orTrap [poisonIf s (s.gp g.toNat), some (badToken slot tok.toNat 0 true)] s .next
  | some (_, G) =>
    let d := (G.phase - tok).toNat
    orTrap [poisonIf s (s.gp g.toNat),
        if 32768 ≤ d then some (badToken slot tok.toNat G.phase.toNat false) else none] s fun s =>
      let s := if 1 ≤ d then s.acquireMe else s
      .next (s.landP p.toNat (1 ≤ d) false 2)

/-! ### Walkers -/

/-- The descriptor of R175, as four 64-bit words. -/
structure Descriptor where
  w0 : W64
  w1 : W64
  w2 : W64
  w3 : W64

def Descriptor.order (D : Descriptor) : List Nat := (List.range 6).map (fun j => fld D.w1 (32 + 3 * j) 3)
def Descriptor.cnt (D : Descriptor) : List Nat :=
  (List.range 4).map (fun j => fld D.w0 (16 * j) 16) ++ [fld D.w1 0 16, fld D.w1 16 16]

/-- The lowest descriptor fault, 0 for none (R175, R230). -/
def Descriptor.fault (D : Descriptor) (slotOk : Bool) : Nat :=
  if !(List.range 6).all (fun j => D.order.contains j) then 1
  else if 10921 < fld D.w2 0 14 then 2
  else if !slotOk then 3
  else if fld D.w1 54 10 ≠ 0 ∨ fld D.w2 14 50 ≠ 0 ∨ D.w3 ≠ 0#64 then 4
  else 0

/-- A nest starts on a walker (R176, R178): its home is the field of the posting tile. Tiles that already wait keep
their order; DORMANT contexts that it finds come in one cycle. -/
def State.startWalker (s : State) (p w group home : Nat) (D : Descriptor) : State :=
  (s.modWalker p w (fun W =>
    let W₁ : Walker := { state := 1, gen := W.gen + 1, cnt := D.cnt, order := D.order, waiting := W.waiting }
    { W₁ with ctx := fld D.w1 52 2, entry := fld D.w2 0 14, group := group, home := home })).listIdle p w

def execWkpost (c : BitVec 4) (w : BitVec 2) (s : State) : Res :=
  let a := s.padAddr c.toNat 0
  let word := fun (k : Nat) => w64 (s.here.padRead (a + 8 * k) 8)
  let D : Descriptor := ⟨word 0, word 1, word 2, word 3⟩
  let slot := fld D.w1 50 2
  let grp := s.groupOf s.cur.tile slot
  let f := D.fault grp.isSome
  let bad := s.here.padPoisoned a 32
  orTrap (s.padChecks c.toNat 0 32 (permR + permAG) 32 false true ++
      [cond bad 0x0B (s.winfo (a * 4)), cond (f != 0) 0x0D (w64 (2 ^ 40 + f * 2 ^ 44))]) s fun s =>
    let W : Walker := mget {} (s.plot s.myPlot).walkers w.toNat
    let s := s.wideReleaseHere
    placeOr (W.state != 1 && s.released s.cur.tile s.cur.ctx 3 s.myPlace) 4 s fun s =>
      let s := s.modHere Tile.release
      .next (s.startWalker s.myPlot w.toNat ((grp.map (·.1)).getD 0) (s.tileField s.cur.tile) D)

/-- WKNEXT (R421): the iteration that has arrived, the end of the nest, or the wait that makes the tile eligible. -/
def execWknext (p : BitVec 3) (w : BitVec 2) (s : State) : Res :=
  let x := s.cur.ctx
  let t := s.cur.tile
  let W : Walker := mget {} (s.plot s.myPlot).walkers w.toNat
  orTrap [refuseIf s (x != 0)] s fun s =>
    match s.me.handed with
    | some (entry, idx) =>
      let s := (s.modMe (fun c => { c with handed := none, atEnd := .jump entry })).acquireMe
      let s := (List.range 6).foldl (fun (s : State) (j : Nat) =>
        s.landHold (gKey (58 + j)) (gval (idx.getD j 0#64) false)) s
      .next (s.landHold (pKey p.toNat) (pval true false))
    | none =>
      if s.me.exhausted || (W.state == 2 && !W.waiting.contains t) then
        let s := s.modMe (fun c => { c with exhausted := false })
        .next (s.landHold (pKey p.toNat) (pval false false))
      else
        let s := if W.waiting.contains t then s
          else (s.modWalker s.myPlot w.toNat (fun W => { W with waiting := W.waiting ++ [t] })).modHere
            (fun T => { T with eligible := T.eligible ++ [w.toNat] })
        .next (s.waitFor 4)

/-! ### HWIN -/

/-- One entry is applied to its line: bytes under the mask, poison, capability tags, the line tag (0, RC − 128)
(R151, R281, R422). -/
def Tile.applyIngress (T : Tile) (e : Ingress) : Tile :=
  let base := 64 * e.line
  let pad := e.bytes.foldl (fun (m : AMap Byte) b => mset 0#8 m (base + b.1) b.2) T.pad
  let hit := fun (w : Nat) => e.bytes.any (fun b => (base + b.1) / 8 == w)
  let whole := fun (w : Nat) => (List.range 8).all (fun i => e.bytes.any (fun b => base + b.1 == 8 * w + i))
  let poison := (units 8 base 64).foldl (fun (m : AMap Bool) w =>
    if hit w && e.poison then mset false m w true else if whole w then mset false m w false else m) T.padPoison
  let caps := (units 16 base 64).foldl (fun (m : AMap Bool) g =>
    if e.bytes.any (fun b => (base + b.1) / 16 == g) then mset false m g false else m) T.capTags
  { T with pad := pad, padPoison := poison, capTags := caps }.tagLines 0 (T.rc - 128#8) base 64

/-- The bounding range of the lines that an HWIN applies (R222, R280). -/
def Tile.hwinRange (T : Tile) : Nat × Nat :=
  match T.ingress.map (·.line) with
  | [] => (0, 0)
  | l :: ls => (64 * ls.foldl min l, 64 * ls.foldl max l + 64)

/-- HWIN's tracker entry: it holds from the issue until the lines are written, which HWIN itself awaits (R222, R275, R287). -/
def Tile.throughWindow (T : Tile) (x lo hi : Nat) : Tile :=
  ((T.trkAdd (.hostWindow x) true lo hi false).getD T).trkRetire (fun k => k == TrkKind.hostWindow x)

/-- HWIN, with its range checked and entered as an agent command's when there is a line to apply (R222, R280, R422). -/
def execHwin (g : BitVec 6) (s : State) : Res :=
  let n := s.here.ingress.length
  let r := s.here.hwinRange
  orTrap [s.trkCheck r.1 r.2 true true] s fun s =>
  (if n = 0 then fun (k : State → Res) => k s else trackerOr s) fun s =>
    let s := s.modHere (fun T =>
      let T := if n = 0 then T else T.throughWindow s.cur.ctx r.1 r.2
      { T.ingress.foldl Tile.applyIngress T with ingress := [] }.modCr 0x690 (setBit · 6 false))
    .next (s.landHold (gKey g.toNat) (gval (w64 n) false))

/-! ### SWAP -/

/-- A command that context 0 issued in the open pass. -/
def Tile.inPass (T : Tile) (x q : Nat) : Bool := x == 0 && decide (T.pass.openSeq ≤ q)

/-- Every command that context 0 issued in the pass has completed; a send once it has left, or once its data stand in the outbox. -/
def Tile.quiet0 (T : Tile) : Bool :=
  T.cmds.all (fun m => !T.inPass m.ctx m.seq || m.ghost || m.complete) && T.tq.all (fun o => !T.inPass o.ctx o.seq) &&
    T.lq.all (fun o => !T.inPass o.ctx o.seq) && T.aq.all (fun o => !T.inPass o.ctx o.seq) &&
    T.emitq.all (fun e => e.place || !T.inPass e.ctx e.seq) && T.pass.held.all (fun e => e.place || e.box.isNone)

/-- Front and back of every pair in use are exchanged. -/
def Tile.swapBuffers (T : Tile) : Tile :=
  (List.range 4).foldl (fun (T : Tile) (k : Nat) =>
    let w := T.cr (0x584 + k)
    if fld w 32 12 = 0 then T else T.setCr (0x584 + k) (setFld (setFld w 0 16 (fld w 16 16)) 16 16 (fld w 0 16))) T

/-- The next packet of a context. -/
def Ctx.nextPacket (c : Ctx) (epc : W64) : Nat :=
  match c.atEnd with
  | .jump target => target
  | .eret => fld epc 0 14
  | _ => c.advance.pc

/-- The steps of R298. -/
def Tile.commit (T : Tile) : Tile :=
  let T := (T.releaseOutbox.swapBuffers).setCr 0x581 (w64 ((T.ctx 0).nextPacket (T.inEffect 0 0x011) % 2 ^ 14))
  T.openPass.modCr 0x582 (incFld · 24 16 1)

def execSwap (s : State) : Res :=
  orTrap [refuseIf s (s.cur.ctx != 0)] s fun s =>
    if !bit (s.here.cr 0x580) 0 then .next s
    else waitOr s.here.quiet0 2 s fun s => .next ((s.modHere Tile.commit).drain s.cur.tile)

/-! ### PWRQ and PWRREL (R190, R424) -/

/-- The class held, g. -/
def Tile.grant (T : Tile) : Nat := fld (T.cr 0x501) 0 4

/-- PWR_REQ as the requests stand (R198). -/
def Tile.showReq (T : Tile) : Tile :=
  let r := T.pwrOut.getD (PwrReq.mk 0 0)
  T.setCr 0x500 (w64 (r.cls + T.pwrOut.isSome.toNat * 16 + r.ctx * 32 + sat T.pwrq.length 7 * 2 ^ 7))

/-- The tile holds class n; its field's granted current follows (R189). -/
def State.setGrant (s : State) (t n : Nat) : State :=
  let old := (s.tile t).grant
  (s.modTile t (·.modCr 0x501 (setFld · 0 4 n))).modField (s.tileField t) (fun F =>
    { F with granted := F.granted + n - old })

/-- A request for class n by the issuing context: behind earlier ones of the tile, at once when n ≤ g, by the field
otherwise. -/
def powerReq (n : Nat) (s : State) : Res :=
  let x := s.cur.ctx
  let t := s.cur.tile
  let T := s.here
  if s.me.granted then .next (s.modMe (fun c => { c with granted := false }))
  else
    let first := match T.pwrq with
      | r :: _ => r.ctx == x
      | [] => true
    if (T.pwrOut.map (·.ctx)) = some x then .next (s.waitFor 3)
    else if T.pwrOut.isSome || !first then
      let s := if T.pwrq.any (fun r => r.ctx == x) then s
        else s.modHere (fun T => { T with pwrq := T.pwrq ++ [PwrReq.mk x n] }.showReq)
      .next (s.waitFor 3)
    else
      let s := s.modHere (fun T => { T with pwrq := T.pwrq.filter (fun r => r.ctx != x) }.showReq)
      if n ≤ T.grant then .next (s.setGrant t n)
      else
        let s := s.modHere (fun T => { T with pwrOut := some (PwrReq.mk x n) }.showReq)
        let s := s.modField (s.tileField t) (fun F => { F with pwrQ := F.pwrQ ++ [(t, PwrReq.mk x n)] })
        .next (s.waitFor 3)

def execPwrq (k : BitVec 4) (s : State) : Res := powerReq (if k = 0#4 then 1 else k.toNat) s
def execPwrrel (s : State) : Res := powerReq 4 s

end Sys2Proof.Machine
end

