-- ==== Sys2Proof/Machine/CoreEvents.lean ====
section
/-! DEFINITION. The steps of a tile's core that no word of a packet is: traps, timers, the random-bit queue, the
rollback of a guarded pass, replays, scrubbing, and control-register writes that have an event of their own. -/

namespace Sys2Proof.Machine

open Host Sys2Proof

/-- An event of tile t: a tile that the wafer does not have stops it (R27). -/
def onTile (t : BitVec 14) (k : Nat → Res) : Res :=
  if 15360 ≤ t.toNat then .fault .offWafer else k t.toNat

/-! ### Traps (R199, R228, R229, R310) -/

/-- A context that issues: READY, RUNNING or TRAPPED (R168). -/
def Ctx.issues (c : Ctx) : Bool := c.st == ready || c.st == running || c.st == trapped

/-- TRAP_ENTRY: the trap registers are written and the context enters its handler; codes 0x00 and 0x17 to 0xFF are
never written (R228, R230). -/
def execTrapEntry (t : BitVec 14) (x : BitVec 2) (cause : BitVec 8) (info : BitVec 64) (s : State) : Res :=
  onTile t fun n =>
    let c := s.ctx n x.toNat
    if c.issues && decide (1 ≤ cause.toNat) && decide (cause.toNat ≤ 0x16) then
      .next (s.trapAt n x.toNat c.pc c.first cause.toNat info)
    else .next s

/-- ASYNC_TRAP_TAKE: the first pending cause of a context in U mode, at a packet boundary (R229). -/
def execAsyncTrapTake (t : BitVec 14) (x : BitVec 2) (s : State) : Res :=
  onTile t fun n =>
    let c := s.ctx n x.toNat
    match (s.tile n).asyncCause x.toNat with
    | some (b, cause) => if c.st == ready && !c.midPacket then .next (s.takeAsync n x.toNat b cause) else .next s
    | none => .next s

/-- TIMER_EXPIRY: CTX_TIMER reaches 0 from 1 (R229). -/
def execTimerExpiry (t : BitVec 14) (x : BitVec 2) (s : State) : Res :=
  onTile t fun n =>
    if fld ((s.ctx n x.toNat).cr 0x016) 0 32 = 1 then .next (s.modCtx n x.toNat Ctx.tickTimer) else .next s

/-- LOOP_BACK: the end of the body's last packet (R341). -/
def execLoopBack (t : BitVec 14) (x : BitVec 2) (s : State) : Res :=
  onTile t fun n =>
    let c := s.ctx n x.toNat
    if lbActs c && c.pc == lbStart c + lbLen c then .next (s.modCtx n x.toNat Ctx.loopBack) else .next s

/-- PACKET_FETCH_FAULT: an index above 10,921 raises ILLEGAL, a U-mode fetch in the supervisor region PRIV, with no
word issuing (R199, R226). -/
def fetchFault (T : Tile) (c : Ctx) : Option (Nat × W64) :=
  if lastPacket < c.pc then some (0x01, 0#64)
  else cond (!c.sMode && decide (fld (T.cr 0x003) 0 14 ≤ c.pc)) 0x02 0#64

def execPacketFetchFault (t : BitVec 14) (x : BitVec 2) (s : State) : Res :=
  onTile t fun n =>
    let c := s.ctx n x.toNat
    match fetchFault (s.tile n) c with
    | some (cause, info) => if c.issues then .next (s.packetTrap n x.toNat cause info) else .next s
    | none => .next s

/-- ILLEGAL_WORD: a packet with a word that is no instruction raises ILLEGAL before any of its words issues (R200,
R310). -/
def execIllegalWord (t : BitVec 14) (x : BitVec 2) (s : State) : Res :=
  onTile t fun n =>
    let c := s.ctx n x.toNat
    if (fetchFault (s.tile n) c).isSome || !c.issues then .next s
    else
      match fetchTrap (s.tile n) c with
      | some (cause, info) => .next (s.fetchRaise n x.toNat cause info)
      | none => .next s

/-! ### The random-bit queue (R246) -/

/-- RNG_APPEND: one word while the queue holds fewer than 64. -/
def Tile.appendRng (T : Tile) : Tile :=
  if 64 ≤ T.rngq.length then T
  else
    let n := fld (T.cr 0x542) 0 59
    { T with rngq := T.rngq ++ [rngWord (T.cr 0x540).toNat n] }.setCr 0x542 (w64 ((n + 1) % 2 ^ 59))

def execRngAppend (t : BitVec 14) (s : State) : Res := onTile t fun n => .next (s.modTile n Tile.appendRng)

/-! ### Control-register writes as they take effect (R206) -/

def execRngSeedWrite (t : BitVec 14) (v : BitVec 64) (s : State) : Res :=
  onTile t fun n => .next (s.cregWrite n 0 0x540 0 v)
def execChnCfgWrite (t : BitVec 14) (ch : BitVec 6) (v : BitVec 64) (s : State) : Res :=
  onTile t fun n => .next (s.cregWrite n 0 (0x200 + ch.toNat) 0 v)
def execCauVecWrite (t : BitVec 14) (f : BitVec 6) (v : BitVec 64) (s : State) : Res :=
  onTile t fun n => .next (s.cregWrite n 0 (0x600 + f.toNat) 0 v)
def execPassCfgWrite (t : BitVec 14) (v : BitVec 64) (s : State) : Res :=
  onTile t fun n => .next ((s.cregWrite n 0 0x580 0 v).drain n)
def execRasThreshWrite (t : BitVec 14) (v : BitVec 64) (s : State) : Res :=
  onTile t fun n => .next (s.cregWrite n 0 0x787 0 v)

/-! ### POISON_ROLLBACK (R296) -/

/-- A logged load is issued again, without a token. -/
def Tile.reissue (T : Tile) (m : Cmd) : Tile :=
  let m₁ : Cmd := { m with token := 16 + T.opSeq, ghost := true, next := 0, off := 0, out := 0, bad := none }
  let m₂ : Cmd := { m₁ with lost := none, swait := false, seq := T.opSeq, begun := false }
  { T with cmds := T.cmds ++ [m₂], opSeq := T.opSeq + 1 }

/-- A channel from which context 0 received nothing in the pass: a deferred return that its CHWAIT sent, and which was held, is
deferred again. -/
def Tile.unsendDeferred (T : Tile) (n : Nat) (d : Option (Nat × Nat)) : Tile :=
  if T.pass.heldRet.any (fun r => r.1 == n) ∧ (T.chan n).deferred.isNone then T.setChan n { T.chan n with deferred := d } else T

/-- Step 2: what held sends took goes back; rp, the deferred return and the payloads of each channel from which context 0
received in the pass are as at the opening. -/
def Tile.restoreChannels (T : Tile) : Tile :=
  let T := T.pass.taken.foldl Tile.untake T
  let T := T.pass.rpOpen.foldl (fun (T : Tile) r =>
    let (n, rp, d) := r
    let back := (T.pass.eaten.filter (fun e => e.1 == n)).map (fun e => e.2)
    let ch : Chan := { T.chan n with deferred := d, ready := back ++ (T.chan n).ready }
    if back.isEmpty then T.unsendDeferred n d else (T.modCr (0x240 + n) (setFld · 16 16 rp)).setChan n ch) T
  let P : Pass := { T.pass with held := [], heldCmds := [], taken := [], heldRet := [], eaten := [] }
  { T with pass := P }.modCr 0x582 (setFld · 7 13 0)

/-- The commands that context 0 issued in the pass are done with: their statuses are discarded and their tracker entries retire. -/
def Tile.forget0 (T : Tile) : Tile :=
  let zero := fun (k : TrkKind) => match k with
    | .send c _ | .engine c _ | .direct c | .tile c _ _ | .sendWait c => c == 0
    | .nest slot => T.nestOwner slot == 0
    | .receive _ | .completion | .hostWindow _ => false
  let mine := fun (q : Nat) => T.inPass 0 q
  let T := ({ T with cmds := T.cmds.filter (fun m => m.ctx != 0 || m.ghost || !mine m.seq),
                     trk := T.trk.filter (fun e => !(zero e.kind && mine e.seq)) }).trkCount
  let T := (List.range 4).foldl (fun (T : Tile) (slot : Nat) =>
    if T.nestState slot == 3 && T.nestOwner slot == 0 && mine (T.nest slot).seq then (T.setNestState slot 0).setNest slot {} else T) T
  T.modCtx 0 (fun c =>
    let keep := fun (e : MatStatus) => !mine e.seq
    let run : FidRun := if mine c.run.pseq then { c.run with pend := 0 } else c.run
    { c with matPend := c.matPend.filter keep, boundPend := c.boundPend.filter keep, run := run })

/-- Registers g, p and c from the snapshot; LB_IDX and LB_BODY. -/
def Ctx.restoreSnap (c : Ctx) (P : Pass) : Ctx :=
  let keep := c.regs.filter (fun e => !(e.1 < 80 || (96 ≤ e.1 && e.1 < 112)))
  let c : Ctx := { c with regs := P.snap.foldl (fun m e => mput m e.1 e.2) keep }
  (c.setCr 0x101 P.snapIdx).setCr 0x102 P.snapBody

/-- Step 4: the pass restarts at PASS_PC, word 0, in U mode. -/
def Tile.restart0 (T : Tile) : Tile :=
  let P := T.pass
  let pc := fld (T.cr 0x581) 0 14
  let T := T.modCtx 0 (fun c =>
    let c := (((c.restoreSnap P).modCr 0x015 (setBit · 0 false)).setSt ready 0)
    { c with pc := pc, first := 0, atEnd := .next, savedEnd := .next, midPacket := false, rep := none })
  let P' : Pass := { P with roll := 0 }
  let T := ({ T with pass := P' }.modCr 0x582 (fun w => incFld (setBit w 23 true) 40 8 1)).modCr 0x782 (incFld · 32 16 1)
  T

/-- The steps of R296: first once every command of context 0 has completed, then again once the reissued loads have. -/
def Tile.rollback (T : Tile) : Tile :=
  if T.pass.roll = 1 then
    if T.quiet0 then
      let T := (T.modCtx 0 Ctx.settle).restoreChannels.forget0
      let T := T.pass.log.foldl Tile.reissue T
      let P : Pass := { T.pass with roll := 2 }
      let T : Tile := { T with pass := P }
      if P.log.isEmpty then T.restart0 else T
    else T
  else if T.pass.roll = 2 then
    if T.cmds.all (fun m => m.ctx != 0 || !m.ghost || m.op != 0) then T.restart0 else T
  else T

def execPoisonRollback (t : BitVec 14) (s : State) : Res := onTile t fun n => .next (s.modTile n Tile.rollback)

/-! ### Replays, windows, scrubbing (R207, R291, R300, R305) -/

/-- TIMING_REPLAY: the core is frozen for two cycles (R207). -/
def execTimingReplay (t : BitVec 14) (s : State) : Res :=
  onTile t fun n => .next (s.modTile n (fun T => (T.freeze s.seed n 2).countReplay))

/-- RAS_WINDOW_EXPIRY: the window counts and the hit bits return to 0 (R305). -/
def execRasWindowExpiry (t : BitVec 14) (s : State) : Res := onTile t fun n => .next (s.modTile n Tile.newWindow)

/-- The scrubber reads one pad line. What each of its eight words shows is a choice of the step: 0 no error, 1 a corrected one,
2 an uncorrectable one (R290, R291). -/
def Tile.scrubPad (T : Tile) (s : State) : Tile :=
  let line := T.scrubLine
  let T := (List.range 8).foldl (fun (T : Tile) i =>
    match s.chosen (20 + i) with
    | 1 => T.countEcc 1
    | 2 => T.padLoses (8 * line + i)
    | _ => T) T
  { T with scrubLine := (line + 1) % 65536 }

/-- One macro-set row, each 4,096 cycles while the array is idle: a parity error marks the set poisoned. -/
def Tile.scrubMacro (T : Tile) (s : State) : Tile :=
  let k := T.scrubRow / 256
  let M : MacroSet := { (mget {} T.sets k : MacroSet) with poisoned := true }
  let T := if s.strikes 3 then { T with sets := mput T.sets k M }.countMade 1 else T
  { T with scrubRow := (T.scrubRow + 1) % 512 }

def execScrub (t : BitVec 14) (s : State) : Res :=
  onTile t fun n => .next (s.modTile n (fun T =>
    let due := T.scrubLine % 64 == 63 && T.aq.all (fun o => !o.begun)
    let T := T.scrubPad s
    if due then T.scrubMacro s else T))

end Sys2Proof.Machine
end

