-- ==== Sys2Proof/Machine/Deliver.lean ====
section
/-! DEFINITION. What every agent of the wafer shares: the event ring (R159), tickets awaiting acknowledgement (R101), the
delivery rule (R109, R115, R116, R118), early and overflow buffers (R110, R111), and the delivery of channel payloads
(R85, R87, R88). -/

namespace Sys2Proof.Machine

open Host Sys2Proof

/-! ### Where agents lie (R48, R121, R145) -/

/-- The field of edge number e (R48). -/
def edgeField (e : Nat) : Nat :=
  if e < 6 then e + 1
  else if e < 12 then 15 + 8 * (e - 6)
  else if e < 18 then 62 - (e - 12)
  else 48 - 8 * (e - 18)

def portField (p : Nat) : Nat := edgeField (p / 4)
def stackField (k : Nat) : Nat := edgeField (k / 2)
/-- The corner field of a PCIe link. -/
def linkField (n : Nat) : Nat := if n = 0 then 0 else if n = 1 then 7 else if n = 2 then 63 else 56

def State.agentField (s : State) : Agent → Nat
  | .tile n => s.tileField n
  | .cellar k => stackField k
  | .port p => portField p
  | .pcie n => linkField n
  | .ctrl => 0
  | .overflow f => f

/-! ### The event ring -/

/-- PCIe link n has trained (R148). -/
def State.linkUp (s : State) (n : Nat) : Bool := fld (s.reg0 (offLink n)) 0 3 != 0

/-- Signal an MSI-X vector on a link. -/
def State.signal (s : State) (n v : Nat) : State := { s with host := { s.host with msix := s.host.msix ++ [(n, v)] } }

/-- The management controller writes an event entry, or sets ovf when the ring is full (R159). Module time moves on by an
amount that the model leaves free. -/
def State.report (s : State) (type num plot val : Nat) : State :=
  let w := s.reg0 offEvt
  let head := fld w 0 8
  if (head + 1) % 256 = fld w 8 8 then s.modReg0 offEvt (setBit · 16 true)
  else
    let time := s.host.timeUs + w64 (Config.freeNat s.seed (800 + head))
    let v := type % 2 ^ 16 + num % 2 ^ 16 * 2 ^ 16 + plot % 2 ^ 32 * 2 ^ 32 + val % 2 ^ 64 * 2 ^ 64 + time.toNat * 2 ^ 128
    let H : HostSide := { s.host with ring := writeBytes s.host.ring (32 * head) 32 v, timeUs := time }
    let s := { s with host := H }.modReg0 offEvt (setFld · 0 8 ((head + 1) % 256))
    (List.range 4).foldl (fun s n => if s.linkUp n then s.signal n 1 else s) s

/-! ### Mailbox responses (R155) -/

/-- The response of mailbox n: status, result length, the seq it answers, the result; busy clears, and MSI-X vector 0 is
signalled (R155). A result longer than the buffer, the handles of a large plot, is kept whole beside it (R42; DESIGN CHOICE, log 32: R155
gives the rest no place). -/
def State.mailReply (s : State) (n status : Nat) (data : List Byte) : State :=
  let b := offMbxBuf n
  let seq := readBytes s.host.mbx (b + 4) 4
  let m := writeBytes s.host.mbx (b + 0x1000) 8 (status + data.length % 2 ^ 16 * 2 ^ 16 + seq * 2 ^ 32)
  let H : HostSide := { s.host with
    mbx := putBytes m (b + 0x1008) (data.take 4088), goQ := s.host.goQ.filter (· != n), results := mset [] s.host.results n data }
  ({ s with host := H }.modReg0 (offMbx n) (setBit · 1 false)).signal n 0

/-- A response without a result. -/
def State.mailDone (s : State) (n status : Nat) : State := s.mailReply n status []

/-! ### Acknowledgement (R101) -/

/-- The agent holds a ticket to acknowledge. -/
def State.ackBy (s : State) (a : Agent) (q : Pair) : State :=
  match a with
  | .tile n => s.modTile n (fun T => { T with acks := T.acks ++ [q] })
  | .cellar k => s.modStack k (fun K => { K with acks := K.acks ++ [q] })
  | .port p => s.modPort p (fun P => { P with acks := P.acks ++ [q] })
  | .pcie n => { s with host := { s.host with acks := s.host.acks ++ [(n, q)] } }
  | .ctrl => { s with ctrlAcks := s.ctrlAcks ++ [q] }
  | .overflow _ => s

/-- The tickets of a stamped write: its own, and the copies that an absorbed packet replaced (R108). -/
def Stamp.tickets (st : Stamp) : List Pair :=
  match st.own with
  | none => []
  | some q => q :: (if st.merge then st.deps.filter (fun d => d != q) else [])

def State.ackStamp (s : State) (a : Agent) (st : Option Stamp) : State :=
  ((st.map Stamp.tickets).getD []).foldl (fun s q => s.ackBy a q) s

/-! ### The delivery rule (R109, R115) -/

inductive Verdict where
  | met
  | unmet
  /-- no pair is unmet, and this one is lost -/
  | lost (q : Pair)
deriving DecidableEq, Repr

/-- Every dependence is met by a copy `g` of G; or all that are not are of removed fields; or one is still awaited. A
merge-bit packet has no dependence. -/
def judge (g : Nat → Ticket × Bool) (st : Option Stamp) : Verdict :=
  match st with
  | none => .met
  | some st =>
    if st.merge then .met
    else
      let open_ := st.deps.filter (fun q => !atOrAfter (g q.f).1 q.t)
      match open_ with
      | [] => .met
      | q :: _ => if open_.all (fun q => (g q.f).2) then .lost q else .unmet

/-- The verdict at the destination: that of the overflow buffer stands for a packet which it has returned (R110, R116). -/
def Packet.verdict (p : Packet) (g : Nat → Ticket × Bool) : Verdict :=
  match p.lost, judge g p.stamp with
  | some q, _ => .lost q
  | none, .unmet => if p.met then .met else .unmet
  | none, v => v

def Tile.gAt (T : Tile) (f : Nat) : Ticket × Bool := (T.gcopy f, T.removed f)
def Stack.gAt (K : Stack) (f : Nat) : Ticket × Bool := mget (0xFFFF#16, false) K.gvec f
def Field.gAt (F : Field) (f : Nat) : Ticket × Bool := mget (0xFFFF#16, false) F.ovfG f

/-- Flits of a packet (R69, R125). -/
def Packet.flits (p : Packet) : Nat :=
  match p.body with
  | .payload _ data => linesOf data.length
  | .request _ data _ _ _ _ => (16 + data.length + 63) / 64
  | .response _ _ data _ _ _ _ _ => (4 + data.length + 63) / 64
  | _ => 1

def flitsOf (l : List Packet) : Nat := l.foldl (fun n p => n + p.flits) 0

/-- A buffer of `count` packets and `flits` flits has room for a packet (R110). -/
def roomFor (l : List Packet) (p : Packet) (count flits : Nat) : Bool :=
  decide (l.length < count) && decide (flitsOf l + p.flits ≤ flits)

/-- The overflow buffer of field f takes a packet; with no room the packet stays where it is (R110, R112). -/
def State.overflow (s : State) (f : Nat) (j : Nat) (p : Packet) : State :=
  if roomFor (s.field f).ovf p 512 8192 then (s.dropNet j).modField f (fun F => { F with ovf := F.ovf ++ [p] }) else s

/-- The packet stands at its ejection port, unmet, and neither the early buffer nor the overflow buffer has room for it (R112). -/
def State.refusedAtPort (s : State) (p : Packet) : Bool :=
  p.arrived && !p.met && !roomFor (s.field (s.agentField p.dst)).ovf p 512 8192 &&
    (match p.dst, p.body with
     | .tile t, .payload _ _ => judge (s.tile t).gAt p.stamp == .unmet && !roomFor (s.tile t).ebuf p 32 128
     | .cellar k, .request _ _ _ _ _ _ => judge (s.stack k).gAt p.stamp == .unmet && !roomFor (s.stack k).ebuf p 64 256
     | _, _ => false)

/-- Back-pressure by R112 is in force in field f. -/
def State.backPressed (s : State) (f : Nat) : Bool := s.net.any (fun p => s.agentField p.dst == f && s.refusedAtPort p)

/-! ### Channel payloads (R85, R87, R88, R116) -/

/-- CAU_STAT.loss (R116). -/
def Tile.countLoss (T : Tile) : Tile := T.modCr 0x640 (incFld · 53 8 1)

/-- A free receive-path entry of the region tracker (R85). -/
def Tile.rxFree (T : Tile) : Bool := decide ((T.trk.filter (fun e => 28 ≤ e.n)).length < 4)

/-- The source's coordinate in the plot of tile t (R88). -/
def State.plotCoord (s : State) (t sx sy : Nat) : Nat :=
  let P := s.plot ((s.tile t).plot.getD 0)
  (sx + 120 - P.x0 % 120) % 120 + (sy + 128 - P.y0 % 128) % 128 * 256

/-- The packet names a channel of the given mode, and comes from that channel's peer (R87). -/
def Tile.accepts (T : Tile) (ch mode sx sy : Nat) : Bool :=
  T.chanMode ch == mode && fld (T.cfg ch) 2 7 == sx && fld (T.cfg ch) 9 7 == sy

/-- A packet discarded by R87. -/
def Tile.stray (T : Tile) (ch : Nat) : Tile := T.modCr (0x240 + ch) (incFld · 55 8 1)

/-- The payload goes into the ring at the position of the receiver's own wp (R84, R85). -/
def Tile.receive (T : Tile) (ch src : Nat) (p : Packet) (data : List PByte) (lost : Option Pair) : Tile :=
  let cfg := T.cfg ch
  let n := linesOf data.length
  let wp := fld (T.cst ch) 0 16
  let skip := skipOf cfg wp n
  let addr := (fld cfg 22 16 + (wp + skip) % chSize cfg) * 64
  let T := (T.trkAdd (.receive ch) true addr (addr + 64 * n) true).getD T
  let T := (T.padReceive addr data).modCr (0x240 + ch) (setFld · 0 16 ((wp + skip + n) % (2 * chSize cfg)))
  let none_ : Stamp := { own := none, deps := [], vint := 0 }
  let from_ := tileAt p.sx p.sy
  let P : Payload := { from_ := from_, addr := addr, len := data.length, src := src, stamp := p.stamp.getD none_, lost := lost, lines := n + skip }
  let T := if lost.isSome then T.countLoss else T
  T.setChan ch { T.chan ch with writing := (T.chan ch).writing ++ [P] }

/-- A payload that causal delivery allows: discarded by R87, written, or not yet ejected for want of a receive-path
entry. -/
def State.deliver (s : State) (t : Nat) (p : Packet) (lost : Option Pair) : Option State :=
  match p.body with
  | .payload ch data =>
    let T := s.tile t
    if !T.accepts ch 2 p.sx p.sy then some ((s.modTile t (·.stray ch)).ackStamp (.tile t) p.stamp)
    else if !T.rxFree then none
    else some (s.modTile t (·.receive ch (s.plotCoord t p.sx p.sy) p data lost))
  | _ => some s

/-- The first packet of a list that is met, or lost, and its place. -/
def firstMet (g : Nat → Ticket × Bool) : List Packet → Nat → Option (Nat × Packet × Option Pair)
  | [], _ => none
  | p :: l, i =>
    match judge g p.stamp with
    | .met => some (i, p, none)
    | .lost q => some (i, p, some q)
    | .unmet => firstMet g l (i + 1)

/-- Met packets leave the early buffer of a tile, oldest first, as far as they can be delivered (R111). -/
def State.releaseEarly (s : State) (t : Nat) : Nat → State
  | 0 => s
  | n + 1 =>
    let T := s.tile t
    match firstMet T.gAt T.ebuf 0 with
    | none => s
    | some (i, p, lost) =>
      match s.deliver t p lost with
      | none => s
      | some s' => (s'.modTile t (fun T => { T with ebuf := T.ebuf.eraseIdx i })).releaseEarly t n

def State.releaseTile (s : State) (t : Nat) : State := s.releaseEarly t (s.tile t).ebuf.length

/-- CHANNEL_PAYLOAD_ARRIVAL: the packet at place j of the network is at its ejection port. At a tile of a plot that is not
released yet it waits (R165). -/
def execChannelPayloadArrival (j : Nat) (s : State) : Res :=
  match s.net[j]? with
  | none => .next s
  | some p =>
    match p.dst, p.body with
    | .tile t, .payload _ _ =>
      if !p.arrived || ((s.tile t).plot.isSome && !(s.tile t).released) then .next s
      else if !s.fresh p then .next ((s.dropNet j).stale t)
      else
        let s := s.releaseTile t
        let v := p.verdict (s.tile t).gAt
        match v with
        | .unmet =>
          if roomFor (s.tile t).ebuf p 32 128 then
            .next ((s.dropNet j).modTile t (fun T => { T with ebuf := T.ebuf ++ [p] }))
          else .next (s.overflow (s.tileField t) j p)
        | .met => .next (((s.deliver t p none).map (·.dropNet j)).getD s)
        | .lost q => .next (((s.deliver t p (some q)).map (·.dropNet j)).getD s)
    | _, _ => .next s

/-- PAYLOAD_FULLY_WRITTEN: the oldest payload of the channel is whole in the pad (R85, R88). -/
def execPayloadFullyWritten (t : BitVec 14) (ch : BitVec 6) (s : State) : Res :=
  let n := t.toNat
  let c := ch.toNat
  if 15360 ≤ n then .fault .offWafer
  else
    let T := s.tile n
    match (T.chan c).writing with
    | [] => .next s
    | p :: l =>
      let s := s.modTile n (fun T =>
        let T := T.setChan c { T.chan c with writing := l }
        { T with trk := eraseFirst (fun e => e.kind == TrkKind.receive c && e.lo == p.addr) T.trk }.trkCount)
      let s := s.ackStamp (.tile n) (some p.stamp)
      let T := s.tile n
      let s := if bit (T.arm c) 16 then s.deliverArrival n (fld (T.arm c) 14 2) (p.arrival c)
        else s.modTile n (fun T => T.setChan c { T.chan c with ready := (T.chan c).ready ++ [p] })
      .next (s.releaseTile n)

/-! ### Window returns (R86, R87, R429) -/

def execWindowReturnSend (t : BitVec 14) (ch : BitVec 6) (s : State) : Res :=
  let n := t.toNat
  let c := ch.toNat
  if 15360 ≤ n then .fault .offWafer
  else if s.grafting n then .next s
  else
    let T := s.tile n
    match (T.chan c).ret with
    | none => .next s
    | some (lines, pkts) =>
      let d := tileAt (fld (T.cfg c) 2 7) (fld (T.cfg c) 9 7)
      let s := s.modTile n (fun T => T.setChan c { T.chan c with ret := none })
      .next (s.inject (mkPacket n d (.tile d) 1 none (.winret (fld (T.cfg c) 16 6) lines pkts)))

/-- Lines and packets come back to a send channel; win never exceeds 2^size (R84, R86). -/
def Tile.addWindow (T : Tile) (ch lines pkts : Nat) : Tile :=
  T.modCr (0x240 + ch) (fun w =>
    let w := setFld w 32 16 (min (chSize (T.cfg ch)) (fld w 32 16 + lines))
    setFld w 48 5 (min 16 (fld w 48 5 + pkts)))

def execWindowReturnReceive (j : Nat) (s : State) : Res :=
  match s.net[j]? with
  | none => .next s
  | some p =>
    match p.dst, p.body with
    | .tile t, .winret ch lines pkts =>
      if !p.arrived then .next s
      else if (s.tile t).accepts ch 1 p.sx p.sy then .next ((s.dropNet j).modTile t (·.addWindow ch lines pkts))
      else .next ((s.dropNet j).modTile t (·.stray ch))
    | _, _ => .next s

end Sys2Proof.Machine
end

