-- ==== Sys2Proof/Machine/Causal.lean ====
section
/-! DEFINITION. Tickets and the stable vector: sequencers, blocks, acknowledgements, the trellis broadcast, releases by a
G update (R96 to R112). -/

namespace Sys2Proof.Machine

open Host Sys2Proof

/-- HOST_CAU_FLD.stale of the port's field (R118, R120). -/
def State.stalePort (s : State) (f : Nat) : State := s.modReg0 (offCau f) (incFld · 54 8 1)

/-! ### The agents of R99 that are no tiles -/

/-- With the first block used up the second takes its place. -/
def TicketAgent.refill (a : TicketAgent) : TicketAgent :=
  match a.next2 with
  | some b => if a.left = 0 then { a with next := b, left := 64, next2 := none } else a
  | none => a

/-- A block arrives. -/
def TicketAgent.grant (a : TicketAgent) (first : Ticket) : TicketAgent :=
  if a.left = 0 then { a with next := first, left := 64, req := false } else { a with next2 := some first, req := false }

/-- `n` tickets are returned. -/
def TicketAgent.drop (a : TicketAgent) (n : Nat) : TicketAgent :=
  { a with next := a.next + BitVec.ofNat 16 n, left := a.left - n }.refill

def TicketAgent.staleTickets (a : TicketAgent) : Nat :=
  ((List.range a.left).takeWhile (fun i => atOrAfter a.v (a.next + BitVec.ofNat 16 i))).length

/-- The agent of a port's ingress or of a link's BAR 4 path. -/
def State.ticketAgent (s : State) : Agent → TicketAgent
  | .port p => (s.port p).ing
  | .pcie n => (s.field (linkField n)).b4
  | _ => {}

def State.setTicketAgent (s : State) (a : Agent) (x : TicketAgent) : State :=
  match a with
  | .port p => s.modPort p (fun P => { P with ing := x })
  | .pcie n => s.modField (linkField n) (fun F => { F with b4 := x })
  | _ => s

/-- The agent asks for a block, once (R97). -/
def State.askAgent (s : State) (a : Agent) : State :=
  let x := s.ticketAgent a
  if x.req then s
  else (s.setTicketAgent a { x with req := true }).modField (s.agentField a) (fun F => { F with blockQ := F.blockQ ++ [a] })

/-- `n` tickets of the agent go back to its sequencer (R98, R99). -/
def State.returnAgent (s : State) (a : Agent) (n : Nat) : State :=
  let x := s.ticketAgent a
  let s := (ticketRange (s.agentField a) x.next n).foldl (fun s q => s.ackBy a q) s
  s.setTicketAgent a (x.drop n)

/-- The null pair of an agent that lies in field f and keeps no copy of G: from the point last posted (R99, R106). -/
def State.nullAt (s : State) (f : Nat) : Pair := ⟨f, (s.field f).posted - 16384#16⟩

/-- Stamp a write of the agent: its ticket, and its own pending entry as the one dependence, so that each packet depends on
the one before it (R99). None when no ticket is at hand; a block is then asked for. -/
def State.stampAgent (s : State) (a : Agent) : State × Option Stamp :=
  let f := s.agentField a
  let s := s.returnAgent a (s.ticketAgent a).staleTickets
  let s := s.returnAgent a (s.ticketAgent a).staleTickets
  let x := s.ticketAgent a
  if x.left = 0 then (s.askAgent a, none)
  else
    let deps := if exceeds x.v (s.field f).posted then [Pair.mk f x.v] else []
    let st : Stamp := { own := some (Pair.mk f x.next), deps := deps, vint := s.vint, null := s.nullAt f }
    let x' := { x with v := wmax x.v x.next, next := x.next + 1, left := x.left - 1 }.refill
    let s := s.setTicketAgent a x'
    (if x'.left ≤ 16 ∧ x'.next2.isNone then s.askAgent a else s, some st)

/-- The stamp of a read by the agent: its pending entry (R153). -/
def State.readStamp (s : State) (a : Agent) : Stamp :=
  let f := s.agentField a
  let x := s.ticketAgent a
  { own := none, deps := if exceeds x.v (s.field f).posted then [Pair.mk f x.v] else [], vint := s.vint, null := s.nullAt f }

/-! ### Blocks (R97, R99) -/

/-- A block reaches the agent that asked. A tile under graft acts on it once the graft ends (R92); one that a graft has moved to
another field returns it at once. -/
def State.grantBlock (s : State) (f : Nat) (a : Agent) (first : Ticket) : State :=
  match a with
  | .tile t =>
    if s.grafting t then s.modTile t (fun T => { T with heldBlocks := T.heldBlocks ++ [(f, first)] }) else
    let s := s.modTile t (·.modCr 0x640 (setBit · 37 false))
    if s.tileField t ≠ f then s.modTile t (fun T => { T with acks := T.acks ++ ticketRange f first 64 })
    else s.modTile t (fun T =>
      if T.blockLeft = 0 then T.setBlock first 64 else { T with blockNext2 := some first })
  | a => s.setTicketAgent a ((s.ticketAgent a).grant first)

/-- The agents that hold a block of tickets: a tile, a port's ingress, a link's BAR 4 path (R99). An agent that the wafer does not
have stops the step. -/
def asHolder (a : Agent) (s : State) (k : State → Res) : Res :=
  match a with
  | .tile n => if 15360 ≤ n then .fault .offWafer else k s
  | .port p => if 96 ≤ p then .fault .offWafer else k s
  | .pcie n => if 4 ≤ n then .fault .offWafer else k s
  | _ => .next s

/-- The unused remainder of the agent's blocks is returned (R99). -/
def State.returnAll (s : State) (a : Agent) : State :=
  match a with
  | .tile n => s.modTile n (·.returnBlock (s.tileField n))
  | a =>
    let s := s.returnAgent a (s.ticketAgent a).left
    s.returnAgent a (s.ticketAgent a).left

/-- TICKET_IDLE_RETURN: the agent has issued no stamped write for 1,024 cycles (R99). -/
def execTicketIdleReturn (a : Agent) (s : State) : Res := asHolder a s fun s => .next (s.returnAll a)

/-- Every ticket of [a, a + n) is stable or marked. -/
def Field.acked (F : Field) (a : Ticket) (n : Nat) : Bool :=
  (ticketRange 0 a n).all (fun q => atOrAfter F.stable q.t || F.marked.contains q.t)

/-- SEQUENCER_RECALL: a block of the agent is out while every ticket after it has been acknowledged or returned (R99). -/
def execSequencerRecall (f : BitVec 6) (a : Agent) (s : State) : Res :=
  let F := s.field f.toNat
  let live := F.blocks.filter (fun b => !F.acked b.2 64)
  let due := live.any (fun b => b.1 == a && F.acked (b.2 + 64#16) (F.next - (b.2 + 64#16)).toNat)
  let recalled := if due && !F.recalled.contains a then F.recalled ++ [a] else F.recalled
  .next (s.setField f.toNat { F with blocks := live, recalled := recalled })

/-- The agent is a tile under graft, which acts on class 0 traffic once the graft has ended (R92). -/
def State.graftedAgent (s : State) (a : Agent) : Bool :=
  match a with
  | .tile t => s.grafting t
  | _ => false

/-- RECALL_ANSWER: the agent returns its remaining tickets (R99). -/
def execRecallAnswer (a : Agent) (s : State) : Res :=
  asHolder a s fun s =>
    let f := s.agentField a
    if (s.field f).recalled.contains a && !s.graftedAgent a then
      .next ((s.modField f (fun F => { F with recalled := F.recalled.filter (fun m => m != a) })).returnAll a)
    else .next s

/-! ### Acknowledgement (R101, R102) -/

/-- The tickets an agent holds for acknowledgement. -/
def State.acksOf (s : State) : Agent → List Pair
  | .tile n => (s.tile n).acks
  | .cellar k => (s.stack k).acks
  | .port p => (s.port p).acks
  | .pcie n => (s.host.acks.filter (fun e => e.1 == n)).map (·.2)
  | .ctrl => s.ctrlAcks
  | .overflow _ => []

def State.setAcks (s : State) (a : Agent) (l : List Pair) : State :=
  match a with
  | .tile n => s.modTile n (fun T => { T with acks := l })
  | .cellar k => s.modStack k (fun K => { K with acks := l })
  | .port p => s.modPort p (fun P => { P with acks := l })
  | .pcie n => { s with host := { s.host with acks := s.host.acks.filter (fun e => e.1 != n) ++ l.map (fun q => (n, q)) } }
  | .ctrl => { s with ctrlAcks := l }
  | .overflow _ => s

/-- The first `n` pairs of field f, and the rest. -/
def takeField (f : Nat) : Nat → List Pair → List Ticket × List Pair
  | 0, l => ([], l)
  | _, [] => ([], [])
  | n + 1, q :: l =>
    if q.f = f then let r := takeField f n l; (q.t :: r.1, r.2) else let r := takeField f (n + 1) l; (r.1, q :: r.2)

/-- The consecutive tickets at the head of a list: a returned range (R101). -/
def runOf : List Pair → Nat
  | q :: r :: l => if q.f = r.f ∧ r.t = q.t + 1 then runOf (r :: l) + 1 else 1
  | [_] => 1
  | [] => 0

/-- ACK_FLIT_SEND: one flit carries up to 24 tickets of one field, or a range of up to 64 consecutive ones. -/
def execAckFlitSend (a : Agent) (s : State) : Res :=
  match s.acksOf a with
  | [] => .next s
  | q :: l =>
    let n := max 24 (min 64 (runOf (q :: l)))
    let r := takeField q.f n (q :: l)
    .next ((s.setAcks a r.2).modField q.f (fun F => { F with ackIn := F.ackIn ++ [r.1] }))

/-- S moves to the highest ticket with every one before it marked (R102). -/
def advanceStable (S : Ticket) (marked : List Ticket) : Nat → Ticket × List Ticket
  | 0 => (S, marked)
  | n + 1 => if marked.contains (S + 1) then advanceStable (S + 1) (marked.filter (fun t => t != S + 1)) n else (S, marked)

/-- ACK_RECEIVE: the oldest flit reaches the sequencer. A removed field's acknowledgements are discarded (R115). -/
def execAckReceive (f : BitVec 6) (s : State) : Res :=
  let F := s.field f.toNat
  match F.ackIn with
  | [] => .next s
  | ts :: l =>
    if F.removed then .next (s.setField f.toNat { F with ackIn := l })
    else
      let new := ts.filter (fun t => exceeds t F.stable && !F.marked.contains t)
      let marked := F.marked ++ new
      let r := advanceStable F.stable marked marked.length
      .next (s.setField f.toNat { F with ackIn := l, stable := r.1, marked := r.2 }).noteAcked

/-! ### The stable vector (R103, R104, R111) -/

/-- The agent's one-entry vector after a G update of its field (R99, R104). -/
def TicketAgent.raise (a : TicketAgent) (g : Ticket) : TicketAgent := if exceeds a.v g then a else { a with v := g }

/-- The ports of field f move their entries to the point that the sequencer posts (R99). -/
def State.raisePorts (s : State) (f : Nat) : State :=
  ((List.range 96).filter (fun p => portField p == f)).foldl (fun s p => s.modPort p (fun P => { P with ing := P.ing.raise (s.field f).posted })) s

/-- STABLE_POST: the sequencer posts S into the trellis. A removed field's entry is frozen. The agents of the field that receive no
broadcast, its ports' ingress and its BAR 4 path, take the new point here. -/
def execStablePost (f : BitVec 6) (s : State) : Res :=
  .next ((s.modField f.toNat (fun F => if F.removed then F else { F with posted := F.stable, b4 := F.b4.raise F.stable })).raisePorts f.toNat)

/-- TRELLIS_BROADCAST: the trellis assembles G from the posts and sends it. At most five broadcasts are on their way at
once, since one goes out every 64 cycles and arrives within 300. -/
def execTrellisBroadcast (s : State) : Res :=
  let G : AMap (Ticket × Bool) := (List.range 64).foldl (fun m f =>
    mset (0xFFFF#16, false) m f ((s.field f).posted, (s.field f).removed)) []
  .next { s with gvec := G, gcasts := (G :: s.gcasts).take 5 }

/-- A copy's entry moves forward only: a new point replaces it where it exceeds it. -/
def joinG (old new : Ticket × Bool) : Ticket × Bool := (if exceeds new.1 old.1 then new.1 else old.1, old.2 || new.2)

/-- The tile's copy and its vector after a broadcast (R104). -/
def Tile.updateG (T : Tile) (G : AMap (Ticket × Bool)) : Tile :=
  (List.range 64).foldl (fun (T : Tile) f =>
    let g := joinG (T.gAt f) (mget (0xFFFF#16, false) G f)
    T.setVec f (if exceeds (T.vec f) g.1 then T.vec f else g.1) g.1 g.2) T

def updateCopy (m G : AMap (Ticket × Bool)) : AMap (Ticket × Bool) :=
  (List.range 64).foldl (fun m f =>
    mset (0xFFFF#16, false) m f (joinG (mget (0xFFFF#16, false) m f) (mget (0xFFFF#16, false) G f))) m

/-- The pending entries of P, in increasing field order (R105). -/
def Stack.pendingP (K : Stack) : List Pair :=
  (K.pvec.filter (fun e => exceeds e.2 (K.gAt e.1).1)).map (fun e => Pair.mk e.1 e.2)

/-- A PHYS_COPY sector, or another request that is no packet of the fabric, has no stamp and no requester's tile (R157). -/
def Packet.copyOf (p : Packet) : Option Nat :=
  match p.src, p.body with
  | .pcie n, .request _ _ 1 _ _ _ => some n
  | _, _ => none

/-- The requests of port k that a page in SWITCH, or a held one, holds: they stay in the port's own miss queue, whichever port racks the
page (R136). -/
def State.heldOf (s : State) (k : Nat) : List Packet :=
  s.cellars.flatMap (fun e => e.2.racks.flatMap (fun r => r.held.filter (fun p => p.dst == .cellar k)))

/-- Requests past the delivery rule that wait at the port, held ones among them: the use of its miss queue (R131, R136). -/
def State.missq (s : State) (k : Nat) : Nat :=
  let K := s.stack k
  K.homeQ.length + K.walkQ.length + (K.ready.filter (fun p => p.copyOf.isNone)).length + (s.heldOf k).length

/-- Requests that the miss queue of a port holds (R131). -/
def missRoom : Nat := 4096

/-- A request leaves step 1 of R131, behind those that have left it. -/
def Stack.leaveStep1 (K : Stack) (p : Packet) : Stack :=
  { K with ready := K.ready ++ [{ p with turn := K.turns }], turns := K.turns + 1 }

/-- Requests of a cellar port that the delivery rule lets through leave its early buffer, oldest first, `n` of them at most (R111). -/
def Stack.releaseEarly (K : Stack) : Nat → Stack
  | 0 => K
  | n + 1 =>
    match firstMet K.gAt K.ebuf 0 with
    | none => K
    | some (i, p, _) => ({ K with ebuf := K.ebuf.eraseIdx i }.leaveStep1 p).releaseEarly n

/-- The same while the miss queue has room (R131). -/
def State.releaseStack (s : State) (k : Nat) : State := s.modStack k (fun K => K.releaseEarly (min (missRoom - s.missq k) K.ebuf.length))

/-- Responses delayed for more than four pending entries leave once four remain (R105). -/
def State.releaseLate (s : State) (k : Nat) : State :=
  let K := s.stack k
  if 4 < K.pendingP.length then s
  else
    let out := K.late.map (fun p => { p with stamp := p.stamp.map (fun st => { st with deps := K.pendingP }) })
    { s.modStack k (fun K => { K with late := [] }) with net := s.net ++ out }

/-- G_UPDATE: a broadcast reaches one receiver. Which of the broadcasts on their way it is, is a choice of
the step. -/
def execGUpdate (a : Agent) (s : State) : Res :=
  let G := s.gcasts.getD (s.chosen 700 % max 1 s.gcasts.length) []
  if s.gcasts.isEmpty then .next s
  else match a with
    | .tile t =>
      if 15360 ≤ t then .fault .offWafer
      else if s.grafting t then .next (s.modTile t (fun T => { T with heldG := some (updateCopy (T.heldG.getD []) G) }))
      else .next (((s.modTile t (·.updateG G)).releaseTile t).drain t)
    | .cellar k =>
      if 48 ≤ k then .fault .offWafer
      else
        let s := s.modStack k (fun K =>
          let K := { K with gvec := updateCopy K.gvec G }
          { K with pvec := K.pvec.filter (fun e => exceeds e.2 (K.gAt e.1).1) })
        .next ((s.releaseStack k).releaseLate k)
    | .overflow f =>
      if 64 ≤ f then .fault .offWafer else .next (s.modField f (fun F => { F with ovfG := updateCopy F.ovfG G }))
    | _ => .next s

/-- OVERFLOW_RETURN: the oldest met packet goes back to its destination, where it is delivered at once, or loss-delivered where the buffer
found a pair of it lost (R110, R111, R116). -/
def execOverflowReturn (f : BitVec 6) (s : State) : Res :=
  let n := f.toNat
  let F := s.field n
  match firstMet F.gAt F.ovf 0 with
  | none => .next s
  | some (i, p, lost) =>
    let s := s.setField n { F with ovf := F.ovf.eraseIdx i }
    let home := s.agentTile (.overflow n)
    let q := { p with met := true, lost := lost, arrived := false, px := tileX home, py := tileY home, set1 := false, esc := false, turned := false, inDir := none }
    .next (s.inject q)

/-- The packets that the buffers of field f hold, with the copy of G by which each is judged. -/
def State.heldPackets (s : State) (f : Nat) : List (Packet × (Nat → Ticket × Bool)) :=
  (s.field f).ovf.map (fun p => (p, (s.field f).gAt)) ++
    (s.tiles.filter (fun e => s.tileField e.1 == f)).flatMap (fun e => e.2.ebuf.map (fun p => (p, e.2.gAt))) ++
    (s.cellars.filter (fun e => stackField e.1 == f)).flatMap (fun e => e.2.ebuf.map (fun p => (p, e.2.gAt)))

/-- The first dependence of a packet that the copy `g` does not meet and that is not lost. -/
def unmetPair (g : Nat → Ticket × Bool) (st : Option Stamp) : Option Pair :=
  match st with
  | none => none
  | some st => if st.merge then none else st.deps.find? (fun q => !atOrAfter (g q.f).1 q.t && !(g q.f).2)

/-- The copy of G by which an agent judges a packet. -/
def State.copyAt (s : State) : Agent → Nat → Ticket × Bool
  | .tile t => (s.tile t).gAt
  | .cellar k => (s.stack k).gAt
  | .overflow f => (s.field f).gAt
  | _ => fun f => mget (0xFFFF#16, false) s.gvec f

/-- The packet waits for a ticket that a sequencer has not stable, and a stall for that sequencer has been reported: no broadcast brings it,
and a resynchronisation has to follow (R112, R117; DEDUCED, log 36). -/
def State.stuck (s : State) (g : Nat → Ticket × Bool) (p : Packet) : Bool :=
  match p.stamp with
  | none => false
  | some st => !st.merge && st.deps.any (fun d => !atOrAfter (g d.f).1 d.t && !(g d.f).2 && exceeds d.t (s.field d.f).stable &&
      s.fields.any (fun e => (e.2.stalled.map (fun x => x.2.f == d.f)).getD false))

/-- The packet stands refused at its ejection port, and a reported stall holds it there. -/
def State.stuckAtPort (s : State) (p : Packet) : Bool := s.refusedAtPort p && s.stuck (s.copyAt p.dst) p

/-- CAUSAL_STALL: a packet of the field's buffers has stayed held for 2^22 cycles with its dependence unmoved; which one of those
held it is, is a choice of the step. The stall is set, the destination and the pair go to the management controller, and a
resynchronisation has to follow (R112, R117, R159). -/
def execCausalStall (f : BitVec 6) (s : State) : Res :=
  let n := f.toNat
  let l := s.heldPackets n
  match l[s.chosen 951 % max 1 l.length]? with
  | none => .next s
  | some (p, g) =>
    match unmetPair g p.stamp with
    | none => .next s
    | some q =>
      let site := (s.mapEntry (s.agentTile p.dst)).site.getD 0
      let s := (s.modReg0 (offCau n) (setBit · 53 true)).modField n (fun F => { F with stalled := some (p.dst, q) })
      .next { s.report 10 n 0 site with resyncDue := true }

end Sys2Proof.Machine
end

