-- ==== Sys2Proof/Machine/Route.lean ====
section
/-! DEFINITION. Routes (R70, R74 to R77, R79, R80): dimension order on the logical torus, tunnels of displaced tiles, the
west-first escape set on the physical sites, and the class 0 cost of a path (R73). Directions are numbered N, E, S, W. -/

namespace Sys2Proof.Machine

open Host Sys2Proof

/-! ### Sites (R27) -/

def siteX (n : Nat) : Nat := n / 256 % 8 * 16 + n % 16
def siteY (n : Nat) : Nat := n / 256 / 8 * 16 + n / 16 % 16
def siteAt (x y : Nat) : Nat := (y / 16 * 8 + x / 16) * 256 + y % 16 * 16 + x % 16

def State.site (s : State) (n : Nat) : Site := mget {} s.sites n
def State.modSite (s : State) (n : Nat) (f : Site → Site) : State := { s with sites := mput s.sites n (f (s.site n)) }

/-- The physical neighbour of a position in a direction, without wrap. -/
def neighbour (x y d : Nat) : Option (Nat × Nat) :=
  if d = 0 then (if y = 0 then none else some (x, y - 1))
  else if d = 1 then (if x = 127 then none else some (x + 1, y))
  else if d = 2 then (if y = 127 then none else some (x, y + 1))
  else if x = 0 then none else some (x - 1, y)

/-- Cycles of a hop between two sites (R70). -/
def hopCost (a b : Nat) : Nat := if siteField a = siteField b then 2 else 6

/-! ### Links (R68, R75). Links 0 to 3 of a router are its links N, E, S and W, 4 to 7 its skip links in the same order. -/

/-- The number by which the far end knows a link. -/
def opposite (l : Nat) : Nat := l / 4 * 4 + (l % 4 + 2) % 4

/-- The link that carries a logical hop of `steps` positions in direction d from site a to site b: the neighbour link where
the sites are adjacent in their row, the north or south link with its column selector, and a skip link otherwise (R75, R76). A
wrap link is a link of the sites at the ends of the ring. Logical neighbours three columns apart, from column 14 of a row that is not
shifted to column 1 of the next field's shifted row, are on the skip link too: R75 names no link for them (DESIGN CHOICE, log 61). -/
def hopLink (d steps a b : Nat) : Nat :=
  let k := (siteX b + 128 - siteX a) % 128
  if steps = 1 ∧ (d % 2 = 0 ∨ k = 1 ∨ k = 127) then d else 4 + d

/-- Sites between two sites that a skip of one logical position in direction d passes (R76): in a row, with wrap, by their columns; a
north or south skip passes one row. -/
def siteGap (d a b : Nat) : Nat :=
  if d % 2 = 0 then 1 else let k := (siteX b + 128 - siteX a) % 128; min k (128 - k) - 1

/-- The link of a site in direction d works at both ends, and joins two sites whose routers are in service. -/
def State.linkGood (s : State) (x y d : Nat) : Bool :=
  match neighbour x y d with
  | none => false
  | some (x', y') =>
    let a := s.site (siteAt x y)
    let b := s.site (siteAt x' y')
    a.usable && b.usable && !a.links.getLsbD d && !b.links.getLsbD ((d + 2) % 4)

/-! ### The escape set (R79): all west hops first, then north, east and south -/

/-- Distances of the rows of a column, improved by one hop to the south from row to row. -/
def relaxSouth (s : State) (x : Nat) : Nat → Option Nat → List (Option Nat) → List (Option Nat)
  | _, _, [] => []
  | y, prev, d :: l =>
    let via := match prev with
      | some n => if 0 < y && s.linkGood x (y - 1) 2 then some (n + hopCost (siteAt x (y - 1)) (siteAt x y)) else none
      | none => none
    let best := match d, via with
      | some a, some b => some (min a b)
      | some a, none => some a
      | none, v => v
    best :: relaxSouth s x (y + 1) best l

/-- The same to the north; the list runs from row 127 to row 0. -/
def relaxNorth (s : State) (x : Nat) : Nat → Option Nat → List (Option Nat) → List (Option Nat)
  | _, _, [] => []
  | y, prev, d :: l =>
    let via := match prev with
      | some n => if s.linkGood x (y + 1) 0 then some (n + hopCost (siteAt x (y + 1)) (siteAt x y)) else none
      | none => none
    let best := match d, via with
      | some a, some b => some (min a b)
      | some a, none => some a
      | none, v => v
    best :: relaxNorth s x (y - 1) best l

def relaxColumn (s : State) (x : Nat) (l : List (Option Nat)) : List (Option Nat) :=
  (relaxNorth s x 127 none (relaxSouth s x 0 none l).reverse).reverse

/-- One hop east of every row. -/
def eastColumn (s : State) (x : Nat) (l : List (Option Nat)) : List (Option Nat) :=
  l.mapIdx (fun y d => d.bind (fun n =>
    if s.linkGood x y 1 then some (n + hopCost (siteAt x y) (siteAt (x + 1) y)) else none))

def sweepEast (s : State) (x : Nat) : Nat → List (Option Nat) → List (Option Nat)
  | 0, l => relaxColumn s x l
  | n + 1, l => sweepEast s (x + 1) n (eastColumn s x (relaxColumn s x l))

/-- Cost of the cheapest path of north, east and south hops. -/
def State.eastCost (s : State) (x y x' y' : Nat) : Option Nat :=
  if x' < x then none
  else ((sweepEast s x (x' - x) ((List.range 128).map (fun r => if r = y then some 0 else none))).getD y' none)

/-- Cost of the cheapest west-first path; `m` bounds the west hops. -/
def State.westFirst (s : State) : Nat → Nat → Nat → Nat → Nat → Option Nat
  | 0, x, y, x', y' => s.eastCost x y x' y'
  | m + 1, x, y, x', y' =>
    let here := s.eastCost x y x' y'
    let west := if 0 < x && s.linkGood x y 3 then
        (s.westFirst m (x - 1) y x' y').map (· + hopCost (siteAt x y) (siteAt (x - 1) y)) else none
    match here, west with
    | some a, some b => some (min a b)
    | some a, none => some a
    | none, v => v

/-- The sites of removed fields count as unusable, those of the fields of sites a and b apart: no path of the escape set leads through a
removed field, but what stands in one leaves it, and what goes to one arrives (R24, R115, R303; DEDUCED, log 52). -/
def State.around (s : State) (a b : Nat) : State :=
  let out := fun (n : Nat) => (s.field (siteField n)).removed && siteField n != siteField a && siteField n != siteField b
  if s.fields.all (fun e => !e.2.removed) then s
  else { s with sites := s.sites.map (fun e => if out e.1 then (let q : Site := { e.2 with usable := false }; (e.1, q)) else e) }

def State.escapeCost (s : State) (a b : Nat) : Option Nat :=
  (s.around a b).westFirst (siteX a) (siteX a) (siteY a) (siteX b) (siteY b)

/-! ### Displaced tiles (R76) -/

/-- The tile is present and not displaced. -/
def State.grounded (s : State) (t : Nat) : Bool := (s.mapEntry t).site.isSome && !(s.mapEntry t).moved

/-- The nearest grounded tile west of t in its row, with wrap. -/
def State.anchor (s : State) (t : Nat) : Option Nat :=
  ((List.range 119).map (fun k => tileAt (tileX t + 119 - k) (tileY t))).find? s.grounded

/-- Where R74 routes to and from: the tile, or its anchor. -/
def State.ground (s : State) (t : Nat) : Option Nat := if s.grounded t then some t else s.anchor t

def State.siteOf (s : State) (t : Nat) : Nat := (s.mapEntry t).site.getD 0

/-! ### Dimension order (R74) -/

/-- The direction in which a packet at (x, y) travels towards (dx, dy). -/
def routeDir (x y dx dy : Nat) : Option Nat :=
  if x ≠ dx then (if (dx + 120 - x) % 120 ≤ 60 then some 1 else some 3)
  else if y ≠ dy then (if (dy + 128 - y) % 128 ≤ 64 then some 2 else some 0)
  else none

def logicalStep (x y d : Nat) : Nat × Nat :=
  if d = 0 then (x, (y + 127) % 128) else if d = 1 then ((x + 1) % 120, y)
  else if d = 2 then (x, (y + 1) % 128) else ((x + 119) % 120, y)

/-- The hop crosses a wrap link. -/
def wraps (x y x' y' d : Nat) : Bool :=
  (d == 0 && decide (y < y')) || (d == 1 && decide (x' < x)) || (d == 2 && decide (y' < y)) || (d == 3 && decide (x < x'))

/-! ### Failed links (R34, R78) -/

/-- The logical tile at a site. -/
def State.tileOn (s : State) (n : Nat) : Option Nat := (s.map.find? (fun e => e.2.site == some n)).map (·.1)

/-- The site one or two positions away on the wafer, without wrap. -/
def physicalFar (n l : Nat) : Option Nat :=
  (neighbour (siteX n) (siteY n) (l % 4)).bind (fun q =>
    if l < 4 then some (siteAt q.1 q.2) else (neighbour q.1 q.2 (l % 4)).map (fun r => siteAt r.1 r.2))

/-- The site at the other end of link l of site n: by the map where a grounded tile stands there, since the column selectors and
the wrap links follow the logical neighbours (R75), and by the wafer's grid otherwise. -/
def State.farSite (s : State) (n l : Nat) : Option Nat :=
  match (s.tileOn n).filter s.grounded with
  | none => physicalFar n l
  | some t =>
    let p₁ := logicalStep (tileX t) (tileY t) (l % 4)
    let p₂ := logicalStep p₁.1 p₁.2 (l % 4)
    let t₁ := tileAt p₁.1 p₁.2
    let t₂ := tileAt p₂.1 p₂.2
    if s.grounded t₁ && hopLink (l % 4) 1 n (s.siteOf t₁) == l then some (s.siteOf t₁)
    else if !s.grounded t₁ && s.grounded t₂ && siteGap (l % 4) n (s.siteOf t₂) ≤ 1 && hopLink (l % 4) 2 n (s.siteOf t₂) == l then
      some (s.siteOf t₂)
    else physicalFar n l

/-- A link from site a to site b is disabled when either end's record marks it failed (R34). -/
def State.linkDown (s : State) (a l b : Nat) : Bool :=
  (s.site a).links.getLsbD l || (s.site b).links.getLsbD (opposite l)

/-- Every link that is marked failed, at its own site. -/
def State.failedLinks (s : State) : List (Nat × Nat) :=
  s.sites.flatMap (fun e => ((List.range 8).filter (fun l => e.2.links.getLsbD l)).map (fun l => (e.1, l)))

/-- What the router at a logical position does with a packet towards the ground position of its destination. -/
inductive Hop where
  | eject
  /-- the neighbour, or the one beyond a single displaced or absent position over the skip link (R75, R76) -/
  | move (x y d : Nat)
  /-- a detour, or a gap of two positions or sites or more, or one at a turn (R76, R80) -/
  | escape
  /-- over a failed link round which no detour is installed (R34, R78, R80) -/
  | blocked
deriving DecidableEq, Repr

/-- A hop over link l from site a to site b, where the tile at (x, y) stands: a detour takes it into the escape set. -/
def State.hopOver (s : State) (a l b x y d : Nat) : Hop :=
  if s.linkDown a l b then
    (if s.detours.contains (a, l) || s.detours.contains (b, opposite l) then .escape else .blocked)
  else .move x y d

def State.hop (s : State) (x y dx dy : Nat) : Hop :=
  match routeDir x y dx dy with
  | none => .eject
  | some d =>
    let a := s.siteOf (tileAt x y)
    let (x₁, y₁) := logicalStep x y d
    let b₁ := s.siteOf (tileAt x₁ y₁)
    if s.grounded (tileAt x₁ y₁) then s.hopOver a (hopLink d 1 a b₁) b₁ x₁ y₁ d
    else
      let (x₂, y₂) := logicalStep x₁ y₁ d
      let b₂ := s.siteOf (tileAt x₂ y₂)
      if routeDir x₁ y₁ dx dy = some d ∧ s.grounded (tileAt x₂ y₂) ∧ siteGap d a b₂ ≤ 1 then
        s.hopOver a (hopLink d 2 a b₂) b₂ x₂ y₂ d
      else .escape

/-- The link over which a move in direction d from (x, y) to (x', y') enters, as the router there numbers it. -/
def State.entryLink (s : State) (x y d x' y' : Nat) : Nat :=
  opposite (hopLink d (if logicalStep x y d = (x', y') then 1 else 2) (s.siteOf (tileAt x y)) (s.siteOf (tileAt x' y')))

/-- The class 0 cost of the route from a grounded tile to a destination tile whose ground is (dx, dy). -/
def State.routeCost (s : State) (dest dx dy : Nat) : Nat → Nat → Nat → Option Nat
  | 0, _, _ => none
  | n + 1, x, y =>
    match s.hop x y dx dy with
    | .eject => if s.grounded dest then some 0 else s.escapeCost (s.siteOf (tileAt x y)) (s.siteOf dest)
    | .escape => s.escapeCost (s.siteOf (tileAt x y)) (s.siteOf dest)
    | .blocked => none
    | .move x' y' d =>
      let c := if wraps x y x' y' d then 6 else hopCost (s.siteOf (tileAt x y)) (s.siteOf (tileAt x' y'))
      (s.routeCost dest dx dy n x' y').map (· + c)

/-- The sites whose routers the route from a grounded tile to the ground position (dx, dy) uses, and whether it enters the
escape set. -/
def State.routeSites (s : State) (dx dy : Nat) : Nat → Nat → Nat → List Nat × Bool
  | 0, _, _ => ([], true)
  | n + 1, x, y =>
    let here := s.siteOf (tileAt x y)
    match s.hop x y dx dy with
    | .eject => ([here], false)
    | .move x' y' _ => let r := s.routeSites dx dy n x' y'; (here :: r.1, r.2)
    | _ => ([here], true)

/-- The class 0 bound between two tiles (R73). -/
def State.pathCost (s : State) (a b : Nat) : Option Nat :=
  match s.ground a, s.ground b with
  | some ga, some gb =>
    let out := if ga = a then some 0 else s.escapeCost (s.siteOf a) (s.siteOf ga)
    match out, s.routeCost b (tileX gb) (tileY gb) 256 (tileX ga) (tileY ga) with
    | some c, some c' => some (4 + c + c')
    | _, _ => none
  | _, _ => none

def State.pathOk (s : State) (a b : Nat) : Bool := a == b || ((s.pathCost a b).map (decide <| · ≤ 300)).getD false

/-- The tiles of the map that have a site. -/
def State.presentTiles (s : State) : List Nat := (s.map.filter (fun e => e.2.site.isSome)).map (·.1)

/-- Every path that starts or ends at the tile stays within 300 cycles (R77). -/
def State.tileReachable (s : State) (t : Nat) : Bool := s.presentTiles.all (fun u => s.pathOk t u && s.pathOk u t)

/-- Every path stays within 300 cycles (R80). -/
def State.allReachable (s : State) : Bool := s.presentTiles.all s.tileReachable

/-- The map entry of a tile is changed. -/
def State.setMap (s : State) (t : Nat) (e : MapEntry) : State := { s with map := mput s.map t e }

/-- The displaced tiles that are present. -/
def State.displaced (s : State) : List Nat := s.presentTiles.filter (fun t => !s.grounded t)

/-- The map with the tile placed on a spare site. -/
def State.withSpare (s : State) (t spare : Nat) : State := s.setMap t { site := some spare, moved := true }

/-- The same, with the site that the tile leaves defective, as a graft makes it (R36, R90). -/
def State.afterGraft (s : State) (t spare : Nat) : State :=
  match (s.mapEntry t).site with
  | some old => (s.withSpare t spare).modSite old (fun q => { q with usable := false })
  | none => s.withSpare t spare

/-- Every other displaced tile whose anchor the placement changes (R77). -/
def State.reanchored (s : State) (t spare : Nat) : List Nat :=
  s.displaced.filter (fun u => u != t && (s.afterGraft t spare).anchor u != s.anchor u)

/-- The spare site passes the tests of R77 for the tile: its own paths, and every transit path round the gap it leaves, without
the site it leaves. Tiles whose anchor changes are tested by themselves. -/
def State.spareOk (s : State) (t spare : Nat) : Bool :=
  let s' := s.afterGraft t spare
  let moved := s.reanchored t spare
  let rest := s'.presentTiles.filter (fun u => !moved.contains u)
  (s'.ground t).isSome && s'.tileReachable t && rest.all (fun a => rest.all (fun b => s'.pathOk a b))

/-- Every other displaced tile whose anchor the placement changes still passes (R77). -/
def State.anchorsOk (s : State) (t spare : Nat) : Bool :=
  (s.reanchored t spare).all (s.afterGraft t spare).tileReachable

/-- The neighbouring fields in the order N, E, S, W, without wrap (R35). -/
def neighbourFields (f : Nat) : List Nat :=
  (if 8 ≤ f then [f - 8] else []) ++ (if f % 8 < 7 then [f + 1] else []) ++
  (if f < 56 then [f + 8] else []) ++ (if 0 < f % 8 then [f - 1] else [])

/-- Free spares that R35 pass 2 offers to a logical tile of field f, in its order. -/
def State.spareOrder (s : State) (f : Nat) : List Nat := (f :: neighbourFields f).flatMap s.freeSpares

end Sys2Proof.Machine
end

