-- ==== Sys2Proof/Machine/PlotBase.lean ====
section
/-! DEFINITION. What launching, failing and retiring a plot share: its tiles, its stored image, clearing (R38, R40, R164,
R166, R300, R301). -/

namespace Sys2Proof.Machine

open Host Sys2Proof

/-! ### Field clock ceilings (R20) -/

/-- The tiles that the map places on the sites of a field. -/
def State.fieldTiles (s : State) (f : Nat) : List Nat :=
  (s.map.filter (fun e => (e.2.site.map siteField) == some f)).map (·.1)

/-- The ceiling of a field: 1,100 MHz or the lowest recorded maximum of its in-service sites (R20). -/
def State.ceilingOf (s : State) (f : Nat) : Nat :=
  (s.fieldTiles f).foldl (fun m t => min m (s.site (s.siteOf t)).fmax) 1100

/-- HOST_FLD_STATE.ceiling; it does not rise while a plot that caused a graft of the field runs. -/
def State.showCeiling (s : State) (f : Nat) : State :=
  let c := s.ceilingOf f
  let keep := !(s.field f).grafters.isEmpty
  s.modReg0 (offFld f) (fun w => setFld w 0 11 (if keep then min (fld w 0 11) c else c))

/-- The plot runs no longer: the ceilings that its grafts held down follow R20 again. A SWAPPED or SUSPENDED plot counts as running until
it is retired or has failed (DESIGN CHOICE, log 24: R20 does not say). -/
def State.endGrafts (s : State) (p : Nat) : State :=
  (s.fields.filter (fun e => e.2.grafters.contains p)).foldl (fun s e =>
    (s.modField e.1 (fun F => { F with grafters := F.grafters.filter (· != p) })).showCeiling e.1) s

/-! ### Plots -/

/-- The logical tiles of a plot, in row-major plot order (R38, R42). -/
def Plot.tiles (P : Plot) : List Nat :=
  (List.range P.h).flatMap (fun y => (List.range P.w).map (fun x => tileAt (P.x0 + x) (P.y0 + y)))

/-- The image of logical tile t in the image set of its plot (R164). -/
def State.imageTile (s : State) (t : Nat) : Option ImgTile :=
  let P := s.plot ((s.tile t).plot.getD 0)
  let c := s.plotCoord t (tileX t) (tileY t)
  P.img.bind (fun I => I.tiles.find? (fun i => i.x == c % 256 && i.y == c / 256))

/-- Packets at or above 10,880 (R226). -/
def highText (i : ImgTile) : Bool := i.text.any (fun e => decide (3 * 10880 ≤ e.1))

/-- The image's own supervisor stands in for Iluvel's: the test loader, the label svh, and packets from 10,880 on (R427). -/
def ownSupervisor (I : ImageSet) (test : Bool) : Bool :=
  test && (I.svh.map (fun v => decide (10880 ≤ v))).getD false && I.tiles.any highText

/-- The words of a tile's instruction memory: the image's, and from packet 10,880 on Iluvel's supervisor, unless the image
brings its own. -/
def loadText (I : ImageSet) (test : Bool) (i : ImgTile) : AMap Byte :=
  let m := i.text.foldl (fun m e => writeBytes m (4 * e.1) 4 e.2.toNat) ([] : AMap Byte)
  if ownSupervisor I test then m
  else (List.range 126).foldl (fun m k => writeBytes m (4 * (3 * 10880 + k)) 4 (Config.supervisorWord k).toNat) m

/-- The 64-bit instruction words `l` are rewritten from what the loader wrote of the plot's stored image (R300, R301). -/
def State.rewriteImem (s : State) (t : Nat) (l : List Nat) : State :=
  let P := s.plot ((s.tile t).plot.getD 0)
  match s.imageTile t, P.img with
  | some i, some I =>
    let m := loadText I P.test i
    s.modTile t (fun T => { T with imem := l.foldl (fun im w => writeBytes im (8 * w) 8 (readBytes m (8 * w) 8)) T.imem })
  | _, _ => s

/-- Registers of a tile that belong to the machine, not to the plot on it: power, MAP_QSEL, the causal registers, RAS. -/
def keptReg (i : Nat) : Bool :=
  (0x500 ≤ i && i ≤ 0x503) || i == 0x701 || (0x600 ≤ i && i ≤ 0x640) || (0x780 ≤ i && i ≤ 0x787)

/-- The tile holds nothing of a plot any more (R166 step 4). -/
def Tile.cleared (T : Tile) : Tile :=
  let T₀ : Tile := {}
  let T₁ : Tile := { T₀ with clock := T.clock, cycle := T.cycle, slots := T.slots, acks := T.acks, nextTag := T.nextTag }
  let T₂ : Tile := { T₁ with bandRan := T.bandRan, scrubLine := T.scrubLine, scrubRow := T.scrubRow, greq := T.greq }
  { T₂ with creg := T.creg.filter (fun e => keptReg e.1), blockNext2 := T.blockNext2 }

/-- Waiting and outstanding power requests of tile t are withdrawn from its field, and a grant on its way goes back (R192). -/
def State.withdrawPower (s : State) (t : Nat) : State :=
  let s := s.modField (s.tileField t) (fun F =>
    let sent := (F.pwrSent.filter (fun r => r.1 == t)).foldl (fun n r => n + (r.2.cls - (s.tile t).grant)) 0
    { F with rampw := F.rampw && (F.pwrQ.head?.map (·.1)) != some t, granted := F.granted - sent, pwrQ := F.pwrQ.filter (fun r => r.1 != t), pwrSent := F.pwrSent.filter (fun r => r.1 != t) })
  s.modTile t (fun T => { T with pwrq := [], pwrOut := none }.showReq)

/-- What the tile has taken in and not consumed is discarded: stamped writes that wait in its early buffer, or are not fully written, are
acknowledged (R100, R101), and packets that a reported stall holds count as of an old vintage (R118). -/
def State.discardHeld (s : State) (t : Nat) : State :=
  let T := s.tile t
  let out := T.ebuf.filter (s.stuck T.gAt)
  let s := (T.ebuf.filter (fun p => !s.stuck T.gAt p)).foldl (fun s p => s.ackStamp (.tile t) p.stamp) s
  let s := (T.chans.flatMap (fun e => e.2.writing)).foldl (fun s p => s.ackStamp (.tile t) (some p.stamp)) s
  s.modTile t (fun T => { T.modCr 0x640 (incFld · 45 8 out.length) with ebuf := [] })

/-- The tile is given back: its tickets are returned, it holds nothing, its class is 1 (R166 steps 3 and 4, R192). -/
def State.freeTile (s : State) (t : Nat) : State :=
  let s := (((s.discardHeld t).withdrawPower t).modTile t (·.returnBlock (s.tileField t))).setGrant t 1
  s.modTile t Tile.cleared

def State.freeTiles (s : State) (l : List Nat) : State := l.foldl State.freeTile s

/-- A plot is stopped without a save and becomes FAILED; event 8 names it with `where_` in bytes 8 to 15 (R159, R301). -/
def State.failPlot (s : State) (p where_ : Nat) : State :=
  let P := s.plot p
  let s := if P.state = 2 ∨ P.state = 6 then s.freeTiles (P.tiles.filter (fun t => (s.tile t).plot == some p)) else s
  ((s.endGrafts p).modPlot p (fun P => { P with state := 5, failed := w64 where_ })).report 8 0 p where_

end Sys2Proof.Machine
end

