-- ==== Sys2Proof/Machine/Reduce.lean ====
section
/-! DEFINITION. Reductions: the items of an XRED and their operations (R142, R286, R412), and the merging of XRED packets
in routers (R108, R142). -/

namespace Sys2Proof.Machine

open Host Sys2Proof

/-- Operation and type of a RED header's fn field, coded as in MEM_REDW (R125, R142, R410). -/
def redOp (fn : Nat) : Nat := fn / 16 % 8
def redType (fn : Nat) : Nat := fn / 2 % 8
def redBytes (fn : Nat) : Nat := if redType fn = 2 ∨ redType fn = 3 then 8 else 4

/-- One item reduced into another: integers modulo 2^width, FP32 addition to nearest even with subnormals kept. -/
def redItem (fn a b : Nat) : Nat :=
  let n := 8 * redBytes fn
  let signed := redType fn == 0 || redType fn == 2
  let lt := if signed then decide (sext a n < sext b n) else decide (a < b)
  let o := redOp fn
  if redType fn = 4 then fp32.rne false ((fp32.decode a).add (fp32.decode b))
  else if o = 0 then (a + b) % 2 ^ n
  else if o = 1 then (if lt then a else b)
  else if o = 2 then (if lt then b else a)
  else if o = 3 then a &&& b
  else if o = 4 then a ||| b
  else a ^^^ b

/-- Item i of a line's data that starts at byte `first` of its sector: value and poison. -/
def itemAt (data : List PByte) (first w i : Nat) : Nat × Bool :=
  let l := (data.drop (i * w - first)).take w
  (l.foldr (fun (b : PByte) v => b.1.toNat + 256 * v) 0, l.any (fun b => b.2))

/-- The bytes of an item. -/
def itemBytes (w v : Nat) (poison : Bool) : List PByte :=
  (List.range w).map (fun k => (BitVec.ofNat 8 (v / 256 ^ k), poison))

/-- A stamp without pairs. -/
def nullStamp (vint : BitVec 8) : Stamp := { own := none, deps := [], vint := vint }

/-- Window i of MEM_REDW is enabled, holds the whole sector of `va`, and names the request's op and type (R142). -/
def State.inWindow (s : State) (va fn i : Nat) : Bool :=
  let w := s.reg0 (offRedw i)
  let size := 2 ^ (fld w 44 4 + 12)
  let base := fld w 0 44 * 4096
  bit w 54 && decide (fld w 48 3 ≤ 5) && decide (fld w 51 3 ≤ 4) && fld w 48 3 == redOp fn && fld w 51 3 == redType fn &&
    decide (base ≤ va) && decide (va / 64 * 64 + 64 ≤ base + size)

/-- Free copies of pair 0 that a merge may replace (R108). -/
def Stamp.copies (st : Stamp) : Nat := (st.deps.filter (fun q => some q == st.own)).length

/-- `p` may absorb `q` in the router where both stand (R108, R142). -/
def State.mergeable (s : State) (p q : Packet) : Bool :=
  match p.body, q.body, p.stamp, q.stamp with
  | .request h _ _ _ _ _, .request h' _ _ _ _ _, some a, some b =>
    h.op == 2#4 && h'.op == 2#4 && h.merge && h'.merge && a.merge && b.merge && a.vint == b.vint && h.fn == h'.fn &&
      h.va.toNat / 64 == h'.va.toNat / 64 && p.px == q.px && p.py == q.py && p.set1 == q.set1 && p.esc == q.esc &&
      p.dst == q.dst && !p.arrived && !q.arrived && decide (1 ≤ a.copies) && b.copies == 3 &&
      (List.range 8).any (s.inWindow h.va.toNat h.fn.toNat)
  | _, _, _, _ => false

/-- The merged packet: the union of the masks, va and len spanning it, pair 0 of the absorbed packet in place of a copy. -/
def mergePackets (p q : Packet) : Packet :=
  match p.body, q.body, p.stamp, q.stamp with
  | .request h d ctx token elem pad, .request h' d' ctx' token' elem' pad', some a, some b =>
    let w := redBytes h.fn.toNat
    let f := h.va.toNat % 64
    let f' := h'.va.toNat % 64
    let mask := h.rmask ||| h'.rmask
    let has := (List.range (64 / w)).filter (fun i => mask.getLsbD i)
    let lo := has.headD 0
    let hi := has.getLastD 0
    let one := fun (i : Nat) =>
      if h.rmask.getLsbD i && h'.rmask.getLsbD i then
        let x := itemAt d f w i
        let y := itemAt d' f' w i
        itemBytes w (redItem h.fn.toNat x.1 y.1) (x.2 || y.2)
      else if h.rmask.getLsbD i then let x := itemAt d f w i; itemBytes w x.1 x.2
      else if h'.rmask.getLsbD i then let y := itemAt d' f' w i; itemBytes w y.1 y.2
      else itemBytes w 0 false
    let va := h.va.toNat / 64 * 64 + lo * w
    let len := (hi + 1 - lo) * w
    let head := { h with va := BitVec.ofNat 56 va, len := BitVec.ofNat 6 (len - 1), rmask := mask }
    let data := (fromTo lo hi).flatMap one
    let deps := (b.own.toList ++ a.deps.filter (fun x => some x != a.own)) ++ List.replicate (a.copies - 1) (a.own.getD (Pair.mk 0 0))
    let tile := match q.src with | .tile n => n | _ => 0
    let who := Requester.mk tile ctx' token' elem' pad' h'.tag.toNat
    { p with body := .request head data ctx token elem pad, stamp := some { a with deps := deps }, absorbed := p.absorbed ++ [who] }
  | _, _, _, _ => p

end Sys2Proof.Machine
end

