-- ==== Sys2Proof/Machine/Xlate.lean ====
section
/-! DEFINITION. Stacks and translation: interleave sets (R123, R127, R128), page tables and their walks (R129, R130),
where a page lies (R128, R134), sectors with their poison and tags (R139, R141). -/

namespace Sys2Proof.Machine

open Host Sys2Proof

/-- 48 GiB (R121). -/
def stackBytes : Nat := 48 * 2 ^ 30

/-! ### Owners (R123, R127) -/

def State.setReg (s : State) (owner : Nat) : W64 := s.reg0 (offSet (owner - 48))

/-- The stacks of an owner: the stack itself, or the members of a defined set. -/
def State.membersOf (s : State) (owner : Nat) : List Nat :=
  if owner < 48 then [owner] else if owner < 60 ∧ bit (s.setReg owner) 60 then members (s.setReg owner) else []

/-- The stack that holds an owner's tables, and the root's address there (R129). -/
def State.tableStack (s : State) (owner : Nat) : Nat := if owner < 48 then owner else fld (s.setReg owner) 54 6
def State.tableRoot (s : State) (owner : Nat) : Nat :=
  if owner < 48 then fld (s.reg0 (offStk owner)) 2 36 * 2 ^ 19 else fld (s.reg0 (offSetroot (owner - 48))) 0 17 * 2 ^ 19

/-- Set-physical address A of a set of members `ms` (R128). -/
def setMember (ms : List Nat) (A : Nat) : Nat := ms.getD (A / 256 % ms.length) 0
def setOffset (ms : List Nat) (A : Nat) : Nat := A / 256 / ms.length * 256 + A % 256

/-! ### Entries (R130) -/

def leafLoc (e : W64) : Nat := fld e 2 2
def leafFrame (e : W64) : Nat := fld e 16 42 * 65536

/-- A leaf of page size 2^bits at page base `base` of the owner is legal (R128, R130). A loc 1 leaf whose where field is 48 to 63 names no
stack, and fails the walk (DESIGN CHOICE, log 63: R130 gives it no outcome). -/
def State.leafLegal (s : State) (owner base bits : Nat) (e : W64) : Bool :=
  let size := 2 ^ bits
  let f := leafFrame e
  let n := (s.membersOf owner).length
  let loc := leafLoc e
  f % size == 0 &&
    (if loc = 0 then fld e 58 6 == 0 && (if owner < 48 then decide (f + size ≤ stackBytes)
        else decide (f + size ≤ n * stackBytes) && f % (256 * n) == base % (256 * n))
      else if loc = 1 then decide (f + size ≤ stackBytes) && decide (fld e 58 6 < 48)
      else if loc = 2 then fld e 60 4 == 0
      else fld e 58 6 == 0 && fld e 50 8 == 0)

/-- The levels of R129: lowest offset bit indexed, and index bits. -/
def tableLevels : List (Nat × Nat) := [(34, 16), (30, 4), (21, 9), (16, 5)]

def State.read64 (s : State) (k a : Nat) : W64 := w64 (readBytes (s.stack k).mem a 8)

def State.poke (s : State) (k a n v : Nat) : State := s.modStack k (fun K => { K with mem := writeBytes K.mem a n v })

/-- What an entry at a level means. -/
inductive Entry where
  | invalid
  | leaf
  | table (a : Nat)
deriving DecidableEq, Repr

def State.entryAt (s : State) (owner base bits : Nat) (e : W64) : Entry :=
  if !bit e 0 || fld e 11 5 != 0 then .invalid
  else if bit e 1 then (if s.leafLegal owner base bits e then .leaf else .invalid)
  else if bits = 16 || fld e 2 9 != 0 || fld e 50 14 != 0 then .invalid
  else .table (fld e 16 34 * 256)

/-- The address of the access counter that follows a level-3 table. -/
def counterOf (bits tab i : Nat) (cnt : Option Nat) : Option Nat := if bits = 21 then some (tab + 4096 + 2 * i) else cnt

/-- A walk for an offset of the owner, from a table of the first of the levels on. -/
def State.walkFrom (s : State) (owner tstk off : Nat) : List (Nat × Nat) → Nat → Option Nat → Option TlbEntry
  | [], _, _ => none
  | (bits, w) :: l, tab, cnt =>
    let i := off >>> bits % 2 ^ w
    let a := tab + 8 * i
    let e := s.read64 tstk a
    let base := off / 2 ^ bits * 2 ^ bits
    let cnt := counterOf bits tab i cnt
    match s.entryAt owner base bits e with
    | .invalid => none
    | .leaf => some { owner := owner, base := base, bits := bits, leaf := e, entry := a, cnt := cnt }
    | .table next => State.walkFrom s owner tstk off l next cnt

/-- The translation of an offset of an owner, none for XLATE (R130). -/
def State.walk (s : State) (owner off : Nat) : Option TlbEntry :=
  s.walkFrom owner (s.tableStack owner) off tableLevels (s.tableRoot owner) none

/-- Indices of the entries of a table that are not all zero. -/
def tableIdx (m : AMap Byte) (tab w : Nat) : List Nat :=
  ((m.filter (fun e => decide (tab ≤ e.1) && decide (e.1 < tab + 8 * 2 ^ w))).map (fun e => (e.1 - tab) / 8)).dedup

/-- Every leaf of an owner's tables, and every level-3 table with its counters. -/
def State.leavesFrom (s : State) (owner tstk : Nat) : List (Nat × Nat) → Nat → Nat → Option Nat → List TlbEntry
  | [], _, _, _ => []
  | (bits, w) :: l, tab, off, cnt =>
    (tableIdx (s.stack tstk).mem tab w).flatMap (fun i =>
      let base := off + i * 2 ^ bits
      let e := s.read64 tstk (tab + 8 * i)
      let cnt := counterOf bits tab i cnt
      match s.entryAt owner base bits e with
      | .invalid => []
      | .leaf => [{ owner := owner, base := base, bits := bits, leaf := e, entry := tab + 8 * i, cnt := cnt }]
      | .table next => State.leavesFrom s owner tstk l next base cnt)

def State.leaves (s : State) (owner : Nat) : List TlbEntry :=
  s.leavesFrom owner (s.tableStack owner) tableLevels (s.tableRoot owner) 0 none

def State.level3From (s : State) (owner tstk : Nat) : List (Nat × Nat) → Nat → Nat → List Nat
  | [], _, _ => []
  | (bits, w) :: l, tab, off =>
    if bits = 21 then [tab]
    else (tableIdx (s.stack tstk).mem tab w).flatMap (fun i =>
      match s.entryAt owner (off + i * 2 ^ bits) bits (s.read64 tstk (tab + 8 * i)) with
      | .table next => State.level3From s owner tstk l next (off + i * 2 ^ bits)
      | _ => [])

/-- The level-3 tables of an owner. -/
def State.level3 (s : State) (owner : Nat) : List Nat :=
  s.level3From owner (s.tableStack owner) tableLevels (s.tableRoot owner) 0

/-- The owners that have tables: the stacks and the defined sets. -/
def State.owners (s : State) : List Nat :=
  (List.range 60).filter (fun o => decide (o < 48) || bit (s.setReg o) 60)

/-! ### Where a page lies (R128, R134) -/

inductive Loc where
  | sector (k pa : Nat)
  | host (link a : Nat)
  | peer (id off : Nat)
deriving DecidableEq, Repr

/-- Where byte `d` of the page of a leaf lies. A request carries 50 bits of a host address (R123, R125), so the bits of the frame of a
loc 2 leaf above them do not leave the port (DESIGN CHOICE, log 57: R130 lets such a leaf stand). -/
def State.locate (s : State) (owner : Nat) (leaf : W64) (d : Nat) : Loc :=
  let f := leafFrame leaf
  let loc := leafLoc leaf
  if loc = 0 then
    if owner < 48 then .sector owner (f + d)
    else let ms := s.membersOf owner; .sector (setMember ms (f + d)) (setOffset ms (f + d))
  else if loc = 1 then .sector (fld leaf 58 6) (f + d)
  else if loc = 2 then .host (fld leaf 58 2) ((f + d) % 2 ^ 50)
  else .peer (fld leaf 42 8) ((fld leaf 16 26 * 65536 + d) % 2 ^ 42)

/-- A stack that answers every request with BADOWNER: disabled, or FAILED (R122, R303). -/
def State.stackDead (s : State) (k : Nat) : Bool := (s.stack k).disabled || fld (s.reg0 (offStk k)) 0 2 == 3

/-! ### Sectors (R139, R141) -/

/-- The sideband tag of a sector; one that nothing has set names no tile. -/
def Stack.tag (K : Stack) (sec : Nat) : BitVec 16 := mget 0x3FFF#16 K.tags sec
def Stack.setTag (K : Stack) (sec : Nat) (v : BitVec 16) : Stack := { K with tags := mset 0x3FFF#16 K.tags sec v }

/-- The map bit of a sector of a page with quar set. The map's base is that of the port whose stack holds the frame, which wrote it. -/
def State.quarBit (s : State) (owner : Nat) (leaf : W64) (k pa : Nat) : Option QuarBit :=
  if bit leaf 9 then
    let sec := pa % 65536 / 64
    some ⟨s.tableStack owner, fld (s.reg0 (offPois k)) 19 31 * 4096 + leafFrame leaf / 65536 * 128 + sec / 8, sec % 8⟩
  else none

/-- The sector is poisoned: by the port's record, or by the page's map. -/
def State.sectorBad (s : State) (k pa : Nat) (q : Option QuarBit) : Bool :=
  match q with
  | some q => (mget 0#8 (s.stack q.k).mem q.byte).getLsbD q.bit
  | none => (s.stack k).poison.contains (pa / 64)

/-- The bytes of a sector access, every word poisoned when the sector is. -/
def State.sectorData (s : State) (k pa n : Nat) (bad : Bool) : List PByte :=
  (getBytes (s.stack k).mem pa n).map (fun b => (b, bad))

def State.putSector (s : State) (k pa : Nat) (data : List PByte) : State :=
  s.modStack k (fun K => { K with mem := putBytes K.mem pa (data.map (fun (b : PByte) => b.1)) })

/-- Drop a sector from the record, or clear its map bit. -/
def State.cleanSector (s : State) (k pa : Nat) (q : Option QuarBit) : State :=
  match q with
  | some q => s.poke q.k q.byte 1 ((mget 0#8 (s.stack q.k).mem q.byte).toNat &&& (255 - 2 ^ q.bit))
  | none => s.modStack k (fun K => { K with poison := K.poison.filter (fun x => x != pa / 64) })

/-! ### TLBs (R131) -/

def TlbEntry.covers (e : TlbEntry) (owner off : Nat) : Bool :=
  e.owner == owner && decide (e.base ≤ off) && decide (off < e.base + 2 ^ e.bits)

def tlbFind (l : List TlbEntry) (owner off : Nat) : Option TlbEntry := l.find? (fun e => e.covers owner off)

/-- Fill an entry; a full structure gives up the entry `victim`, which the spec leaves open. -/
def tlbFill (l : List TlbEntry) (cap : Nat) (e : TlbEntry) (victim : Nat) : List TlbEntry :=
  let l := l.filter (fun x => !(x.owner == e.owner && x.base == e.base && x.bits == e.bits))
  if l.length < cap then e :: l else e :: l.eraseIdx (victim % cap)

/-- Fill an entry of the 8-way slice of 16,384 entries: a full set gives up one of its entries, which the spec leaves open, as it
does how a page is assigned to its set. -/
def sliceFill (l : List TlbEntry) (e : TlbEntry) (victim : Nat) : List TlbEntry :=
  let l := l.filter (fun x => !(x.owner == e.owner && x.base == e.base && x.bits == e.bits))
  let set := fun (x : TlbEntry) => Config.sliceSet x.owner (x.base / 65536) % 2048
  let mine := l.filter (fun x => set x == set e)
  if mine.length < 8 then e :: l
  else match mine[victim % 8]? with
    | some v => e :: eraseFirst (· == v) l
    | none => e :: l

/-- Every entry of an owner that meets a page is dropped. -/
def tlbDrop (l : List TlbEntry) (owner base bits : Nat) : List TlbEntry :=
  l.filter (fun e => !(e.owner == owner && decide (e.base < base + 2 ^ bits) && decide (base < e.base + 2 ^ e.bits)))

def State.dropPage (s : State) (k owner base bits : Nat) : State :=
  s.modStack k (fun K => { K with tlb := tlbDrop K.tlb owner base bits, slice := tlbDrop K.slice owner base bits })

/-- The member whose second-level slice is home to an offset (R131). -/
def State.homeOf (s : State) (owner off : Nat) : Nat :=
  let ms := s.membersOf owner
  let v := off / 65536
  let h := (v % 65536) ^^^ (v / 65536 % 65536) ^^^ (v / 2 ^ 32 % 4)
  ms.getD (h % max 1 ms.length) 0

end Sys2Proof.Machine
end

