-- ==== Sys2Proof/Machine/Fabric.lean ====
section
/-! DEFINITION. Routers and grafts: what a router does with a packet (R68, R69, R74 to R76, R79, R108), link faults and detours (R78, R80),
the steps of a graft (R47, R89 to R92, R300, R301). -/

namespace Sys2Proof.Machine

open Host Sys2Proof

/-! ### Link errors (R300, R305) -/

/-- Link l of a site is marked failed at its own end. -/
def State.markLink (s : State) (n l : Nat) : State :=
  s.modSite n (fun q => { q with links := q.links ||| BitVec.ofNat 8 (2 ^ l) })

/-- The two ends of a link: the site and the number by which it knows the link. -/
def State.linkEnds (s : State) (n l : Nat) : List (Nat × Nat) :=
  (n, l) :: ((s.farSite n l).map (fun m => (m, opposite l))).toList

/-- A link is marked failed at both ends (R78). -/
def State.failLink (s : State) (n l : Nat) : State := (s.linkEnds n l).foldl (fun s e => s.markLink e.1 e.2) s

/-- Detours round failed links, installed only if every class 0 path then stays within 300 cycles on west-first mesh paths;
otherwise nothing is installed and a full remap follows (R80). -/
def State.detour (s : State) (ends : List (Nat × Nat)) : State :=
  let s' := { s with detours := s.detours ++ ends }
  if ends.isEmpty || s'.allReachable then s'
  else { s with remapDue := true, remapSites := s.remapSites ++ ends.map (fun e => (e.1, BitVec.ofNat 8 (2 ^ e.2))) }

def State.linkFailed (s : State) (n l : Nat) : State := (s.failLink n l).detour (s.linkEnds n l)

/-- LINK_FAIL: a link passes its threshold, or its far router stops answering credits (R78). -/
def execLinkFail (site : BitVec 14) (l : BitVec 3) (s : State) : Res := .next (s.linkFailed site.toNat l.toNat)

/-- A corrected flit on input link l of tile t. RAS_LINK and RAS_LUNC have fields for N, E, S and W: a flit on a skip link counts
in that of its direction (DESIGN CHOICE, log 57: R68 and R305 name none for it). RAS_WIN.hit has one bit for both kinds of link
error, so a count of corrected flits already past the limit tells whether the graft was asked for in this window (R300). -/
def State.linkCorrected (s : State) (t l : Nat) : State :=
  let d := l % 4
  s.modTile t (fun T =>
    let limit := fld (T.cr 0x787) 28 12
    let asked := (List.range 4).any (fun k => decide (limit < fld (T.cr 0x785) (12 * k) 12))
    let T := T.modCr 0x785 (incFld · (12 * d) 12 1)
    let T' := if asked then T else T.modCr 0x784 (setBit · 51 false)
    if limit ≠ 0 ∧ limit < fld (T.cr 0x785) (12 * d) 12 then T'.threshold (fld (T.cr 0x785) (12 * d) 12) limit 51 else T)

/-- An uncorrectable flit on input link l of tile t; past the threshold the link is marked failed (R300). -/
def State.linkUncorrectable (s : State) (t l : Nat) : State :=
  let d := l % 4
  let s := s.modTile t (·.modCr 0x786 (incFld · (16 * d) 16 1))
  let T := s.tile t
  let limit := fld (T.cr 0x787) 40 8
  if limit ≠ 0 ∧ limit < fld (T.cr 0x786) (16 * d) 16 ∧ !(s.site (s.siteOf t)).links.getLsbD l then
    (s.modTile t (·.modCr 0x784 (setBit · 51 true))).linkFailed (s.siteOf t) l
  else s

/-! ### ROUTER_FORWARD -/

/-- An uncorrectable error poisons the affected 64-bit words of the packet's data (R68); which they are is a choice of the step. -/
def poisonData (s : State) (l : List PByte) : List PByte :=
  l.mapIdx (fun i b => (b.1, b.2 || s.strikes (5000 + i / 8)))

def Packet.poisoned (p : Packet) (s : State) : Packet :=
  match p.body with
  | .payload ch data => { p with body := .payload ch (poisonData s data) }
  | .request h data a b c d => { p with body := .request h (poisonData s data) a b c d }
  | .response tag st data lost a b c d => { p with body := .response tag st (poisonData s data) lost a b c d }
  | .ingress e => { p with body := .ingress { e with poison := e.poison || (List.range 8).any (fun i => s.strikes (5000 + i)) } }
  | _ => p

/-- A packet that no device generates: a reserved kind, a column of 120 or more, nonzero bits [63:59], or an nflit that
disagrees with the flits that follow (R69). -/
def Packet.malformed (p : Packet) : Bool :=
  decide (120 ≤ p.dx) || p.rsv != 0 || ((p.nflit.map (fun n => n.toNat + 1 != p.flits)).getD false) || (match p.body with
    | .other k => decide (14 ≤ k)
    | _ => false)

/-- The kind of a packet, its channel and its payload bytes less one, as its route head has them (R69). -/
def Body.kind : Body → Nat
  | .payload _ _ => 0
  | .winret _ _ _ => 1
  | .request _ _ _ _ _ _ => 2
  | .response _ _ _ _ _ _ _ _ => 3
  | .ingress _ => 13
  | .other k => k

def Body.chan : Body → Nat
  | .payload ch _ => ch
  | .winret ch _ _ => ch
  | _ => 0

def Body.len : Body → Nat
  | .payload _ data => data.length - 1
  | _ => 0

/-- The 20-byte route head of a packet (R69). -/
def Packet.routeHead (p : Packet) : BitVec 160 :=
  let nflit := (p.nflit.map BitVec.toNat).getD (p.flits - 1)
  BitVec.ofNat 160 (p.dx % 2 ^ 7 + p.dy % 2 ^ 7 * 2 ^ 7 + p.sx % 2 ^ 7 * 2 ^ 14 + p.sy % 2 ^ 7 * 2 ^ 21 + p.cls % 4 * 2 ^ 28 +
    p.body.kind % 16 * 2 ^ 30 + p.body.chan % 64 * 2 ^ 34 + nflit % 64 * 2 ^ 40 + p.body.len % 4096 * 2 ^ 46 + p.esc.toNat * 2 ^ 58 +
    p.rsv.toNat * 2 ^ 59 + ((p.stamp.map Stamp.bits).getD 0).toNat * 2 ^ 64)

/-- The tile whose router the packet stands at, and the tile to which it goes. -/
def Packet.at_ (p : Packet) : Nat := tileAt p.px p.py
def Packet.to_ (p : Packet) : Nat := tileAt p.dx p.dy

/-- The site of the router in which the packet stands; in the escape set positions are sites, until the packet has arrived. -/
def State.standsAt (s : State) (p : Packet) : Nat := if p.esc && !p.arrived then siteAt p.px p.py else s.siteOf p.at_

/-- Two packets stand in one buffer: of a link's virtual channel, of its escape buffer for the class, or, before their first hop, of the
agent that injected them (R71, R79). -/
def State.sameBuffer (s : State) (p q : Packet) : Bool :=
  s.standsAt p == s.standsAt q && p.inDir == q.inDir && p.cls == q.cls && p.esc == q.esc && (p.esc || p.set1 == q.set1) &&
    (p.inDir.isSome || p.src == q.src)

/-- A packet that entered the buffer earlier is ahead of the one at place j: packets of one buffer do not pass each other. The network
lists packets in the order in which they entered their buffers. -/
def State.behind (s : State) (j : Nat) (p : Packet) : Bool := (s.net.take j).any (s.sameBuffer p)

/-- The buffer that the packet at place j would enter as `q` has credit for it: 8 flits of a virtual channel, 4 of an escape buffer; a
packet longer than the buffer takes it alone (R68, R71; log 58). -/
def State.hasCredit (s : State) (j : Nat) (q : Packet) : Bool :=
  let l := (s.net.eraseIdx j).filter (s.sameBuffer q)
  q.inDir.isNone || l.isEmpty || decide (flitsOf l + q.flits ≤ (if q.esc then 4 else 8))

/-- The site to which a packet of the escape set goes: that of its destination, or the anchor of its tunnel (R76). -/
def State.escapeGoal (s : State) (p : Packet) : Nat := s.siteOf (p.via.getD p.to_)

/-- The neighbours that bring a packet of the escape set nearer on a west-first path. -/
def State.escapeHops (s : State) (p : Packet) : List (Nat × Nat × Nat) :=
  let b := s.escapeGoal p
  let s := s.around (siteAt p.px p.py) b
  let cost := fun (x y : Nat) (west : Bool) =>
    if west then s.westFirst x x y (siteX b) (siteY b) else s.eastCost x y (siteX b) (siteY b)
  match cost p.px p.py (!p.turned) with
  | none => []
  | some c => [3, 0, 1, 2].filterMap (fun d =>
      match neighbour p.px p.py d with
      | none => none
      | some (x, y) =>
        if (d = 3 ∧ p.turned) ∨ !s.linkGood p.px p.py d then none
        else match cost x y (d == 3) with
          | some c' => if c' < c then some (x, y, d) else none
          | none => none)

/-- The packet enters the escape set at the site where it stands (R76, R79, R80). -/
def State.escaping (s : State) (p : Packet) (via : Option Nat) : Packet :=
  let n := s.standsAt p
  { p with px := siteX n, py := siteY n, esc := true, turned := false, via := via }

/-- A packet turns from X to Y when it leaves by a north or south link and came in by an east or west one. -/
def Packet.turnsTo (p : Packet) (d : Nat) : Bool := d % 2 == 0 && ((p.inDir.map (fun l => l % 2 == 1)).getD false)

/-- The packet one router further: none when it cannot move. The tile at the site whose router it enters, where there is one, comes with
it, and the link by which it enters. A displaced tile is reached by a tunnel from its anchor, and left by one to its anchor (R76). The
set is 1 from a wrap on, and 0 again from a turn from X to Y on (R74). -/
def State.forward (s : State) (p : Packet) : Option (Packet × Option (Option Nat × Nat)) :=
  if p.esc then
    if s.standsAt p = s.escapeGoal p then
      match p.via with
      | some a => some ({ p with px := tileX a, py := tileY a, esc := false, via := none, turned := false }, none)
      | none => some ({ p with px := p.dx, py := p.dy, arrived := true }, none)
    else
      let l := s.escapeHops p
      match l[s.chosen 960 % max 1 l.length]? with
      | none => none
      | some (x, y, d) =>
        some ({ p with px := x, py := y, turned := p.turned || d != 3, inDir := some ((d + 2) % 4) },
          some (s.tileOn (siteAt x y), (d + 2) % 4))
  else if (s.mapEntry p.to_).site.isNone then none
  else
    match s.ground p.to_ with
    | none => none
    | some g =>
      if p.at_ = p.to_ then some ({ p with arrived := true }, none)
      else if !s.grounded p.at_ then (s.anchor p.at_).map (fun a => (s.escaping p (some a), none))
      else
        match s.hop p.px p.py (tileX g) (tileY g) with
        | .eject | .escape => some (s.escaping p none, none)
        | .blocked => none
        | .move x y d =>
          let set1 := (p.set1 && !p.turnsTo d) || wraps p.px p.py x y d
          let l := s.entryLink p.px p.py d x y
          some ({ p with px := x, py := y, set1 := set1, inDir := some l }, some (some (tileAt x y), l))

/-- The packet at place j leaves its buffer and enters the next one, last. -/
def State.advance (s : State) (j : Nat) (q : Packet) : State := { s with net := s.net.eraseIdx j ++ [q] }

/-- `n` flits of a packet that enters by link l of tile t show an error (R300). -/
def State.linkErrors (f : State → State) : Nat → State → State
  | 0, s => s
  | n + 1, s => State.linkErrors f n (f s)

/-- The packet at place j enters a router: how many of its flits show an uncorrectable error, and how many a corrected one, is a choice of
the step. A router poisons the words whether a tile stands at its site or not; only a tile has the counts (R68, R300). -/
def State.enterRouter (s : State) (j : Nat) (p : Packet) (at_ : Option (Option Nat × Nat)) : State :=
  match at_ with
  | none => s.advance j p
  | some (t, l) =>
    let bad := s.chosen 962 % (p.flits + 1)
    let fixed := s.chosen 961 % (p.flits + 1 - bad)
    let u := s.advance j (if bad = 0 then p else p.poisoned s)
    match t with
    | none => u
    | some t => State.linkErrors (·.linkCorrected t l) fixed (State.linkErrors (·.linkUncorrectable t l) bad u)

/-- The page of an XRED is a member of a reduction window (R130, R142). -/
def State.redPage (s : State) (p : Packet) : Bool :=
  match p.body with
  | .request h _ _ _ _ _ =>
    ((s.walk (ownerOf h.va.toNat) (h.va.toNat % 2 ^ 50)).map (fun e => bit e.leaf 8)).getD false
  | _ => false

/-- The first packet of its buffer that the packet at place j may absorb, and its place. -/
def State.partner (s : State) (j : Nat) (p : Packet) : Option (Nat × Packet) :=
  if !s.redPage p then none
  else (s.net.mapIdx (fun i q => (i, q))).find? (fun e => e.1 != j && s.sameBuffer p e.2 && s.mergeable p e.2)

/-! ### Grafts -/

/-- The first spare that passes the tests of R77, in the order of R35 pass 2. -/
def State.chooseSpare (s : State) (t : Nat) : Option Nat :=
  (s.spareOrder (ownerField t)).find? (fun n => s.spareOk t n &&
    s.fields.all (fun e => (e.2.graft.map (fun g => g.spare != n)).getD true))

/-- A request of the tile is served: what asked again while it waited is ignored (R47). -/
def State.served (s : State) (t : Nat) : State := s.modTile t (fun T => { T with greq := false })

/-- A graft refused for want of a spare: event 5, and uncorrectable instruction words are rewritten in place from the
stored image (R47, R300). -/
def State.refuseGraft (s : State) (t : Nat) : State :=
  let s := s.served t
  let T := s.tile t
  let s := s.report 5 (s.tileField t) (T.plot.getD 0) (s.siteOf t)
  if T.imemBad.isEmpty then s
  else (s.rewriteImem t T.imemBad).modTile t (fun T => { T with imemFixed := T.imemFixed ++ T.imemBad, imemBad := [] })

/-- Start the graft of a tile, or refuse it; a graft that would break another displaced tile's paths is not made, and a
full remap follows (R77, R90 step 1). R47 refuses it first when neither the tile's field nor one beside it has a free spare. -/
def State.startGraft (s : State) (t : Nat) : State :=
  let s := s.served t
  if (s.spareOrder (s.tileField t)).isEmpty then s.refuseGraft t
  else match s.chooseSpare t with
  | none => s.refuseGraft t
  | some n =>
    if s.anchorsOk t n then s.modField (s.tileField t) (fun F => { F with graft := some (Graft.mk t 1 n) })
    else { s with remapDue := true, remapSites := s.remapSites ++ [(s.siteOf t, 0#8)] }

/-- GRAFT_REQUEST: a request of the tile itself reaches its field controller; it is ignored while a graft of the tile runs
or waits, queued behind another graft of the field and behind requests that wait for it, or started (R47, R89). -/
def execGraftRequest (t : BitVec 14) (s : State) : Res :=
  let n := t.toNat
  if 15360 ≤ n then .fault .offWafer
  else if !(s.tile n).greq then .next s
  else
    let s := s.served n
    let f := s.tileField n
    let F := s.field f
    if F.graftQ.contains n || F.graft.map (·.tile) == some n then .next s
    else if F.graft.isSome || !F.graftQ.isEmpty then
      if (s.spareOrder f).isEmpty then .next (s.refuseGraft n)
      else .next (s.setField f { F with graftQ := F.graftQ ++ [n] })
    else .next (s.startGraft n)

/-- GRAFT_QUEUED_START: the oldest waiting request starts once no graft runs (R89). A tile that a full remap has moved to another field
meanwhile waits there, behind that field's requests. -/
def execGraftQueuedStart (f : BitVec 6) (s : State) : Res :=
  let F := s.field f.toNat
  match F.graft, F.graftQ with
  | none, t :: l =>
    let s := s.setField f.toNat { F with graftQ := l }
    if s.tileField t = f.toNat then .next (s.startGraft t)
    else .next (s.modField (s.tileField t) (fun G => { G with graftQ := G.graftQ ++ [t] }))
  | _, _ => .next s

/-- No context of the tile is inside a packet, but for one that waits there. -/
def Tile.atBoundary (T : Tile) : Bool :=
  T.active.isNone && (List.range 4).all (fun x => !(T.ctx x).midPacket || (T.ctx x).st == waiting)

/-- No array operation is under way, a nest stands at an iteration boundary, and no engine is inside an element (R90, R184). -/
def Tile.quiet (T : Tile) : Bool :=
  T.aq.all (fun o => !o.begun || (o.kind == 3 && (o.row == 0 || T.paused == some o.slot))) && T.cmds.all (fun m => m.off == 0)

/-- Every context stops, in-flight results landed as on a trap (R90 step 2, R184 step 2). -/
def Tile.halt (T : Tile) : Tile :=
  let T := T.commitGoes (T.cycle + 2)
  { T with stopped := true, ctxs := T.ctxs.map (fun e => (e.1, e.2.settle)) }

/-- A graft's step is changed. -/
def State.graftStep (s : State) (f step : Nat) : State :=
  s.modField f (fun F => { F with graft := F.graft.map (fun g => { g with step := step }) })

/-- GRAFT_TILE_STOPPED: step 2; the contexts stop, and once the array and the engines stand at their boundaries the tile is
still. -/
def execGraftTileStopped (f : BitVec 6) (s : State) : Res :=
  match (s.field f.toNat).graft with
  | none => .next s
  | some g =>
    if g.step ≠ 1 ∨ !(s.tile g.tile).atBoundary then .next s
    else
      let s := s.modTile g.tile (fun T => T.halt.returnBlock (s.tileField g.tile))
      if (s.tile g.tile).quiet then
        .next ((s.modTile g.tile (fun T => { T with frozen := true })).graftStep f.toNat 2)
      else .next s

/-- The packet stands in a buffer of the router at site n; one that waits to enter by the router's tile port does not (R68, R90). -/
def State.inRouter (s : State) (n : Nat) (p : Packet) : Bool := s.standsAt p == n && p.inDir.isSome && decide (1 ≤ p.cls)

/-- GRAFT_DRAINED: step 3, once no packet of classes 1 to 3 stands in the tile's router; the copy begins. -/
def execGraftDrained (f : BitVec 6) (s : State) : Res :=
  match (s.field f.toNat).graft with
  | none => .next s
  | some g =>
    if g.step ≠ 2 ∨ s.net.any (s.inRouter (s.siteOf g.tile)) then .next s
    else .next (s.graftStep f.toNat 3)

/-- The graft ends: class 0 traffic that the tile has accepted meanwhile is acted on (R92), a request that was written
while the graft ran is ignored (R47), and what the tile held back leaves. A block of another field than the tile's goes back to its
sequencer (R114). -/
def State.endGraft (s : State) (f t : Nat) : State :=
  let T := s.tile t
  let s := (s.modField f (fun F => { F with graft := none })).modTile t (fun T => { T with greq := false, heldG := none, heldBlocks := [] })
  let s := T.heldBlocks.foldl (fun s b => s.grantBlock b.1 (.tile t) b.2) s
  match T.heldG with
  | some G => ((s.modTile t (·.updateG G)).releaseTile t).drain t
  | none => s.drain t

/-- The tile runs on where it stands. -/
def Tile.resume (T : Tile) : Tile := { T with stopped := false, frozen := false }

/-- The spare fails a readback: the copy restarts on the next free spare; with none left the tile goes on, so that its plot can be
pre-empted, and a full remap follows (R92). -/
def State.graftReadback (s : State) (f : Nat) (g : Graft) : State :=
  let s := s.modSite g.spare (fun q => { q with usable := false })
  match s.chooseSpare g.tile with
  | some n => s.modField f (fun F => { F with graft := some (Graft.mk g.tile 3 n) })
  | none =>
    let s := ((s.endGraft f g.tile).modTile g.tile Tile.resume).startQueued g.tile
    { s with remapDue := true, remapSites := s.remapSites ++ [(s.siteOf g.tile, 0#8), (g.spare, 0#8)] }

/-- What the copy reads in the tile's storage: uncorrectable instruction words come from the stored image, uncorrectable pad and spill
words are copied with their poison set (R301). -/
def State.graftCopied (s : State) (f : Nat) (g : Graft) : State :=
  let s := s.storageErrors g.tile
  let s := (s.rewriteImem g.tile (s.tile g.tile).imemBad).modTile g.tile (fun T => { T with imemBad := [], imemFixed := [] })
  s.graftStep f 4

/-- The tile is unreadable: context 0 starts on the spare at step 2 of R296 when it has an open protected pass and only
state that this restores is lost; otherwise the plot is stopped without a save (R301). Which holds is a choice of the step. A command of
the pass that is not complete when the tile stands still ends first, since its record goes to the spare (R91; DEDUCED, log 53). -/
def State.graftUnreadable (s : State) (f : Nat) (g : Graft) : State :=
  if (s.tile g.tile).passOpen ∧ s.strikes 971 then
    let s := s.modTile g.tile (fun T => { T with pass := { T.pass with roll := 1 } }.modCtx 0 (·.setSt waiting 2))
    (s.modTile g.tile Tile.rollback).graftCopied f g
  else
    let site := s.siteOf g.tile
    let s := s.endGraft f g.tile
    match (s.tile g.tile).plot with
    | some p => s.failPlot p (site + 2 ^ 63)
    | none => s

/-- GRAFT_COPY_DONE: step 4. -/
def execGraftCopyDone (f : BitVec 6) (ok : Bool) (s : State) : Res :=
  match (s.field f.toNat).graft with
  | none => .next s
  | some g =>
    if g.step ≠ 3 then .next s
    else if !ok then .next (s.graftReadback f.toNat g)
    else if s.strikes 970 then .next (s.graftUnreadable f.toNat g)
    else .next (s.graftCopied f.toNat g)

/-- The plot on a tile has caused a graft of the field, whose ceiling follows the site put into service (R20). -/
def State.graftCeiling (s : State) (t f : Nat) : State :=
  (match (s.tile t).plot with
    | some p => s.modField f (fun F => { F with grafters := (F.grafters.filter (· != p)) ++ [p] })
    | none => s).showCeiling f

/-- Held packets of the escape set that go to tile t take a new route (R90 step 5). A packet that has turned stays on its north, east and
south hops (R79), unless none of them leads to the spare: its route then begins anew where it stands, or it could not go to the spare's
site (DESIGN CHOICE, log 61: R79 and R90 do not say which gives way). -/
def State.reroute (s : State) (t : Nat) : State :=
  let lost := fun (p : Packet) => p.esc && !p.arrived && p.via.getD p.to_ == t && p.turned &&
    (s.eastCost p.px p.py (siteX (s.siteOf t)) (siteY (s.siteOf t))).isNone
  { s with net := s.net.map (fun p => if lost p then { p with turned := false } else p) }

/-- Waiting and granted power requests of tile t go with it to the controller of field `g` (R92, R190, R192). -/
def State.movePower (s : State) (t f g : Nat) : State :=
  if f = g then s
  else
    let F := s.field f
    let mine := fun (r : Nat × PwrReq) => r.1 == t
    let inc := (F.pwrSent.filter mine).foldl (fun n r => n + (r.2.cls - (s.tile t).grant)) 0
    let s := s.modField f (fun F =>
      { F with rampw := F.rampw && (F.pwrQ.head?.map (·.1)) != some t,
               granted := F.granted - inc, pwrQ := F.pwrQ.filter (!mine ·), pwrSent := F.pwrSent.filter (!mine ·) })
    s.modField g (fun G =>
      { G with granted := G.granted + inc, pwrQ := G.pwrQ ++ F.pwrQ.filter mine, pwrSent := G.pwrSent ++ F.pwrSent.filter mine })

/-- GRAFT_MAP_SWITCH: steps 5 and 6. The owning field's generation advances (R45), the ceiling is lowered, the class
moves to the spare's field (R192), every band is gated (R195), the vacated site is defective (R36). The RAS_ registers, which
R91 does not list, stay with the logical tile (DESIGN CHOICE, log 57). -/
def execGraftMapSwitch (f : BitVec 6) (s : State) : Res :=
  match (s.field f.toNat).graft with
  | none => .next s
  | some g =>
    if g.step ≠ 4 then .next s
    else
      let t := g.tile
      let old := s.siteOf t
      let cls := (s.tile t).grant
      let s := (s.movePower t (s.tileField t) (siteField g.spare)).modField (s.tileField t) (fun F => { F with granted := F.granted - cls })
      let s := (s.afterGraft t g.spare).reroute t
      let s := (s.graftCeiling t (siteField old)).graftCeiling t (siteField g.spare)
      let s := s.modField (s.tileField t) (fun F => { F with granted := F.granted + cls })
      let s := s.modField (ownerField t) (fun F => { F with gen := F.gen + 1 })
      let s := ((s.modTile t (fun T => { T.resume with bandRan := 0#4 }.modCr 0x502 (setFld · 15 9 0))).endGraft f.toNat t).startQueued t
      let s := if siteField old = siteField g.spare then s else s.joinClock t
      .next (s.report 4 f.toNat ((s.tile t).plot.getD 0) g.spare)

end Sys2Proof.Machine
end

