-- ==== Sys2Proof/Machine/Mem.lean ====
section
/-! DEFINITION. Spill words, pad loads and stores, gather and scatter, capability loads and stores, pad
atomics and STG (R348 to R363). -/

namespace Sys2Proof.Machine

open Host Sys2Proof

/-! ### Spill memory (R350 to R352). A slot is a register key that lands in exactly issue + 1. -/

/-- The slot's 64 bits as the issuing word reads them. -/
def State.slot (s : State) (n : Nat) : RVal := s.rd (spKey n)

/-- PRIV for a supervisor slot in U mode, then ALIGN for a misplaced slot (R351). -/
def spillChecks (s : State) (slot n align : Nat) : List (Option (Nat × W64)) :=
  [ cond (!s.me.sMode && decide (1016 ≤ slot + n - 1)) 0x02 (s.winfo ((max slot 1016) * 4)),
    cond (slot % align != 0) 0x04 (w64 (s.cur.word + slot * 256)) ]

/-- A data write of a slot: its poison, and the pair tag cleared (R218, R351). -/
def State.spillWrite (s : State) (slot : Nat) (v : W64) (poison : Bool) : State :=
  (s.landExact (spKey slot) (gval v poison)).landExact (spTagKey slot) {}

def execSpl (g : BitVec 6) (sl : BitVec 10) (s : State) : Res :=
  orTrap (spillChecks s sl.toNat 1 1) s fun s =>
    let v := s.slot sl.toNat
    .next (s.landExact (gKey g.toNat) (gval v.w v.poison))

def execSps (g : BitVec 6) (sl : BitVec 10) (s : State) : Res :=
  orTrap (spillChecks s sl.toNat 1 1) s fun s => .next (s.spillWrite sl.toNat (s.gv g.toNat) (s.gp g.toNat))

/-- SPLV: lane i is half i mod 2 of slot + i div 2; a poisoned slot poisons both its lanes (R351, R352). -/
def execSplv (v : BitVec 5) (sl : BitVec 10) (s : State) : Res :=
  orTrap (spillChecks s sl.toNat 16 16) s fun s =>
    .next ((List.range 32).foldl (fun s' i =>
      let x := s.slot (sl.toNat + i / 2)
      s'.landExact (vKey v.toNat i) (lval (x.bits.extractLsb' (32 * (i % 2)) 32) x.poison)) s)

/-- SPSV: slot + j takes lanes 2j+1 and 2j; poisoned when either lane is (R351, R352). -/
def execSpsv (v : BitVec 5) (sl : BitVec 10) (s : State) : Res :=
  orTrap (spillChecks s sl.toNat 16 16) s fun s =>
    .next ((List.range 16).foldl (fun s' j =>
      let lo := s.lane v.toNat (2 * j)
      let hi := s.lane v.toNat (2 * j + 1)
      s'.spillWrite (sl.toNat + j) (w64 (lo.lo32.toNat + hi.lo32.toNat * 2 ^ 32)) (lo.poison || hi.poison)) s)

/-- SPLC: slot + 1 above slot, with the pair tag; poisoned if either slot is (R351, R352). -/
def execSplc (x : BitVec 4) (sl : BitVec 10) (s : State) : Res :=
  orTrap (spillChecks s sl.toNat 2 2) s fun s =>
    let lo := s.slot sl.toNat
    let hi := s.slot (sl.toNat + 1)
    .next (s.landExact (cKey x.toNat)
      { bits := BitVec.ofNat 128 (lo.w.toNat + hi.w.toNat * 2 ^ 64),
        tag := (s.rd (spTagKey sl.toNat)).tag, poison := lo.poison || hi.poison })

/-- SPSC: both slots and the pair tag; the register's poison goes to both (R351, R352). -/
def execSpsc (x : BitVec 4) (sl : BitVec 10) (s : State) : Res :=
  orTrap (spillChecks s sl.toNat 2 2) s fun s =>
    let c := s.c x.toNat
    .next (((s.spillWrite sl.toNat c.w c.poison).spillWrite (sl.toNat + 1) ((c.bits >>> 64).setWidth 64) c.poison).landExact
      (spTagKey sl.toNat) { tag := c.tag })

/-! ### Scalar loads and stores (R353 to R355) -/

/-- A plain load of n bytes at cursor + off into g[d], L = 6, sign- or zero-extended (R354). -/
def load (g : BitVec 6) (c : BitVec 4) (off : Int) (n : Nat) (signed : Bool) (s : State) : Res :=
  orTrap (s.padChecks c.toNat off n permR n false true) s fun s =>
    let a := s.padAddr c.toNat off
    let v := s.here.padRead a n
    .next (s.landG g.toNat (if signed then BitVec.ofInt 64 (sext v (8 * n)) else w64 v) (s.here.padPoisoned a n) 6)

/-- A plain store of the low n bytes of g[s] at cursor + off (R354). -/
def store (g : BitVec 6) (c : BitVec 4) (off : Int) (n : Nat) (s : State) : Res :=
  orTrap (s.padChecks c.toNat off n permW n true true) s fun s =>
    .next (s.modHere (·.padWrite s.cur.ctx (s.padAddr c.toNat off) n (s.gv g.toNat).toNat (s.gp g.toNat)))

def execLdS8 (g : BitVec 6) (c : BitVec 4) (o : BitVec 12) (s : State) : Res := load g c o.toInt 1 true s
def execLdS16 (g : BitVec 6) (c : BitVec 4) (o : BitVec 12) (s : State) : Res := load g c (o.toInt * 2) 2 true s
def execLdS32 (g : BitVec 6) (c : BitVec 4) (o : BitVec 12) (s : State) : Res := load g c (o.toInt * 4) 4 true s
def execLdS64 (g : BitVec 6) (c : BitVec 4) (o : BitVec 12) (s : State) : Res := load g c (o.toInt * 8) 8 true s
def execLdZ8 (g : BitVec 6) (c : BitVec 4) (o : BitVec 12) (s : State) : Res := load g c o.toInt 1 false s
def execLdZ16 (g : BitVec 6) (c : BitVec 4) (o : BitVec 12) (s : State) : Res := load g c (o.toInt * 2) 2 false s
def execLdZ32 (g : BitVec 6) (c : BitVec 4) (o : BitVec 12) (s : State) : Res := load g c (o.toInt * 4) 4 false s
def execStS8 (g : BitVec 6) (c : BitVec 4) (o : BitVec 12) (s : State) : Res := store g c o.toInt 1 s
def execStS16 (g : BitVec 6) (c : BitVec 4) (o : BitVec 12) (s : State) : Res := store g c (o.toInt * 2) 2 s
def execStS32 (g : BitVec 6) (c : BitVec 4) (o : BitVec 12) (s : State) : Res := store g c (o.toInt * 4) 4 s
def execStS64 (g : BitVec 6) (c : BitVec 4) (o : BitVec 12) (s : State) : Res := store g c (o.toInt * 8) 8 s

/-- Access size of the ordered forms: w = 0 four bytes, w = 1 eight (R353). -/
def wsize (w : BitVec 1) : Nat := if w = 1#1 then 8 else 4

/-- The count of the line tag at an address. -/
def Tile.lineCount (T : Tile) (a : Nat) : BitVec 8 := (mget {} T.lineTags (a / 64) : LineTag).cnt

/-- An acquire that reads the line at `a` (R281). -/
def State.acquireAt (s : State) (a : Nat) : State := s.modMe (·.acquireLine (s.here.lineCount a))

/-- A release at scope code `scope`: RC advances when it is TILE or wider (R281). -/
def State.releaseAt (s : State) (scope : Nat) : State :=
  if 1 ≤ scope then s.modHere Tile.release else s

/-- LD.ACQ (R355): waits for the context's earlier commands, is not checked against line tags, and is an
acquire at TILE or wider. Its L of 6 counts from its completion, and the context issues nothing before (R311, R312). A .Z32 form zero-extends (w = 0), .S64 is the whole word. -/
def execLdAcq (g : BitVec 6) (c : BitVec 4) (sc : BitVec 3) (w : BitVec 1) (o : BitVec 7) (s : State) : Res :=
  let n := wsize w
  let off := o.toInt * (n : Int)
  orTrap (s.padChecks c.toNat off n permR n false false) s fun s =>
  scopeOr true false sc.toNat s fun s =>
    let a := s.padAddr c.toNat off
    let v := w64 (s.here.padRead a n)
    let p := s.here.padPoisoned a n
    let s := if 1 ≤ sc.toNat then s.acquireAt a else s
    .next ((s.land (gKey g.toNat) (gval v p) 6).modMe (fun c => { c with hold := s.here.cycle + 6 }))

/-- ST.REL (R355): the waits of R276, RC, then the store. -/
def execStRel (g : BitVec 6) (c : BitVec 4) (sc : BitVec 3) (w : BitVec 1) (o : BitVec 7) (s : State) : Res :=
  let n := wsize w
  let off := o.toInt * (n : Int)
  orTrap (s.padChecks c.toNat off n permW n true false) s fun s =>
  scopeOr false true sc.toNat s fun s =>
    let a := s.padAddr c.toNat off
    let v := (s.gv g.toNat).toNat
    let p := s.gp g.toNat
    .next ((s.releaseAt sc.toNat).modHere (·.padWrite s.cur.ctx a n v p))

/-! ### Vector loads and stores (R356) -/

def minOf : List Nat → Nat
  | [] => 0
  | x :: l => l.foldl min x
def maxOf (l : List Nat) : Nat := l.foldl max 0

/-- PADRACE of one access to the four bytes of each active lane: of the entries in conflict the lowest-numbered is
named, with the lowest byte of the access that overlaps it (R230, R280, R356). -/
def State.lanesRace (s : State) (addrs : List Nat) (writes : Bool) : Option (Nat × W64) :=
  let hits := addrs.flatMap (fun a => (s.rivals.filter (fun e => (e.writes || writes) && decide (e.lo < a + 4) &&
    decide (a < e.hi))).map (fun e => (e.n, max a e.lo)))
  match hits with
  | [] => none
  | h :: l =>
    let b := l.foldl (fun b e => if e.1 < b.1 || (e.1 == b.1 && decide (e.2 < b.2)) then e else b) h
    some (0x05, raceInfo s.cur.word b.1 false b.2 false)

/-- The conditions of a vector access over its active lanes (R356). An empty mask checks the alignment
alone. Else a poisoned mask or capability is a consumption (R293, R348, R367). -/
def vecChecks (s : State) (c : BitVec 4) (k : BitVec 3) (off : Int) (need : Nat) (writes : Bool) :
    List (Option (Nat × W64)) :=
  let A := s.active k.toNat
  let base := capAt (s.c c.toNat) off
  let misaligned := cond (base % 128 != 0) 0x04 (alignInfo s.cur.word base)
  let kp := poisonIf s (s.k k.toNat).poison
  if A.isEmpty then [misaligned]
  else
    let lo := minOf A
    let n := 4 * (maxOf A - lo) + 4
    let off' := off + ((4 * lo : Nat) : Int)
    let at' := fun (i : Nat) => s.padAddr c.toNat (off + ((4 * i : Nat) : Int))
    -- the line check ignores lanes that are not active
    [ s.padCap c.toNat off' n need 1, misaligned,
      s.lanesRace (A.map at') writes,
      lowest (A.map (fun (i : Nat) => s.lineCheck (at' i) (at' i + 4))),
      poisonIf s (s.c c.toNat).poison, kp ]

def execLdv (v : BitVec 5) (c : BitVec 4) (k : BitVec 3) (o : BitVec 12) (s : State) : Res :=
  let off := o.toInt * 128
  orTrap (vecChecks s c k off permR false) s fun s =>
    .next (s.landLanes v.toNat ((s.active k.toNat).map (fun (i : Nat) =>
      let a := s.padAddr c.toNat (off + ((4 * i : Nat) : Int))
      (i, lval (BitVec.ofNat 32 (s.here.padRead a 4)) (s.here.padPoisoned a 4)))) 6)

/-- STV writes each active lane's poison into its half of a pad word; a word whose two lanes are both
active and clean becomes clean (R356). -/
def execStv (v : BitVec 5) (c : BitVec 4) (k : BitVec 3) (o : BitVec 12) (s : State) : Res :=
  let off := o.toInt * 128
  orTrap (vecChecks s c k off permW true) s fun s =>
    let A := s.active k.toNat
    let T := A.foldl (fun (T : Tile) (i : Nat) =>
      let x := s.lane v.toNat i
      T.padWrite s.cur.ctx (s.padAddr c.toNat (off + ((4 * i : Nat) : Int))) 4 x.lo32.toNat x.poison) s.here
    let clean := (List.range 16).filter (fun j => A.contains (2 * j) && A.contains (2 * j + 1) &&
      !(s.lane v.toNat (2 * j)).poison && !(s.lane v.toNat (2 * j + 1)).poison)
    let T := clean.foldl (fun (T : Tile) (j : Nat) => T.padSetPoison (s.padAddr c.toNat (off + ((8 * j : Nat) : Int))) 8 false) T
    .next (s.setTile s.cur.tile T)

/-! ### Gather and scatter (R357, R358) -/

/-- Frozen cycles after a gather or scatter that touches the addresses `l`: m − 2, where m is the largest number of
distinct lines in one of the 16 banks, line L in bank L mod 16 (R218, R358). -/
def gatherFreeze (l : List Nat) : Nat :=
  let lines := (l.map (· / 64)).dedup
  ((List.range 16).foldl (fun (m : Nat) b => max m (lines.filter (fun x => x % 16 == b)).length) 0) - 2

/-- The checks of R357: of the lanes that fail with the lowest cause code, the lowest lane is named. A
poisoned mask, capability or active index lane is a consumption (R293). -/
def gatherChecks (s : State) (c : BitVec 4) (a : BitVec 5) (k : BitVec 3) (e need : Nat) (writes : Bool) :
    List (Option (Nat × W64)) :=
  let A := s.active k.toNat
  let off := fun (i : Nat) => ((s.lane a.toNat i).lo32.toNat : Int)
  [ lowest (A.map (fun i => s.padCap c.toNat (off i) e need e)),
    lowest (A.map (fun i => lowest [
      (let x := s.padAddr c.toNat (off i); s.trkCheck x (x + e) writes false),
      (let x := s.padAddr c.toNat (off i); s.lineCheck x (x + e))])),
    poisonIf s ((s.c c.toNat).poison || (s.k k.toNat).poison || A.any (fun i => (s.lane a.toNat i).poison)) ]

def execLdvg (d : BitVec 5) (c : BitVec 4) (a : BitVec 5) (k : BitVec 3) (sz : BitVec 2) (s : State) : Res :=
  let e : Nat := 2 ^ sz.toNat
  orTrap (gatherChecks s c a k e permR false) s fun s =>
    let at' := fun (i : Nat) => s.padAddr c.toNat ((s.lane a.toNat i).lo32.toNat : Int)
    let A := s.active k.toNat
    .next ((s.landLanes d.toNat (A.map (fun i =>
      (i, lval (BitVec.ofNat 32 (s.here.padRead (at' i) e)) (s.here.padPoisoned (at' i) e)))) 8).modHere
      (·.freeze s.seed s.cur.tile (gatherFreeze (A.map at'))))

def execStvs (d : BitVec 5) (c : BitVec 4) (a : BitVec 5) (k : BitVec 3) (sz : BitVec 2) (s : State) : Res :=
  let e : Nat := 2 ^ sz.toNat
  orTrap (gatherChecks s c a k e permW true) s fun s =>
    let at' := fun (i : Nat) => s.padAddr c.toNat ((s.lane a.toNat i).lo32.toNat : Int)
    let A := s.active k.toNat
    .next (s.setTile s.cur.tile ((A.foldl (fun (T : Tile) (i : Nat) =>
      let x := s.lane d.toNat i
      T.padWrite s.cur.ctx (at' i) e x.lo32.toNat x.poison) s.here).freeze s.seed s.cur.tile (gatherFreeze (A.map at'))))

/-! ### Capability loads and stores (R359) -/

def execLdc (d c : BitVec 4) (o : BitVec 12) (s : State) : Res :=
  let off := o.toInt * 16
  let a := s.padAddr c.toNat off
  orTrap (s.padChecks c.toNat off 16 (permR + permCR) 16 false true ++
      [cond (s.here.padPoisoned a 16) 0x0B (s.winfo (a * 4))]) s fun s =>
    let tag : Bool := mget false s.here.capTags (a / 16)
    .next (s.land (cKey d.toNat) (RVal.mk (BitVec.ofNat 128 (s.here.padRead a 16)) tag false) 6)

/-- STC: a tagged capability needs SH; a poisoned one leaves the granule tag clear (R359). -/
def execStc (d c : BitVec 4) (o : BitVec 12) (s : State) : Res :=
  let off := o.toInt * 16
  let v := s.c d.toNat
  let a := s.padAddr c.toNat off
  orTrap (cond (v.tag && !hasPerms v permSH) 0x03 (capInfo s.cur.word d.toNat 2 (capAt (s.c c.toNat) off)) ::
      s.padChecks c.toNat off 16 (permW + permCW) 16 true true) s fun s =>
    .next (s.modHere (fun T =>
      let T : Tile := T.padWrite s.cur.ctx a 16 v.bits.toNat v.poison
      { T with capTags := mset false T.capTags (a / 16) (v.tag && !v.poison) }))

/-! ### Pad atomics (R360 to R362) -/

/-- The new value of an atomic on n-byte operands (R360): old, y, and for ACAS the expected x. None is a
compare that failed. -/
def atomicNew (fn n old y x : Nat) : Option Nat :=
  let b := 8 * n
  let lt := decide (sext old b < sext y b)
  if fn = 0 then some ((old + y) % 2 ^ b)
  else if fn = 1 then some (old &&& y)
  else if fn = 2 then some (old ||| y)
  else if fn = 3 then some (old ^^^ y)
  else if fn = 4 then some (if lt then old else y)
  else if fn = 5 then some (if lt then y else old)
  else if fn = 6 then some (min old y)
  else if fn = 7 then some (max old y)
  else if fn = 8 then some y
  else if old = x then some y else none

/-- A pad atomic (R361). Scope codes 0 to 3 are TILE, GRP, PLOT, WAF (R360). -/
def atomic (fn : Nat) (d : BitVec 6) (c : BitVec 4) (b : BitVec 6) (w a l : BitVec 1) (sc : BitVec 2)
    (s : State) : Res :=
  let n := wsize w
  let addr := s.padAddr c.toNat 0
  let scope := sc.toNat + 1
  orTrap (s.padChecks c.toNat 0 n (permR + permW + permAM) n true false ++
      [cond (s.here.padPoisoned addr n) 0x0B (s.winfo (addr * 4))]) s fun s =>
  scopeOr (a == 1#1) (l == 1#1) scope s fun s =>
    let y := (s.gv b.toNat).toNat % 2 ^ (8 * n)
    let x := (s.gv d.toNat).toNat % 2 ^ (8 * n)
    let poison := s.gp b.toNat || (fn == 9 && s.gp d.toNat)
    let old := s.here.padRead addr n
    let s := if l = 1#1 then s.releaseAt scope else s
    let s := if a = 1#1 then s.acquireAt addr else s
    let s := match atomicNew fn n old y x with
      | some v => s.modHere (·.padWrite s.cur.ctx addr n v poison)
      | none => s
    let v := gval (BitVec.ofInt 64 (sext old (8 * n))) false
    .next (if a = 1#1 ∨ l = 1#1 then (s.land (gKey d.toNat) v 8).modMe (fun c => { c with hold := s.here.cycle + 8 })
      else s.land (gKey d.toNat) v 8)

def execAadd (d : BitVec 6) (c : BitVec 4) (b : BitVec 6) (w a l : BitVec 1) (sc : BitVec 2) (s : State) : Res := atomic 0 d c b w a l sc s
def execAand (d : BitVec 6) (c : BitVec 4) (b : BitVec 6) (w a l : BitVec 1) (sc : BitVec 2) (s : State) : Res := atomic 1 d c b w a l sc s
def execAor (d : BitVec 6) (c : BitVec 4) (b : BitVec 6) (w a l : BitVec 1) (sc : BitVec 2) (s : State) : Res := atomic 2 d c b w a l sc s
def execAxor (d : BitVec 6) (c : BitVec 4) (b : BitVec 6) (w a l : BitVec 1) (sc : BitVec 2) (s : State) : Res := atomic 3 d c b w a l sc s
def execAmin (d : BitVec 6) (c : BitVec 4) (b : BitVec 6) (w a l : BitVec 1) (sc : BitVec 2) (s : State) : Res := atomic 4 d c b w a l sc s
def execAmax (d : BitVec 6) (c : BitVec 4) (b : BitVec 6) (w a l : BitVec 1) (sc : BitVec 2) (s : State) : Res := atomic 5 d c b w a l sc s
def execAminz (d : BitVec 6) (c : BitVec 4) (b : BitVec 6) (w a l : BitVec 1) (sc : BitVec 2) (s : State) : Res := atomic 6 d c b w a l sc s
def execAmaxz (d : BitVec 6) (c : BitVec 4) (b : BitVec 6) (w a l : BitVec 1) (sc : BitVec 2) (s : State) : Res := atomic 7 d c b w a l sc s
def execAswp (d : BitVec 6) (c : BitVec 4) (b : BitVec 6) (w a l : BitVec 1) (sc : BitVec 2) (s : State) : Res := atomic 8 d c b w a l sc s
def execAcas (d : BitVec 6) (c : BitVec 4) (b : BitVec 6) (w a l : BitVec 1) (sc : BitVec 2) (s : State) : Res := atomic 9 d c b w a l sc s

/-! ### STG (R363) -/

def execStg (a : BitVec 6) (c : BitVec 4) (b : BitVec 6) (sz : BitVec 2) (o : BitVec 7) (s : State) : Res :=
  let n : Nat := 2 ^ sz.toNat
  let off := o.toInt * (n : Int)
  orTrap (s.padChecks c.toNat off n permW n true true ++
      [cond (s.gv a.toNat != s.gv b.toNat) 0x08 (s.winfo 4), poisonIf s (s.gp a.toNat || s.gp b.toNat)]) s fun s =>
    .next (s.modHere (·.padWrite s.cur.ctx (s.padAddr c.toNat off) n (s.gv a.toNat).toNat false))

end Sys2Proof.Machine
end

