-- ==== Sys2Proof/Machine/Rack.lean ====
section
/-! DEFINITION. Racking (R136, R137), the poison record and quarantine (R139, R140), shoot-downs (R138), retiring a stack
(R143). -/

namespace Sys2Proof.Machine

open Host Sys2Proof

def onStack (k : BitVec 6) (f : Nat → Res) : Res := if 48 ≤ k.toNat then .fault .offWafer else f k.toNat

/-! ### The poison record and quarantine (R139, R140) -/

/-- The racking whose page holds an offset, with its port. -/
def State.rackOf (s : State) (owner off : Nat) : Option (Nat × Racking) :=
  (s.cellars.flatMap (fun e => e.2.racks.map (fun r => (e.1, r)))).find? (fun x =>
    ownerOf x.2.va == owner && decide (x.2.va % 2 ^ 50 ≤ off) && decide (off < x.2.va % 2 ^ 50 + 2 ^ x.2.bits))

/-- The 64 KiB page that holds a sector of stack k, with its leaf. -/
def State.pageOf (s : State) (k pa : Nat) : Option TlbEntry :=
  (s.owners.flatMap s.leaves).find? (fun e => e.bits == 16 &&
    (List.range 1024).any (fun i => s.locate e.owner e.leaf (64 * i) == .sector k (pa / 64 * 64)))

/-- How many entries of the record lie in a page. -/
def State.badIn (s : State) (k : Nat) (e : TlbEntry) : Nat :=
  ((s.stack k).poison.filter (fun sec => s.pageOf k (64 * sec) == some e)).length

/-- The page with the most entries that is not racking or held already; on a tie the lowest sector address comes first. -/
def State.worstPage (s : State) (k : Nat) : Option TlbEntry :=
  let pages := (((s.stack k).poison.mergeSort (fun a b => decide (a ≤ b))).filterMap (fun sec => s.pageOf k (64 * sec))).dedup
  (pages.filter (fun e => (s.rackOf e.owner e.base).isNone)).foldl (fun best e => match best with
    | none => some e
    | some b => if s.badIn k b < s.badIn k e then some e else some b) none

def TlbEntry.va (e : TlbEntry) : Nat := e.owner * 2 ^ 50 + e.base

/-- The leaf of a page that port k has quarantined to a frame of its own stack. -/
def quarLeaf (k frame : Nat) (leaf : W64) : W64 :=
  setFld (setFld (setFld (setBit (setBit leaf 9 true) 10 false) 16 42 frame) 58 6 k) 2 2 1

/-- A sector has entered a full record: the worst page is unmapped, its accesses held as in SWITCH, and it goes to a frame of the
quarantine free list; with no frame left it stays held, with qstall set (R140). -/
def State.quarantine (s : State) (k : Nat) : State :=
  match s.worstPage k with
  | none => s.modReg0 (offPois k) (setBit · 18 true)
  | some e =>
    let r : Racking := { va := e.va, bits := 16, leaf := e.leaf, old := e.leaf, entry := e.entry, switch := true, quar := true }
    let s := s.poke (s.tableStack e.owner) e.entry 8 (setBit e.leaf 10 true).toNat
    match (s.stack k).qframes with
    | [] => ((s.modStack k (fun K => { K with racks := K.racks ++ [r] })).modReg0 (offPois k) (setBit · 18 true)).report 12 k 0 e.va
    | f :: l => s.modStack k (fun K => { K with racks := K.racks ++ [{ r with leaf := quarLeaf k f e.leaf }], qframes := l })

/-- A sector enters the record, or its page's map; one that enters a full record of 512 makes the port quarantine a page (R139, R140). -/
def State.enterPoison (s : State) (k pa : Nat) (q : Option QuarBit) : State :=
  match q with
  | some q => s.poke q.k q.byte 1 ((mget 0#8 (s.stack q.k).mem q.byte).toNat ||| 2 ^ q.bit)
  | none =>
    if (s.stack k).poison.contains (pa / 64) then s
    else
      let full := decide (512 ≤ (s.stack k).poison.length)
      let s := s.modStack k (fun K => { K with poison := K.poison ++ [pa / 64] })
      if full then s.quarantine k else s

/-! ### Copying lines -/

/-- A packet from an agent to another (R69, R434). -/
def State.agentPacket (s : State) (src dst : Agent) (cls : Nat) (stamp : Option Stamp) (body : Body) : Packet :=
  let a := s.agentTile src
  let b := s.agentTile dst
  { dst := dst, src := src, dx := tileX b, dy := tileY b, sx := tileX a, sy := tileY a, cls := cls, stamp := stamp, body := body, px := tileX a, py := tileY a }

/-- The null pair in a response of an agent (R106): a cellar port's by its own copy of G. -/
def State.nullOf (s : State) (a : Agent) : Pair :=
  match a with
  | .cellar k => ⟨stackField k, ((s.stack k).gAt (stackField k)).1 - 16384#16⟩
  | a => s.nullAt (s.agentField a)

/-- The stamp of a request that port k itself sends or forwards: null pairs by its own copy of G (R106). -/
def State.forwardStamp (s : State) (k : Nat) : Stamp := { own := none, deps := [], vint := s.vint, null := s.nullOf (.cellar k) }

/-- Data the module does not hold: a host's or a peer's memory. -/
def outsideLine (seed key : Nat) : List PByte :=
  (List.range 64).map (fun i => ((Config.freeBits seed (key + i)).setWidth 8, false))

/-- A 64-byte line at a place, and its tag. A line that its stack cannot read comes poisoned (R143); whether it can is a
choice of the step. -/
def State.lineAt (s : State) (l : Loc) (q : Option QuarBit) (key : Nat) : List PByte × BitVec 16 :=
  match l with
  | .sector k pa =>
    let bad := s.sectorBad k pa q || s.stackDead k || s.strikes (20000 + key)
    (s.sectorData k pa 64 bad, (s.stack k).tag (pa / 64))
  | _ => (outsideLine s.seed (40000 + 64 * key), 0x3FFF#16)

/-- The header of a whole line that a racking writes to a peer (R125). -/
def lineHead (va : Nat) : ReqHead :=
  { va := BitVec.ofNat 56 va, op := 1#4, len := 63#6, merge := false, ph := 0#2, fn := 0#8, tix := 0x3FFF#14, tag := 0#10, hops := 0#3,
    rmask := 0#16, zero := 0#8 }

/-- A line that port k copies goes to a place with its poison and tag; one for a host leaves as a posted write of its link, and one for a
peer as a write request of the port, whose response nothing waits for (R134, R136; DESIGN CHOICE, log 63: R136 does not say how lines
leave the wafer). -/
def State.putLine (s : State) (k₀ : Nat) (l : Loc) (q : Option QuarBit) (data : List PByte) (tag : BitVec 16) : State :=
  match l with
  | .sector k pa =>
    let s := (s.putSector k pa data).modStack k (·.setTag (pa / 64) tag)
    if data.any (fun b => b.2) then s.enterPoison k pa q else s.cleanSector k pa q
  | .host n a => { s with host := { s.host with tlps := s.host.tlps ++ [(n, .write a data)] } }
  | .peer id o =>
    match s.peerPort id with
    | none => s
    | some p =>
      let body := Body.request (lineHead (61 * 2 ^ 50 + id * 2 ^ 42 + o)) data 0 1024 0 0
      { s with net := s.net ++ [s.agentPacket (.cellar k₀) (.port p) 2 (some (s.forwardStamp k₀)) body] }

/-- The map bit of a place of a page. -/
def State.quarAt (s : State) (owner : Nat) (leaf : W64) (l : Loc) : Option QuarBit :=
  match l with
  | .sector k pa => s.quarBit owner leaf k pa
  | _ => none

/-- The lines of a page that port k racks, copied in increasing address order (R136). -/
def State.copyPage (s : State) (k owner bits : Nat) (old new : W64) : State :=
  (List.range (2 ^ bits / 64)).foldl (fun s i =>
    let a := s.locate owner old (64 * i)
    let b := s.locate owner new (64 * i)
    let l := s.lineAt a (s.quarAt owner old a) i
    s.putLine k b (s.quarAt owner new b) l.1 l.2) s

/-! ### Racking (R136, R137) -/

def pageBits (size : Nat) : Nat := if size = 0 then 16 else if size = 1 then 21 else if size = 2 then 30 else 34

/-- The page of a command is a valid leaf of its size and not already racking. -/
def State.rackTarget (s : State) (va bits : Nat) : Option TlbEntry :=
  match s.walk (ownerOf va) (va % 2 ^ 50) with
  | none => none
  | some e => if e.bits = bits ∧ e.base = va % 2 ^ 50 ∧ (s.rackOf e.owner e.base).isNone then some e else none

/-- MEM_RACK.bad, .abort (R144). -/
def State.countRack (s : State) (k lo : Nat) : State := s.modReg0 (offRack k) (incFld · lo 8 1)

/-- Start a racking: rk is set in the entry (R130, R136). -/
def State.startRack (s : State) (k va bits : Nat) (leaf : W64) : State :=
  match s.rackTarget va bits with
  | none => s.countRack k 28
  | some e =>
    let s := s.poke (s.tableStack e.owner) e.entry 8 (setBit e.leaf 10 true).toNat
    s.modStack k (fun K => { K with racks := K.racks ++ [{ va := va, bits := bits, leaf := leaf, old := e.leaf, entry := e.entry }] })

/-- Queued commands start while fewer than 16 rackings run. -/
def State.nextRackN (s : State) (k : Nat) : Nat → State
  | 0 => s
  | n + 1 =>
    match (s.stack k).rackQ with
    | [] => s
    | (va, bits, leaf) :: l =>
      if 16 ≤ ((s.stack k).racks.filter (fun r => !r.quar)).length then s
      else ((s.modStack k (fun K => { K with rackQ := l })).startRack k va bits leaf).nextRackN k n

def State.nextRack (s : State) (k : Nat) : State := s.nextRackN k (s.stack k).rackQ.length

/-- A write of MEM_RACKQ word +0x28; word +0x20 holds the address and the size. A command that finds the queue of 64 full is
dropped too. -/
def State.rackCommand (s : State) (n : Nat) (leaf : W64) : State :=
  let q := s.reg0 (offRackq n)
  let va := fld q 0 56
  let bits := pageBits (fld q 56 2)
  let s := s.setReg0 (offRackq n + 8) leaf
  if (s.rackTarget va bits).isNone ∨ 64 ≤ (s.stack n).rackQ.length then s.countRack n 28
  else (s.modStack n (fun K => { K with rackQ := K.rackQ ++ [(va, bits, leaf)] })).nextRack n

def execRackCommand (k : BitVec 6) (leaf : BitVec 64) (s : State) : Res := onStack k fun n => .next (s.rackCommand n leaf)

/-- The stacks of which a leaf's page holds bytes. -/
def State.frameStacks (s : State) (owner : Nat) (leaf : W64) : List Nat :=
  if leafLoc leaf = 0 then s.membersOf owner else if leafLoc leaf = 1 then [fld leaf 58 6] else []

/-- The stack holds the tables of a defined set: it cannot be retired while the set exists (R143). -/
def State.tableOfSet (s : State) (k : Nat) : Bool := (s.owners.filter (48 ≤ ·)).any (fun o => s.tableStack o == k)

/-- No frame lies on the stack, in whole or part: no leaf of any table and no racking names it (R143). -/
def State.frameFree (s : State) (k : Nat) : Bool :=
  !s.tableOfSet k && s.owners.all (fun o => (s.leaves o).all (fun e => !(s.frameStacks o e.leaf).contains k)) &&
    s.cellars.all (fun e => e.2.racks.all (fun r =>
      !(s.frameStacks (ownerOf r.va) r.leaf).contains k && !(s.frameStacks (ownerOf r.va) r.old).contains k))

/-- A RETIRING stack on which no frame lies becomes EMPTY (R143). -/
def State.checkEmpty (s : State) (k : Nat) : State :=
  if fld (s.reg0 (offStk k)) 0 2 = 1 ∧ s.frameFree k then s.modReg0 (offStk k) (setFld · 0 2 2) else s

def State.checkEmptyAll (s : State) : State := (List.range 48).foldl State.checkEmpty s

/-- The racking of port k at address va. -/
def State.rackAt (s : State) (k va : Nat) : Option Racking := (s.stack k).racks.find? (fun r => r.va == va)

def State.setRack (s : State) (k va : Nat) (f : Racking → Racking) : State :=
  s.modStack k (fun K => { K with racks := mapFirst (fun r => r.va == va) f K.racks })

/-- The place of a racking's new frame has failed: a stack, or the port or link towards it. -/
def State.frameDead (s : State) (owner : Nat) (leaf : W64) : Bool :=
  match s.locate owner leaf 0 with
  | .sector _ _ => (s.frameStacks owner leaf).any s.stackDead
  | .host n _ => !s.linkUp n
  | .peer id _ => match s.peerPort id with
    | some p => fld (s.reg0 (offState p)) 2 2 == 3
    | none => true

/-- RACK_COPY_DONE: the last line is copied, and the page enters SWITCH; a racking whose new frame has failed does not get there (R136,
R137). A write made during COPY stands in the old frame and, once its line is copied, in the new one too. Nothing reads the new frame
before DONE, so the lines are taken in the step of RACK_SWITCH_DONE, when every such write is done. -/
def execRackCopyDone (k : BitVec 6) (va : BitVec 56) (s : State) : Res :=
  onStack k fun n =>
    match s.rackAt n va.toNat with
    | none => .next s
    | some r =>
      if r.switch ∨ s.frameDead (ownerOf r.va) r.leaf then .next s
      else .next (s.setRack n va.toNat (fun r => { r with switch := true }))

/-- A request takes its place in the order in which requests left step 1 of R131 (R132). -/
def insertTurn (p : Packet) : List Packet → List Packet
  | [] => [p]
  | q :: l => if p.turn < q.turn then p :: q :: l else q :: insertTurn p l

def State.backInTurn (s : State) (k : Nat) (p : Packet) : State := s.modStack k (fun K => { K with ready := insertTurn p K.ready })

/-- The new entry of a page is written, its old translations dropped, and its held requests go on in arrival order (R136, R138). -/
def State.openPage (s : State) (k : Nat) (r : Racking) (entry : W64) : State :=
  let owner := ownerOf r.va
  let s := s.poke (s.tableStack owner) r.entry 8 entry.toNat
  let s := (s.membersOf owner).foldl (fun s m => s.dropPage m owner (r.va % 2 ^ 50) r.bits) s
  let s := s.modStack k (fun K => { K with racks := eraseFirst (fun x => x.va == r.va) K.racks })
  r.held.foldl (fun s p => match p.dst with
    | .cellar m => s.backInTurn m p
    | _ => s) s

/-- A racking ends: the page opens, its record is posted, the next command starts. -/
def State.endRack (s : State) (k : Nat) (r : Racking) (entry : W64) (aborted : Bool) : State :=
  let record := setFld (w64 (if aborted then 3 else 1)) 16 42 (leafFrame r.old / 65536)
  let s := (s.openPage k r entry).modStack k (fun K => { K with rackDone := K.rackDone ++ [record] })
  ((s.report 13 k 0 r.va).nextRack k).checkEmptyAll

/-- A quarantined page goes to its frame: its lines and its map are written, its new leaf installed with quar = 1, its entries leave
the record, and the host is told (R140). -/
def State.endQuar (s : State) (k : Nat) (r : Racking) : State :=
  let owner := ownerOf r.va
  let sectors := (List.range 1024).map (fun i => s.locate owner r.old (64 * i))
  let s := (s.copyPage k owner r.bits r.old r.leaf).openPage k r r.leaf
  let s := s.modStack k (fun K => { K with poison := K.poison.filter (fun sec => !sectors.contains (.sector k (64 * sec))) })
  ((s.modReg0 (offPois k) (incFld · 10 8 1)).report 9 k 0 r.va).checkEmptyAll

/-- A port still forwards a request under the page's old entry. -/
def State.forwarding (s : State) (m owner base bits : Nat) : Bool :=
  (s.stack m).fwd.any (fun f => match f.2.body with
    | .request h _ _ _ _ _ => ownerOf h.va.toNat == owner && decide (base ≤ h.va.toNat % 2 ^ 50) &&
        decide (h.va.toNat % 2 ^ 50 < base + 2 ^ bits)
    | _ => false)

/-- RACK_SWITCH_DONE: forwarded requests under the old entry are done; the new entry is written, a shoot-down runs, and the held
requests go on (R136). A page that is quarantined ends its move in the same way, once it has a frame (R140). -/
def execRackSwitchDone (k : BitVec 6) (va : BitVec 56) (s : State) : Res :=
  onStack k fun n =>
    match s.rackAt n va.toNat with
    | none => .next s
    | some r =>
      let owner := ownerOf r.va
      if !r.switch ∨ (s.membersOf owner).any (fun m => s.forwarding m owner (r.va % 2 ^ 50) r.bits) then .next s
      else if r.quar then .next (if r.leaf = r.old then s else s.endQuar n r)
      else .next ((s.copyPage n owner r.bits r.old r.leaf).endRack n r (setBit r.leaf 10 false) false)

/-- RACK_ABORT: the new frame fails during COPY; the old entry stays (R137). -/
def execRackAbort (k : BitVec 6) (va : BitVec 56) (s : State) : Res :=
  onStack k fun n =>
    match s.rackAt n va.toNat with
    | none => .next s
    | some r =>
      if r.switch ∨ !s.frameDead (ownerOf r.va) r.leaf then .next s
      else .next ((s.countRack n 36).endRack n r (setBit r.old 10 false) true)

/-- The next racking completion record of a port, 0 when none waits (R148). -/
def State.popRackDone (s : State) (k : Nat) : W64 × State :=
  match (s.stack k).rackDone with
  | [] => (0#64, s)
  | r :: l => (r, s.modStack k (fun K => { K with rackDone := l }))

/-- A 64-bit value as reply data. -/
def wordBytes (v : W64) : List PByte := (List.range 8).map (fun i => ((v.extractLsb' (8 * i) 8 : Byte), false))

/-- An answer to a read or atomic of the host. -/
def State.reply (s : State) (n : Nat) (r : Reply) : State :=
  { s with host := { s.host with replies := s.host.replies ++ [(n, r)] } }

/-! ### Shoot-downs (R138) -/

/-- A write of MEM_SHOOT, ignored while busy. An owner without members has none to wait for. -/
def State.shoot (s : State) (k : Nat) (v : W64) : State :=
  if bit (s.reg0 (offShoot k)) 58 then s
  else
    let ms := s.membersOf (ownerOf (fld v 0 56))
    let s := s.setReg0 (offShoot k) (w64 (fld v 0 58 + (if ms.isEmpty then 0 else 2 ^ 58)))
    s.modStack k (fun K => { K with shootWait := ms, shootInval := [] })

def execShootdown (k : BitVec 6) (v : BitVec 64) (s : State) : Res := onStack k fun n => .next (s.shoot n v)

/-- The page of the shoot-down in progress: owner, base, bits. -/
def State.shootPage (s : State) (k : Nat) : Nat × Nat × Nat :=
  let w := s.reg0 (offShoot k)
  (ownerOf (fld w 0 56), fld w 0 50, pageBits (fld w 56 2))

/-- Member r of the owner has already dropped the entries of a page, for a shoot-down that is still in progress (R138). -/
def State.shotFor (s : State) (r owner off : Nat) : Bool :=
  s.cellars.any (fun e =>
    let (o, base, bits) := s.shootPage e.1
    bit (s.reg0 (offShoot e.1)) 58 && o == owner && decide (base ≤ off) && decide (off < base + 2 ^ bits) &&
      (!e.2.shootWait.contains r || e.2.shootInval.contains r))

/-- SHOOTDOWN_INVALIDATE: member m drops the matching entries. -/
def execShootdownInvalidate (k m : BitVec 6) (s : State) : Res :=
  onStack k fun n => onStack m fun j =>
    let (owner, base, bits) := s.shootPage n
    if !(s.stack n).shootWait.contains j || (s.stack n).shootInval.contains j then .next s
    else .next ((s.dropPage j owner base bits).modStack n (fun K => { K with shootInval := K.shootInval ++ [j] }))

/-- SHOOTDOWN_ACK: the requests that member m has translated with those entries are performed or answered; with the last
acknowledgement busy clears. -/
def execShootdownAck (k m : BitVec 6) (s : State) : Res :=
  onStack k fun n => onStack m fun j =>
    let (owner, base, bits) := s.shootPage n
    if !(s.stack n).shootInval.contains j || s.forwarding j owner base bits then .next s
    else
      let s := s.modStack n (fun K => { K with
        shootWait := K.shootWait.filter (· != j), shootInval := K.shootInval.filter (· != j) })
      .next (if (s.stack n).shootWait.isEmpty then s.modReg0 (offShoot n) (setBit · 58 false) else s)

/-- STACK_RETIRE: a write of RETIRING to MEM_STK.state (R143). -/
def State.retireStack (s : State) (k : Nat) : State :=
  if fld (s.reg0 (offStk k)) 0 2 = 0 ∧ !s.tableOfSet k then (s.modReg0 (offStk k) (setFld · 0 2 1)).checkEmpty k else s

def execStackRetire (k : BitVec 6) (s : State) : Res := onStack k fun n => .next (s.retireStack n)

end Sys2Proof.Machine
end

