-- ==== Sys2Proof/Machine/Cellar.lean ====
section
/-! DEFINITION. Cellar ports (R105, R109, R116, R118, R125, R126, R131 to R135, R139 to R141): intake, translation, serving a
sector, forwarding, responses, access counters. -/

namespace Sys2Proof.Machine

open Host Sys2Proof

/-! ### Responses -/

/-- The packet's own request fields. -/
def Packet.who (p : Packet) : Requester :=
  match p.body with
  | .request h _ ctx token elem pad => ⟨match p.src with | .tile t => t | _ => 0, ctx, token, elem, pad, h.tag.toNat⟩
  | _ => ⟨0, 0, 0, 0, 0, 0⟩

/-- The responses to a request: one to its sender, and one to the sender of each XRED merged into it. -/
def State.responses (s : State) (from_ : Agent) (p : Packet) (status : Nat) (data : List PByte) (lost : Option Pair)
    (deps : List Pair) : List Packet :=
  let st : Stamp := { own := none, deps := deps, vint := s.vint, null := s.nullOf from_ }
  let one := fun (dst : Agent) (r : Requester) =>
    s.agentPacket from_ dst 2 (some st) (.response r.tag status data lost r.ctx r.token r.elem r.pad)
  one p.src p.who :: p.absorbed.map (fun r => one (.tile r.tile) r)

/-- Answer a request. -/
def State.answer (s : State) (from_ : Agent) (p : Packet) (status : Nat) (data : List PByte) (lost : Option Pair)
    (deps : List Pair) : State :=
  { s with net := s.net ++ s.responses from_ p status data lost deps }

/-- A cellar port answers with its pending entries, at once or when at most four remain (R105). -/
def State.answerPort (s : State) (k : Nat) (p : Packet) (status : Nat) (data : List PByte) (lost : Option Pair) : State :=
  let deps := (s.stack k).pendingP
  let out := s.responses (.cellar k) p status data lost deps
  if 4 < deps.length then s.modStack k (fun K => { K with late := K.late ++ out }) else { s with net := s.net ++ out }

/-- P[f] := wmax(P[f], t) for a write the port has performed (R105). -/
def Stack.mergeP (K : Stack) (q : Pair) : Stack :=
  let old := mget (K.gAt q.f).1 K.pvec q.f
  let v := wmax old q.t
  if exceeds v (K.gAt q.f).1 then { K with pvec := mput K.pvec q.f v } else K

def State.performed (s : State) (k : Nat) (p : Packet) : State :=
  s.modStack k (fun K => ((p.stamp.map Stamp.tickets).getD []).foldl Stack.mergeP K)

/-- The request is refused or not performed: its tickets are acknowledged (R100, R101), and it is answered. -/
def State.refuse (s : State) (k : Nat) (p : Packet) (status : Nat) (lost : Option Pair) : State :=
  (s.ackStamp (.cellar k) p.stamp).answerPort k p status [] lost

/-! ### The header (R125) -/

/-- What a port answers with BADREQ. `red` marks a forwarded reduction. -/
def badHead (h : ReqHead) (red : Bool) : Bool :=
  let op := h.op.toNat
  let first := h.va.toNat % 64
  let n := h.len.toNat + 1
  let w := redBytes h.fn.toNat
  decide (8 ≤ op) || h.zero != 0#8 || decide (64 < first + n) ||
    (if op = 2 ∨ red then h.rmask == 0#16 || (List.range 16).any (fun i => h.rmask.getLsbD i &&
        (decide (i * w < first) || decide (first + n < (i + 1) * w)))
      else h.rmask != 0#16)

/-! ### Serving a sector (R132, R139, R141) -/

/-- What an access does to its sector: status, data of the response, the new bytes to be written. -/
structure Served where
  status : Nat
  data : List PByte := []
  write : Option (List PByte) := none

/-- The new bytes of a reduction: those of every item of the mask (R412). -/
def redLine (old new : List PByte) (first fn : Nat) (mask : BitVec 16) : List PByte :=
  let w := redBytes fn
  (List.range old.length).map (fun j =>
    let i := (first + j) / w
    let a := itemAt old first w i
    let b := itemAt new first w i
    if mask.getLsbD i then (BitVec.ofNat 8 (redItem fn a.1 b.1 / 256 ^ ((first + j) % w)), a.2 || b.2) else old.getD j (0#8, false))

/-- An atomic on the item at the request's address: old value, and what is written (R360, R412). -/
def atomLine (old operand : List PByte) (fn : Nat) : List PByte × Option (List PByte) :=
  let w := atomWidth fn
  let num := fun (l : List PByte) => l.foldr (fun (b : PByte) v => b.1.toNat + 256 * v) 0
  let o := num (old.take w)
  let a := num (operand.take w)
  let b := num ((operand.drop w).take w)
  let bad := operand.any (fun x => x.2)
  let f := fn / 8 % 16
  let new := if f = 9 then atomicNew 9 w o b a else atomicNew f w o a 0
  (old.take w, new.map (fun v => itemBytes w v bad))

/-- What kind of access an op is: 0 read, 1 write, 2 reduction, 3 atomic, 4 prefetch. -/
def accessKind (op : Nat) (red : Bool) : Nat :=
  if red then 2 else if op = 5 then 0 else if op = 6 then 1 else if op = 7 then 3 else op

/-- Tags of R141 on a checked page: EXTRACE, and the new tag. -/
def tagRace (tag : BitVec 16) (h : ReqHead) (kind : Nat) : Bool :=
  let tix := tag.toNat % 2 ^ 14
  kind != 2 && h.tix != 0x3FFF#14 && tix != h.tix.toNat && tix != 0x3FFF && decide (tag.toNat / 2 ^ 14 = h.ph.toNat)

/-- The tag after a request that was performed (R141). Writes and atomics set it; a reduction leaves it, also one of a non-tile requester,
to which two rows of R141 apply (DESIGN CHOICE, log 57). -/
def newTag (old : BitVec 16) (h : ReqHead) (kind : Nat) : BitVec 16 :=
  if kind = 1 ∨ kind = 3 then (if h.tix = 0x3FFF#14 then 0x3FFF#16 else BitVec.ofNat 16 (h.tix.toNat + h.ph.toNat * 2 ^ 14))
  else old

/-- A request on sector bytes at stack-physical address `pa` of stack k. A read may find an uncorrectable error there, which
enters the sector in the record (R139); whether it does is a choice of the step. -/
def State.serve (s : State) (k pa : Nat) (p : Packet) (h : ReqHead) (data : List PByte) (chk : Bool) (q : Option QuarBit) :
    State × Served :=
  let kind := accessKind h.op.toNat p.red
  let n := h.len.toNat + 1
  let reads := kind != 1 && kind != 4
  let s := if reads && s.strikes 600 then s.enterPoison k pa q else s
  let bad := s.sectorBad k pa q
  let tag := (s.stack k).tag (pa / 64)
  let race := chk && tagRace tag h kind
  let old := s.sectorData k pa n bad
  let r : Served :=
    if kind = 0 then ⟨if race then 6 else 0, old, none⟩
    else if kind = 4 then ⟨if race then 6 else 0, [], none⟩
    else if race then ⟨6, [], none⟩
    else if kind = 1 then ⟨0, [], some (data.take n)⟩
    else if bad then ⟨5, [], none⟩
    else if kind = 2 then ⟨0, [], some (redLine old data (h.va.toNat % 64) h.fn.toNat h.rmask)⟩
    else let a := atomLine old data h.fn.toNat; ⟨0, a.1, a.2⟩
  let done := r.status == 0 && (kind == 1 || kind == 2 || kind == 3)
  let s := match r.write with
    | some w =>
      let s := s.putSector k pa w
      if w.any (fun b => b.2) then s.enterPoison k pa q
      else if kind = 1 ∧ n = 64 then s.cleanSector k pa q else s
    | none => s
  let s := if chk && done then s.modStack k (·.setTag (pa / 64) (newTag tag h kind)) else s
  (s, r)

/-- The tag of R141 is unmarked for a sector that is not checked. -/
def State.serveAt (s : State) (k pa : Nat) (p : Packet) (h : ReqHead) (data : List PByte) (chk : Bool)
    (q : Option QuarBit) : State :=
  let (s, r) := s.serve k pa p h data chk q
  let stamped := (p.stamp.bind (·.own)).isSome
  let s := if stamped && r.status == 0 then s.performed k p else s
  ((s.ackStamp (.cellar k) p.stamp).answerPort k p r.status r.data none).checkEmptyAll

/-! ### Forwarding (R134) -/

/-- The next free key of a port's forwarded requests; the header's tag has room for 1,024 (R125; DESIGN CHOICE, log 63: the spec gives no
number). -/
def Stack.nextKey (K : Stack) : Option Nat :=
  ((List.range 1024).map (fun i => (K.fwdKey + i) % 1024)).find? (fun key => K.fwd.all (fun f => f.1 != key))

/-- Keep a request until its forwarded copy is answered; the copy's token is the key. -/
def State.keepFwd (s : State) (k : Nat) (p : Packet) : State × Nat :=
  let key := (s.stack k).nextKey.getD 0
  (s.modStack k (fun K => { K with fwd := K.fwd ++ [(key, p)], fwdKey := (key + 1) % 1024 }), key)

/-- The copy of a request that goes to another stack: FREAD, FWRITE or FATOM at a stack-physical address. -/
def State.forwardStack (s : State) (k k' pa : Nat) (p : Packet) (h : ReqHead) (data : List PByte) (chk : Bool)
    (q : Option QuarBit) : State :=
  let (s, key) := s.keepFwd k p
  let op := if h.op.toNat = 0 ∨ h.op.toNat = 4 then 5 else if h.op.toNat = 1 then 6 else 7
  let head := { h with va := BitVec.ofNat 56 pa, op := BitVec.ofNat 4 op, merge := false }
  let f := s.agentPacket (.cellar k) (.cellar k') 2 (some (s.forwardStamp k)) (.request head data 0 key 0 0)
  s.inject { f with chk := chk, red := h.op.toNat == 2, quar := q }

/-- The PCIe atomic of an XATOM function exists, and the host enables it (R154). -/
def State.hostAtomOk (s : State) (n fn : Nat) : Bool :=
  let f := fn / 8 % 16
  (f == 0 || f == 8 || f == 9) && bit (s.reg0 (offLink n)) 9

/-- The copy of a request that goes to the host or to a peer, still a request of the cellar port. -/
def State.forwardOut (s : State) (k : Nat) (dst : Agent) (va : Nat) (p : Packet) (h : ReqHead) (data : List PByte) : State :=
  let (s, key) := s.keepFwd k p
  let head := { h with va := BitVec.ofNat 56 va, merge := false, hops := 0#3 }
  s.inject (s.agentPacket (.cellar k) dst 2 (some (s.forwardStamp k)) (.request head data 0 key 0 0))

/-! ### PHYS_COPY (R157) -/

/-- A request for one sector of a PHYS_COPY of link n: physical, from no tile, whole. -/
def copyPacket (n pa : Nat) (data : Option (List PByte)) (s : State) : Packet :=
  let h : ReqHead := { va := BitVec.ofNat 56 pa, op := if data.isSome then 6#4 else 5#4, len := 63#6, merge := false, ph := 0#2,
                       fn := 0#8, tix := 0x3FFF#14, tag := 0#10, hops := 0#3, rmask := 0#16, zero := 0#8 }
  { s.agentPacket (.pcie n) (.pcie n) 2 none (.request h (data.getD []) 1 0 0 0) with chk := data.isSome }

def State.copy (s : State) (n : Nat) : Option PhysCopy := (s.host.copies.find? (fun e => e.1 == n)).map (·.2)

def State.setCopy (s : State) (n : Nat) (c : Option PhysCopy) : State :=
  let rest := s.host.copies.filter (fun e => e.1 != n)
  { s with host := { s.host with copies := rest ++ (c.map (fun c => (n, c))).toList } }

/-- The copy of link n ends; its command is answered OK (0) or FAILED (9). -/
def State.endCopy (s : State) (n status : Nat) : State := (s.setCopy n none).mailDone n status

/-- The next sector: its read goes out on the link, or its request joins the other requests of the cellar port. -/
def State.copySector (s : State) (n : Nat) (c : PhysCopy) : State :=
  if !s.linkUp n then s.endCopy n 9
  else if s.stackDead c.stack then s.endCopy n 9
  else if c.toHost then s.modStack c.stack (fun K => K.leaveStep1 (copyPacket n c.pa none s))
  else s.askHost (.copy n) (.read c.ha 64)

/-- A sector is copied: the next one, or the end. -/
def State.copyNext (s : State) (n : Nat) (c : PhysCopy) : State :=
  let c' : PhysCopy := { c with ha := c.ha + 64, pa := c.pa + 64, left := c.left - 64 }
  if c'.left = 0 then s.endCopy n 0 else (s.setCopy n (some c')).copySector n c'

/-- The port serves a sector of the copy: written whole, or sent to the host, poisoned or not. -/
def State.serveCopy (s : State) (n k : Nat) (p : Packet) (h : ReqHead) (data : List PByte) : State :=
  match s.copy n with
  | none => s
  | some c =>
    if s.stackDead k then s.endCopy n 9
    else
      let (s, r) := s.serve k (h.va.toNat % 2 ^ 36) p h data p.chk none
      let s := if c.toHost then { s with host := { s.host with tlps := s.host.tlps ++ [(n, .write c.ha r.data)] } } else s.checkEmptyAll
      s.copyNext n c

/-- The sector that a PHYS_COPY asked the host for has come, or its read has failed: a PCIe error (R157). -/
def State.copyData (s : State) (n : Nat) (data : Option (List Byte)) : State :=
  match s.copy n with
  | none => s
  | some c =>
    match data with
    | none => s.endCopy n 9
    | some b =>
      let bytes := (List.range 64).map (fun i => (b.getD i 0#8, false))
      s.modStack c.stack (fun K => K.leaveStep1 (copyPacket n c.pa (some bytes) s))

/-! ### A translated request -/

/-- The access is allowed by the leaf (R130). -/
def leafAllows (e : W64) (op : Nat) : Bool :=
  if op = 0 ∨ op = 4 then bit e 4 else if op = 1 ∨ op = 2 then bit e 5 else bit e 6 && bit e 4 && bit e 5

/-- The region holds a leaf with loc ≠ 0. -/
def State.regionAway (s : State) (va : Nat) : Bool :=
  (List.range 32).any (fun i => match s.walk (ownerOf va) (va % 2 ^ 50 + i * 65536) with
    | some e => leafLoc e.leaf != 0
    | none => false)

/-- A counter has reached the hot threshold: its region is posted, or the notice is dropped and counted. -/
def State.hotNotice (s : State) (k va old new : Nat) : State :=
  let hot := fld (s.reg0 (offRack k)) 0 16
  if old < hot ∧ hot ≤ new ∧ s.regionAway va then
    if 64 ≤ (s.stack k).hotQ.length then s.countRack k 20
    else s.modStack k (fun K => { K with hotQ := K.hotQ ++ [va] })
  else s

/-- The gathered increments go into the counters. -/
def State.writeCounters (s : State) (k : Nat) : State :=
  let l := (s.stack k).counts
  let s := s.modStack k (fun K => { K with counts := [] })
  l.foldl (fun s (c : Nat × Nat × Nat × Nat) =>
    let (tstk, a, va, n) := c
    let old := readBytes (s.stack tstk).mem a 2
    let new := sat (old + n) 0xFFFF
    (s.poke tstk a 2 new).hotNotice k va old new) s

/-- The port gathers an increment of the region's counter; a full cache of 256 entries is written back first (R135). -/
def State.countAccess (s : State) (k owner : Nat) (e : TlbEntry) (off : Nat) : State :=
  match e.cnt with
  | none => s
  | some a =>
    let key := (s.tableStack owner, a, owner * 2 ^ 50 + off / 2 ^ 21 * 2 ^ 21)
    let same := fun (c : Nat × Nat × Nat × Nat) => (c.1, c.2.1, c.2.2.1) == key
    if (s.stack k).counts.any same then
      s.modStack k (fun K => { K with counts := mapFirst same (fun c => (c.1, c.2.1, c.2.2.1, c.2.2.2 + 1)) K.counts })
    else
      let s := if 256 ≤ (s.stack k).counts.length then s.writeCounters k else s
      s.modStack k (fun K => { K with counts := K.counts ++ [(key.1, key.2.1, key.2.2, 1)] })

/-! ### The order of a sector (R132) -/

/-- The 64-byte sector, or the place outside, that a request of port k goes to by the translation that holds now. -/
def State.sectorOf (s : State) (k : Nat) (p : Packet) : Option Loc :=
  match p.body with
  | .request h _ _ _ _ _ =>
    if 5 ≤ h.op.toNat then some (.sector k (h.va.toNat % 2 ^ 36 / 64 * 64))
    else
      let owner := ownerOf h.va.toNat
      let off := h.va.toNat % 2 ^ 50 / 64 * 64
      match tlbFind (s.stack k).tlb owner off with
      | some e => some (s.locate owner e.leaf (off - e.base))
      | none => (s.walk owner off).map (fun e => s.locate owner e.leaf (off - e.base))
  | _ => none

/-- Every request of port k that has left step 1 and is not yet served. -/
def State.waitingAt (s : State) (k : Nat) : List Packet :=
  let K := s.stack k
  K.ready ++ K.homeQ ++ K.walkQ ++ s.heldOf k

/-- A request that is to be forwarded, while every key of the port is in use. -/
def State.noKey (s : State) (k : Nat) (p : Packet) : Bool :=
  (s.stack k).nextKey.isNone && (match s.sectorOf k p with
    | some (.sector k' _) => k' != k
    | some _ => true
    | none => false)

/-- A request to the same sector that left step 1 earlier still waits. -/
def State.mustFollow (s : State) (k : Nat) (p : Packet) : Bool :=
  match s.sectorOf k p with
  | none => false
  | some l => (s.waitingAt k).any (fun q => decide (q.turn < p.turn) && s.sectorOf k q == some l)

/-- The racking in SWITCH, or the held page, that a request meets. -/
def State.heldBy (s : State) (p : Packet) : Option (Nat × Racking) :=
  match p.body with
  | .request h _ _ _ _ _ =>
    if 5 ≤ h.op.toNat then none else (s.rackOf (ownerOf h.va.toNat) (h.va.toNat % 2 ^ 50)).filter (fun r => r.2.switch)
  | _ => none

/-- The request cannot be taken up now: an earlier one to its sector waits, its page holds 512 requests already (R132, R136), or no key is
free to forward it by. -/
def State.parked (s : State) (k : Nat) (p : Packet) : Bool :=
  s.mustFollow k p || s.noKey k p || ((s.heldBy p).map (fun r => decide (512 ≤ r.2.held.length))).getD false

/-- A prefetch outside the stacks goes out as a read whose data is dropped (R134). -/
def outHead (h : ReqHead) : ReqHead := if h.op = 4#4 then { h with op := 0#4 } else h

/-- Serve or forward a request whose translation is at hand; a page in SWITCH, or held for quarantine, holds it (R134, R136,
R140). -/
def State.serveWith (s : State) (k : Nat) (p : Packet) (e : TlbEntry) : State :=
  match p.body with
  | .request h data _ _ _ _ =>
    let owner := ownerOf h.va.toNat
    let off := h.va.toNat % 2 ^ 50
    if s.parked k p then s.backInTurn k p
    else match s.heldBy p with
    | some (kr, r) =>
      s.modStack kr (fun K => { K with racks := mapFirst (fun x => x.va == r.va) (fun x => { x with held := x.held ++ [p] }) K.racks })
    | none =>
      let s := s.countAccess k owner e off
      if !leafAllows e.leaf h.op.toNat then s.refuse k p 2 none
      else match s.locate owner e.leaf (off - e.base) with
        | .sector k' pa =>
          let q := s.quarBit owner e.leaf k' pa
          if k' = k then s.serveAt k pa p h data (bit e.leaf 7) q else s.forwardStack k k' pa p h data (bit e.leaf 7) q
        | .host n a =>
          if h.op.toNat = 2 ∨ (h.op.toNat = 3 ∧ !s.hostAtomOk n h.fn.toNat) then s.refuse k p 2 none
          else s.forwardOut k (.pcie n) (60 * 2 ^ 50 + a) p (outHead h) data
        | .peer id o =>
          if id = fld (s.reg0 offSelf) 0 8 then s.refuse k p 8 none
          else match s.peerPort id with
          | some q => s.forwardOut k (.port q) (61 * 2 ^ 50 + id * 2 ^ 42 + o) p h data
          | none => s.refuse k p 8 none
  | _ => s

/-! ### CELLAR_REQUEST (R131) -/

def Packet.reqVa (p : Packet) : Nat :=
  match p.body with
  | .request h _ _ _ _ _ => h.va.toNat
  | _ => 0

def samePage (p q : Packet) : Bool := p.reqVa / 65536 == q.reqVa / 65536

/-- The oldest packet that has reached an agent and that `f` accepts. -/
def State.arrivedAt (s : State) (a : Agent) (f : Packet → Bool) : Option Nat :=
  s.net.findIdx? (fun p => p.arrived && p.dst == a && f p)

def Packet.isRequest (p : Packet) : Bool := match p.body with | .request .. => true | _ => false
def Packet.isPrefetch (p : Packet) : Bool := match p.body with | .request h _ _ _ _ _ => h.op == 4#4 | _ => false
def Packet.isResponse (p : Packet) : Bool := match p.body with | .response .. => true | _ => false

/-- An earlier element of the same command to the same sector: those of one command are served in element order (R273). -/
def Packet.elderOf (q p : Packet) : Bool :=
  match p.body, q.body with
  | .request h _ x token elem _, .request h' _ x' token' elem' _ =>
    p.src == q.src && p.dst == q.dst && x == x' && token == token' && h.op == h'.op && h.va.toNat / 64 == h'.va.toNat / 64 &&
      decide (elem' < elem)
  | _, _ => false

/-- The request comes before its turn: an earlier element for the same sector has not yet left step 1. -/
def State.hasElder (s : State) (k : Nat) (p : Packet) : Bool :=
  (match p.src with | .tile _ => true | _ => false) &&
    (s.net.any (·.elderOf p) || (s.stack k).ebuf.any (·.elderOf p) || s.fields.any (fun e => e.2.ovf.any (·.elderOf p)))

/-- The port can take in a request that has reached it: it is of an old vintage; unmet, with room in the early or the overflow buffer; or
met, with room in the miss queue (R109 to R112, R118, R131). -/
def State.takes (s : State) (k : Nat) (p : Packet) : Bool :=
  let K := s.stack k
  !s.fresh p || (if p.verdict K.gAt = .unmet then roomFor K.ebuf p 64 256 || roomFor (s.field (stackField k)).ovf p 512 8192
    else decide (s.missq k < missRoom))

/-- Step 1: the delivery rule. What the early buffer can release goes first (R111); then the oldest arrival that the port can take: met
requests pass an unmet one that is refused (R112), and with the miss queue full the port refuses heads whose dependences are met (R131). -/
def State.intake (s : State) (k : Nat) : State :=
  let s := s.releaseStack k
  match s.arrivedAt (.cellar k) (fun p => p.isRequest && !s.hasElder k p && s.takes k p) with
  | none => s
  | some j =>
    match s.net[j]? with
    | none => s
    | some p =>
      if !s.fresh p then (s.dropNet j).stalePort (stackField k)
      else
        let K := s.stack k
        if p.verdict K.gAt = .unmet then
          if roomFor K.ebuf p 64 256 then (s.dropNet j).modStack k (fun K => { K with ebuf := K.ebuf ++ [p] })
          else s.overflow (stackField k) j p
        else (s.dropNet j).modStack k (·.leaveStep1 p)

/-- Translate: the first-level TLB, the home slice, a query to a remote home, a walk. Requests for a page that is being looked up join
its lookup. -/
def State.translate (s : State) (k : Nat) (p : Packet) (h : ReqHead) : State :=
  let K := s.stack k
  let owner := ownerOf h.va.toNat
  let off := h.va.toNat % 2 ^ 50
  let home := s.homeOf owner off
  if K.homeQ.any (samePage p) then s.setStack k { K with homeQ := K.homeQ ++ [p] }
  else if K.walkQ.any (samePage p) then s.setStack k { K with walkQ := K.walkQ ++ [p] }
  else
    match tlbFind K.tlb owner off with
    | some e => s.serveWith k p e
    | none =>
      if home = k then
        match tlbFind K.slice owner off with
        | some e => (s.setStack k { K with tlb := tlbFill K.tlb 256 e (s.chosen 601) }).serveWith k p e
        | none => s.setStack k { K with walkQ := K.walkQ ++ [p] }
      else s.setStack k { K with homeQ := K.homeQ ++ [p] }

/-- Steps 2 to 4 for a request past the delivery rule; one of an old vintage is discarded (R109, R118). A port whose owner code is not the
request's, or that is no member of the set, answers BADOWNER, as does a dead stack (R122, R127, R303). A stack-physical address of 48 GiB or
more, in an FREAD, FWRITE or FATOM, answers BADREQ (DESIGN CHOICE, log 63: R125 names no status). -/
def State.serveRequest (s : State) (k : Nat) (p : Packet) : State :=
  match p.body with
  | .request h data _ _ _ _ =>
    match p.copyOf with
    | some n => s.serveCopy n k p h data
    | none =>
      if !s.fresh p then s.stalePort (stackField k) else
      match p.verdict (s.stack k).gAt with
      | .lost q => s.refuse k p 7 (some q)
      | _ =>
        if s.stackDead k then s.refuse k p 3 none
        else if badHead h p.red then s.refuse k p 4 none
        else if 5 ≤ h.op.toNat then
          let pa := h.va.toNat % 2 ^ 36
          if stackBytes ≤ pa then s.refuse k p 4 none else s.serveAt k pa p h data p.chk p.quar
        else if !(s.membersOf (ownerOf h.va.toNat)).contains k then s.refuse k p 3 none
        else s.translate k p h
  | _ => s

/-- The oldest request past the delivery rule that none holds back is taken up (R132). -/
def State.serveNext (s : State) (k : Nat) : State :=
  match (s.stack k).ready.find? (fun p => !s.parked k p) with
  | none => s
  | some p => (s.modStack k (fun K => { K with ready := eraseFirst (fun q => q.turn == p.turn) K.ready })).serveRequest k p

/-- CELLAR_REQUEST: the port takes in the oldest request that has reached it, and serves the oldest past the delivery
rule. -/
def execCellarRequest (k : BitVec 6) (s : State) : Res := onStack k fun n => .next ((s.intake n).serveNext n)

/-! ### TLB_HOME_QUERY, WALK_DONE -/

/-- The oldest request of another port that waits for home slice k. -/
def State.homeWaiter (s : State) (k : Nat) : Option (Nat × Packet) :=
  (s.cellars.flatMap (fun e => (e.2.homeQ.map (fun p => (e.1, p))))).find? (fun x =>
    x.1 != k && s.homeOf (ownerOf x.2.reqVa) (x.2.reqVa % 2 ^ 50) == k)

/-- What home slice n has for a request of port r; an entry that a shoot-down has already made r drop is not given to it again
(R138). -/
def State.homeEntry (s : State) (n r owner off : Nat) : Option TlbEntry :=
  if s.shotFor r owner off then none else tlbFind (s.stack n).slice owner off

/-- TLB_HOME_QUERY: home slice k answers; a hit fills the requesting port's first level, a miss starts a walk there. -/
def execTlbHomeQuery (k : BitVec 6) (s : State) : Res :=
  onStack k fun n =>
    match s.homeWaiter n with
    | none => .next s
    | some (r, p) =>
      let mine := (s.stack r).homeQ.filter (samePage p)
      let s := s.modStack r (fun K => { K with homeQ := K.homeQ.filter (fun q => !samePage p q) })
      match s.homeEntry n r (ownerOf p.reqVa) (p.reqVa % 2 ^ 50) with
      | some e =>
        let s := s.modStack r (fun K => { K with tlb := tlbFill K.tlb 256 e (s.chosen 601) })
        .next (mine.foldl (fun s q => s.serveWith r q e) s)
      | none => .next (s.modStack r (fun K => { K with walkQ := K.walkQ ++ mine }))

/-- WALK_DONE: the oldest walk of port k completes; walks for one 64 KiB page are one. Of the pages whose requests wait here, the first
1,024 have their walks under way. -/
def execWalkDone (k : BitVec 6) (s : State) : Res :=
  onStack k fun n =>
    match (s.stack n).walkQ with
    | [] => .next s
    | p :: _ =>
      let owner := ownerOf p.reqVa
      let off := p.reqVa % 2 ^ 50
      let mine := (s.stack n).walkQ.filter (samePage p)
      let s := s.modStack n (fun K => { K with walkQ := K.walkQ.filter (fun q => !samePage p q) })
      match s.walk owner off with
      | none => .next (mine.foldl (fun s q => s.refuse n q 1 none) s)
      | some e =>
        let home := s.homeOf owner off
        let s := s.modStack home (fun K => { K with slice := sliceFill K.slice e (s.chosen 602) })
        let s := s.modStack n (fun K => { K with tlb := tlbFill K.tlb 256 e (s.chosen 601) })
        .next (mine.foldl (fun s q => s.serveWith n q e) s)

/-! ### FORWARD_RESPONSE (R134) -/

/-- FORWARD_RESPONSE: the port answers the requester with the owner's status and acknowledges the write's ticket; the pairs
of the owner's response join its own vector (DESIGN CHOICE, log 63: R105 names only writes that the port has performed). -/
def execForwardResponse (k : BitVec 6) (s : State) : Res :=
  onStack k fun n =>
    match s.arrivedAt (.cellar n) Packet.isResponse with
    | none => .next s
    | some j =>
      match s.net[j]? with
      | none => .next s
      | some r =>
        if !s.fresh r then .next ((s.dropNet j).stalePort (stackField n))
        else match r.body with
          | .response _ status data lost _ key _ _ =>
            match (s.stack n).fwd.find? (fun f => f.1 == key) with
            | none => .next (s.dropNet j)
            | some (_, p) =>
              let s := (s.dropNet j).modStack n (fun K =>
                let K := { K with fwd := eraseFirst (fun f => f.1 == key) K.fwd }
                ((r.stamp.map (·.deps)).getD []).foldl Stack.mergeP K)
              let s := if status = 0 ∧ (p.stamp.bind (·.own)).isSome then s.performed n p else s
              .next ((s.ackStamp (.cellar n) p.stamp).answerPort n p status
                (if p.isPrefetch then [] else data) lost)
          | _ => .next s

/-! ### Access counters (R135) -/

def execCounterWriteback (k : BitVec 6) (s : State) : Res := onStack k fun n => .next (s.writeCounters n)

/-- COUNTER_DECAY: every counter of the tables that lie in the port's stack is halved, after what the port has gathered. -/
def execCounterDecay (k : BitVec 6) (s : State) : Res :=
  onStack k fun n =>
    let s := s.writeCounters n
    let tabs := (s.owners.filter (fun o => s.tableStack o == n)).flatMap s.level3
    .next (tabs.foldl (fun s tab => (List.range 512).foldl (fun s i =>
      let a := tab + 4096 + 2 * i
      s.poke n a 2 (readBytes (s.stack n).mem a 2 / 2)) s) s)

end Sys2Proof.Machine
end

