-- ==== Sys2Proof/Machine/HostPath.lean ====
section
/-! DEFINITION. The PCIe paths of the corner fields as the fabric sees them: requests to the host, their completions, and
the responses of BAR 4 accesses (R100, R134, R153, R154). -/

namespace Sys2Proof.Machine

open Host Sys2Proof

/-- A request that an agent refuses: its tickets are acknowledged there, and it is answered (R100, R101). -/
def State.refuseAt (s : State) (a : Agent) (p : Packet) (status : Nat) : State :=
  (s.ackStamp a p.stamp).answer a p status [] none []

/-- The request that a request to the host stands for: itself, or one that a cellar port forwards (R134). -/
def State.origin (s : State) (p : Packet) : Packet :=
  match p.src, p.body with
  | .cellar k, .request _ _ _ key _ _ =>
    (((s.stack k).fwd.find? (fun (f : Nat × Packet) => f.1 == key)).map (fun (f : Nat × Packet) => f.2)).getD p
  | _, _ => p

/-- A tile's write to the host over link n is noted for the flush of R276, with the command whose ticket it carries. -/
def State.noteLink (s : State) (n : Nat) (p : Packet) : State :=
  let o := s.origin p
  match o.src with
  | .tile t =>
    let d := (((s.tile t).drawn.find? (fun d => Packet.owns d.pair o)).map (fun d => (d.ctx, d.seq))).getD (0, 0)
    let w : LinkWrite := { link := n, ctx := d.1, seq := d.2 }
    s.modTile t (fun T => if T.hostLinks.contains w then T else { T with hostLinks := T.hostLinks ++ [w] })
  | _ => s

/-- A request to the host that waits for a completion: a read or an atomic that its link allows. -/
def State.asksHost (s : State) (n : Nat) (h : ReqHead) : Bool := h.op == 0#4 || (h.op == 3#4 && s.hostAtomOk n h.fn.toNat)

/-- A request reaches the PCIe path of link n: writes are posted, reads and atomics await their completions (R100, R154). A tile's
write is noted for the flush of R276. -/
def State.acceptHost (s : State) (n : Nat) (p : Packet) : State :=
  let a := Agent.pcie n
  match p.body with
  | .request h data _ _ _ _ =>
    let op := h.op.toNat
    let ha := h.va.toNat % 2 ^ 50
    if !s.fresh p then s
    else if !s.linkUp n then s.refuseAt a p 3
    else if op = 4 then (s.ackStamp a p.stamp).answer a p 0 [] none []
    else if op = 1 then
      let s := s.noteLink n p
      let s := { s with host := { s.host with tlps := s.host.tlps ++ [(n, HostTlp.write ha data)] } }
      (s.ackStamp a p.stamp).answer a p 0 [] none []
    else if !s.asksHost n h then s.refuseAt a p 2
    else (s.ackStamp a p.stamp).askHost (.request n p) (if op = 0 then HostTlp.read ha (h.len.toNat + 1) else HostTlp.atomic ha h.fn.toNat data)
  | _ => s

/-- The path of link n cannot take the request now: its link has as many non-posted requests outstanding as it may (R146). -/
def State.hostFull (s : State) (n : Nat) (p : Packet) : Bool :=
  match p.body with
  | .request h _ _ _ _ _ => s.linkUp n && s.asksHost n h && !s.hostRoom n
  | _ => false

/-- One of the completions of the host's non-posted TLP with this tag has been sent. -/
def State.completed (s : State) (n tag : Nat) : State :=
  let l := mapFirst (fun (e : Nat × Nat × Nat) => e.1 == n && e.2.1 == tag) (fun e => (e.1, e.2.1, e.2.2 - 1)) s.host.asked
  { s with host := { s.host with asked := l.filter (fun e => e.2.2 != 0) } }

/-- The response to a BAR 4 access reaches its link; the token tells a read (0), a write (1) and an AtomicOp (2) apart, with the tag of
its TLP above (R153). Poisoned data makes a poisoned TLP. A response of an old vintage is discarded (R118). -/
def State.acceptReply (s : State) (n : Nat) (p : Packet) : State :=
  match p.body with
  | .response _ status data _ _ token _ _ =>
    if !s.fresh p then s
    else if token % 4 = 1 then (if status = 0 then s else s.modReg0 (offLink n) (incFld · 40 8 1))
    else (s.reply n (if status = 0 then .data data else .unsupported)).completed n (token / 4)
  | _ => s

/-- Take the oldest request that awaits a completion on link n. -/
def State.takeHost (s : State) (n : Nat) : Option (HostReq × State) :=
  (s.host.outstanding.find? (fun r => r.link == n)).map (fun r =>
    (r, { s with host := { s.host with outstanding := eraseFirst (fun r => r.link == n) s.host.outstanding } }))

/-- The read that flushes the writes of tile t on link n has come back. -/
def State.flushDone (s : State) (n t : Nat) : State := s.modTile t (fun T => { T with flushing := T.flushing.filter (fun w => w.link != n) })

/-- The bytes a request reads, from a completion's data. -/
def completionData (p : Packet) (bytes : List Byte) (poison : Bool) : List PByte :=
  let n := match p.body with | .request h _ _ _ _ _ => h.len.toNat + 1 | _ => 0
  (List.range n).map (fun i => (bytes.getD i 0#8, poison))

def Packet.isAtomic (p : Packet) : Bool := match p.body with | .request h _ _ _ _ _ => h.op == 3#4 | _ => false

/-- HOST_COMPLETION: the oldest request outstanding on the link completes: a packet's (R154), a flush (R276), a sector of a PHYS_COPY
(R157). A poisoned sector is a PCIe error of the copy (DEDUCED, log 57). -/
def execHostCompletion (n : BitVec 2) (cpl : Completion) (s : State) : Res :=
  let k := n.toNat
  match s.takeHost k with
  | none => .next s
  | some (.flush _ t, s) => .next (s.flushDone k t)
  | some (.copy _, s) =>
    match cpl with
    | .data b => .next (s.copyData k (some b))
    | _ => .next (s.copyData k none)
  | some (.request _ p, s) =>
    match cpl with
    | .data b => .next (s.answer (.pcie k) p 0 (completionData p b false) none [])
    | .poisoned b =>
      if p.isAtomic then .next (s.answer (.pcie k) p 5 [] none [])
      else .next (s.answer (.pcie k) p 0 (completionData p b true) none [])
    | .unsupported => .next (s.answer (.pcie k) p 2 [] none [])
    | .aborted => .next (s.answer (.pcie k) p 2 [] none [])

/-- HOST_COMPLETION_TIMEOUT: no completion within 50 ms (R154). -/
def execHostCompletionTimeout (n : BitVec 2) (s : State) : Res :=
  match s.takeHost n.toNat with
  | none => .next s
  | some (.flush _ t, s) => .next (s.flushDone n.toNat t)
  | some (.copy _, s) => .next (s.copyData n.toNat none)
  | some (.request _ p, s) => .next (s.answer (.pcie n.toNat) p 4 [] none [])

end Sys2Proof.Machine
end

