-- ==== Sys2Proof/Machine/Optical.lean ====
section
/-! DEFINITION. Optical ports (R51 to R67, R430 to R433): link flits, allowances, narrowing, laser states, bring-up, peer
requests and their answers, switch reconfiguration. -/

namespace Sys2Proof.Machine

open Host Sys2Proof

def onPort (p : BitVec 7) (f : Nat → Res) : Res := if 96 ≤ p.toNat then .fault .offWafer else f p.toNat

/-! ### OPT_STATE (R57) -/

def dark : Nat := 0
def bud : Nat := 1
def bloom : Nat := 2
def changing : Nat := 3

def State.laser (s : State) (p : Nat) : Nat := fld (s.reg0 (offState p)) 0 2
def State.setLaser (s : State) (p v : Nat) : State := s.modReg0 (offState p) (setFld · 0 2 v)
def State.width (s : State) (p : Nat) : Nat := fld (s.reg0 (offState p)) 2 2
def State.holding (s : State) (p : Nat) : Bool := bit (s.reg0 (offState p)) 5

/-! ### Flits (R51, R125, R126) -/

/-- CRC-32 (IEEE) of a list of bytes. -/
def crcBit (c : Nat) : Nat := if c % 2 = 1 then (c / 2) ^^^ 0xEDB88320 else c / 2
def crcByte (c : Nat) (b : Byte) : Nat := (List.range 8).foldl (fun c _ => crcBit c) (c ^^^ b.toNat)
def crc32 (l : List Byte) : BitVec 32 := BitVec.ofNat 32 (l.foldl crcByte 0xFFFFFFFF ^^^ 0xFFFFFFFF)

def linkHeader (f : LinkFlit) : Nat :=
  f.seq.toNat + f.ack.toNat * 2 ^ 13 + f.kind.toNat * 2 ^ 26 + f.cls.toNat * 2 ^ 29 + (if f.last then 2 ^ 31 else 0)

/-- The bytes that the crc covers. -/
def crcBytes (f : LinkFlit) : List Byte :=
  (List.range 4).map (fun i => BitVec.ofNat 8 (linkHeader f / 256 ^ i)) ++
  (List.range 64).map (fun i => f.payload.extractLsb' (8 * i) 8)

/-- Type 7, class 0 or 1, or a bad crc: treated as uncorrectable. -/
def flitBad (f : LinkFlit) : Bool := f.kind == 7#3 || f.cls == 0#2 || f.cls == 1#2 || crc32 (crcBytes f) != f.crc

/-- The bytes of a DATA flit, with their poison. -/
def DataFlit.bytes (d : DataFlit) : List PByte :=
  (List.range 64).map (fun i => (d.payload.extractLsb' (8 * i) 8, d.poison.getLsbD i))

/-- A number from bytes, the lowest first. -/
def leNat (l : List PByte) : Nat := l.foldr (fun b v => b.1.toNat + 256 * v) 0

/-- Flit `i` of `n` of a packet's bytes, the rest of its payload zero. -/
def dataFlit (bytes : List PByte) (n i : Nat) (seq : BitVec 13) : DataFlit :=
  let l := (bytes.drop (64 * i)).take 64
  { seq := seq, cls := 2#2, last := i + 1 == n, payload := BitVec.ofNat 512 (leNat l),
    poison := BitVec.ofNat 64 (l.foldr (fun b v => b.2.toNat + 2 * v) 0) }

/-- The flits that so many bytes fill. -/
def linkFlits (bytes : List PByte) : Nat := max 1 ((bytes.length + 63) / 64)

/-- The 16-byte header of R125 as a number, and back. -/
def headBits (h : ReqHead) : Nat :=
  h.va.toNat + h.op.toNat * 2 ^ 56 + h.len.toNat * 2 ^ 60 + h.merge.toNat * 2 ^ 66 + h.ph.toNat * 2 ^ 67 + h.fn.toNat * 2 ^ 69 +
    h.tix.toNat * 2 ^ 77 + h.tag.toNat * 2 ^ 91 + h.hops.toNat * 2 ^ 101 + h.rmask.toNat * 2 ^ 104 + h.zero.toNat * 2 ^ 120

def headOf (v : Nat) : ReqHead :=
  { va := BitVec.ofNat 56 v, op := BitVec.ofNat 4 (v / 2 ^ 56), len := BitVec.ofNat 6 (v / 2 ^ 60), merge := v / 2 ^ 66 % 2 == 1,
    ph := BitVec.ofNat 2 (v / 2 ^ 67), fn := BitVec.ofNat 8 (v / 2 ^ 69), tix := BitVec.ofNat 14 (v / 2 ^ 77),
    tag := BitVec.ofNat 10 (v / 2 ^ 91), hops := BitVec.ofNat 3 (v / 2 ^ 101), rmask := BitVec.ofNat 16 (v / 2 ^ 104),
    zero := BitVec.ofNat 8 (v / 2 ^ 120) }

/-- The bytes of a number, without poison. -/
def clean (v n : Nat) : List PByte := (List.range n).map (fun i => (BitVec.ofNat 8 (v / 256 ^ i), false))

/-- The operand bytes of an atomic: one operand, or the two of a compare and swap (R412). -/
def atomBytes (fn : Nat) : Nat := (if fn / 8 % 16 = 9 then 2 else 1) * atomWidth fn

/-- The data bytes that follow a request's header: none for reads and prefetches (R125). -/
def requestBytes (h : ReqHead) : Nat :=
  let n := h.len.toNat + 1
  match h.op.toNat with
  | 0 | 4 | 5 => 0
  | 3 | 7 => atomBytes h.fn.toNat
  | _ => n

/-- The data bytes of a request's answer (R126). -/
def answerBytes (h : ReqHead) : Nat :=
  match h.op.toNat with
  | 0 | 5 => h.len.toNat + 1
  | 3 | 7 => atomWidth h.fn.toNat
  | _ => 0

def PeerPkt.bytes (q : PeerPkt) : List PByte := clean (headBits { q.head with tag := BitVec.ofNat 10 q.tag }) 16 ++ q.data
def answerPacket (tag status : Nat) (data : List PByte) : List PByte := clean (tag % 1024 + status % 16 * 1024) 4 ++ data

/-! ### Sending (R52, R53) -/

/-- The number of the last flit received in order and intact. -/
def Port.ack (P : Port) : BitVec 13 := P.rxNext - 1#13

/-- A DATA flit as it leaves: with the present ack, and its crc. -/
def Port.form (P : Port) (d : DataFlit) : LinkFlit :=
  let f : LinkFlit := { seq := d.seq, ack := P.ack, kind := 0#3, cls := d.cls, last := d.last, crc := 0#32, payload := d.payload, poison := d.poison }
  { f with crc := crc32 (crcBytes f) }

/-- Send a control flit; it takes no sequence number and no allowance. -/
def Port.say (P : Port) (c : LinkCtl) : Port := { P with sent := P.sent ++ [.control P.ack c] }

/-- Send again what stands in the replay buffer, in order. -/
def Port.resendAll (P : Port) : Port := { P with sent := P.sent ++ P.replay.map (fun d => .data (P.form d)) }

/-- Send a packet as DATA flits of class 2, when the replay buffer and the allowance hold all of them: a packet does not leave in parts
(DESIGN CHOICE, log 64: R52 and R53 count single flits). -/
def Port.send (P : Port) (bytes : List PByte) : Option Port :=
  let n := linkFlits bytes
  if P.replay.length + n ≤ 4096 ∧ n ≤ P.allow2 then
    let l := (List.range n).map (fun i => dataFlit bytes n i (P.txSeq + BitVec.ofNat 13 i))
    some { P with
      replay := P.replay ++ l, sent := P.sent ++ l.map (fun d => .data (P.form d)), txSeq := P.txSeq + BitVec.ofNat 13 n,
      allow2 := P.allow2 - n, drained := false, dimming := false }
  else none

/-- The port can send DATA flits: in BLOOM, up, and no lane changes. -/
def State.canSend (s : State) (p : Nat) : Bool :=
  let P := s.port p
  s.laser p == bloom && s.width p != 3 && !P.narrowing && !P.training && !P.down

/-! ### Answers to peer requests (R431, R433) -/

/-- The port owes the answer of a request that entered by it; one that it no longer serves gets none (R63, R66). -/
def State.owe (s : State) (p token status : Nat) (data : List PByte) : State :=
  if (s.port p).serving.any (fun e => e.1 == token) then s.modPort p (fun P => { P with owed := P.owed ++ [(token, status, data)] }) else s

/-- An answer goes to the requester: the port by which the request entered owes it, or the request's packet is answered. -/
def State.settlePeer (s : State) (p : Nat) (q : PeerPkt) (status : Nat) (data : List PByte) : State :=
  match q.via, q.pkt with
  | some (v, token), _ => s.owe v token status data
  | none, some pkt => s.answer (.port p) pkt status data none []
  | none, none => s

/-- A request still in the queue completes with PEERUNREACH; its ticket is acknowledged by the port (R100, R101). -/
def State.unreach (s : State) (p : Nat) (q : PeerPkt) : State :=
  (s.ackStamp (.port p) (q.pkt.bind (·.stamp))).settlePeer p q 8 []

/-! ### What can go, goes -/

/-- Units freed in the ingress buffer go back in ALLOW flits (R53). -/
def State.giveAllow (s : State) (p : Nat) : State :=
  if s.laser p != bloom || (s.port p).down then s
  else s.modPort p (fun P =>
    let P₂ := if P.freed2 = 0 then P else { P.say (.allow 2#2 P.freed2) with freed2 := 0 }
    if P₂.freed3 = 0 then P₂ else { P₂.say (.allow 3#2 P₂.freed3) with freed3 := 0 })

/-- A tag that no unanswered request of the port has, from the next one on: the answer carries ten bits of it (R125, R126). -/
def Port.freeTag (P : Port) : Option Nat :=
  ((List.range 1024).map (fun i => (P.nextTag + i) % 1024)).find? (fun t => P.unanswered.all (fun q => q.tag != t))

/-- Answers owed, then queued requests unless the port holds them, or every tag is out. A write's ticket is acknowledged once its flits
stand in the replay buffer (R100). -/
def State.pumpN (s : State) (p : Nat) : Nat → State
  | 0 => s
  | n + 1 =>
    let P := s.port p
    if !s.canSend p then s
    else match P.owed with
      | (token, status, data) :: l =>
        let tag := ((P.serving.find? (fun e => e.1 == token)).map (·.2)).getD 0
        match P.send (answerPacket tag status data) with
        | some P' => (s.setPort p { P' with owed := l, serving := P'.serving.filter (fun e => e.1 != token) }).pumpN p n
        | none => s
      | [] =>
        match P.queue with
        | [] => s
        | q :: l =>
          match P.freeTag with
          | none => s
          | some tag =>
          let q : PeerPkt := { q with tag := tag }
          if s.holding p then s
          else match P.send q.bytes with
            | none => s
            | some P' =>
              let s := s.setPort p { P' with queue := l, unanswered := P'.unanswered ++ [q], nextTag := (tag + 1) % 1024 }
              (s.ackStamp (.port p) (q.pkt.bind (·.stamp))).pumpN p n

/-- A port that drains sends DRAIN after its last DATA flit: once no answer is left to send through it (R66 step 2). -/
def State.offerDrain (s : State) (p : Nat) : State :=
  let P := s.port p
  if P.reconf = 1 ∧ !P.drained ∧ P.serving.isEmpty ∧ s.canSend p then s.setPort p { P.say .drain with drained := true } else s

def State.pump (s : State) (p : Nat) : State :=
  let s := s.giveAllow p
  (s.pumpN p ((s.port p).owed.length + (s.port p).queue.length)).offerDrain p

/-- A request joins the queue of a port, and gets its tag as it leaves; a port that is DOWN or disabled completes it with PEERUNREACH (R63). -/
def State.enqueuePeer (s : State) (p : Nat) (head : ReqHead) (data : List PByte) (via : Option (Nat × Nat))
    (pkt : Option Packet) : State :=
  let P := s.port p
  let q : PeerPkt := { head := head, data := data, tag := 0, via := via, pkt := pkt }
  if P.down || P.disabled then s.unreach p q
  else (s.setPort p { P with queue := P.queue ++ [q] }).pump p

/-- A request of this wafer reaches its port (R56); R118 names no count for one of an old vintage there. -/
def State.acceptPeer (s : State) (p : Nat) (q : Packet) : State :=
  match q.body with
  | .request h data _ _ _ _ => if s.fresh q then s.enqueuePeer p { h with hops := 0#3 } data none (some q) else s
  | _ => s

/-- The response to a request that entered by port p: the port owes its answer. One of an old vintage is discarded (R118). -/
def State.acceptOwed (s : State) (p : Nat) (q : Packet) : State :=
  match q.body with
  | .response _ status data _ _ token _ _ => if s.fresh q then (s.owe p token status data).pump p else s
  | _ => s

/-! ### Commands that name ports -/

/-- The response of a waiting command that names port p: PORT_RESTART (code 0x21) when the bring-up has ended. -/
def State.restartDone (s : State) (p : Nat) (ok : Bool) : State :=
  let mine := s.host.waiting.filter (fun w => w.2.1 == 0x21 && w.2.2 == [p])
  let H : HostSide := { s.host with waiting := s.host.waiting.filter (fun w => !(w.2.1 == 0x21 && w.2.2 == [p])) }
  mine.foldl (fun s w => s.mailDone w.1 (if ok then 0 else 9)) { s with host := H }

/-- SWITCH_RECONF calls that wait (codes 0x22 and, for the second call, 0x122) are answered once every port they name has its
outcome: FAILED (9) if one failed. Each port's own outcome stands in the response, a byte each. -/
def State.reconfDone (s : State) : State :=
  let done := s.host.waiting.filter (fun w => (w.2.1 == 0x22 || w.2.1 == 0x122) && w.2.2.all (fun p => (s.port p).outcome != 0))
  let H : HostSide := { s.host with waiting := s.host.waiting.filter (fun w => !done.contains w) }
  done.foldl (fun s w =>
    let outs := w.2.2.map (fun p => if (s.port p).outcome = 3 then 9#8 else 0#8)
    let s := s.mailReply w.1 (if outs.contains 9#8 then 9 else 0) outs
    w.2.2.foldl (fun s p => s.modPort p (fun P => { P with outcome := 0 })) s) { s with host := H }

/-! ### The port goes DOWN (R63) -/

/-- A request that waits for a ticket keeps no place in the ingress buffer of a link that is gone. -/
def Port.forgetFlits (P : Port) : Port := { P with entered := P.entered.map (fun e => { e with flits := 0 }) }

/-- The port goes DOWN: what was queued or sent and unanswered completes with PEERUNREACH, and answers owed are dropped. R63 gives no
laser state; the model takes DARK, from which only a bring-up leads (DESIGN CHOICE, log 57). -/
def State.portDown (s : State) (p : Nat) : State :=
  let P := s.port p
  let s := s.modReg0 (offState p) (fun w => setFld (setFld (setFld (setBit w 5 false) 0 2 dark) 2 2 3) 6 4 0)
  let outcome := if P.reconf = 1 ∨ P.reconf = 3 then 3 else P.outcome
  let s := s.setPort p { P.forgetFlits with
    down := true, narrowing := false, training := false, dimming := false, queue := [], unanswered := [], owed := [], serving := [],
    replay := [], ingress := [], reconf := 0, outcome := outcome }
  let s := P.queue.foldl (fun s q => s.unreach p q) s
  let s := P.unanswered.foldl (fun s q => s.settlePeer p q 8 []) s
  ((s.restartDone p false).reconfDone).report 11 p 0 0

/-! ### Wavelengths (R49, R59, R61) -/

/-- Physical wavelength w has failed. -/
def State.wlFailed (s : State) (p w : Nat) : Bool := bit (s.reg0 (offWlmap p)) (4 + w)
def State.spareFor (s : State) (p : Nat) : Nat := fld (s.reg0 (offWlmap p)) 0 4

/-- Logical wavelength w works: its own, or the spare standing in for it. -/
def State.wlWorks (s : State) (p w : Nat) : Bool :=
  !s.wlFailed p w || (s.spareFor p == w && !s.wlFailed p 8)

/-- The whole lanes (R61). -/
def State.laneMask (s : State) (p : Nat) : BitVec 4 :=
  BitVec.ofNat 4 ((List.range 4).foldl (fun m i =>
    if s.wlWorks p (2 * i) && s.wlWorks p (2 * i + 1) then m + 2 ^ i else m) 0)

/-- Width code and active lanes for the lanes whole at both ends. -/
def widthOf (mask : BitVec 4) : Nat × Nat :=
  let whole := (List.range 4).filter (fun i => mask.getLsbD i)
  let lanes := fun (l : List Nat) => l.foldl (fun m i => m + 2 ^ i) 0
  if whole.length = 4 then (0, 15)
  else if 2 ≤ whole.length then (1, lanes (whole.take 2))
  else if whole.length = 1 then (2, lanes whole)
  else (3, 0)

def State.markWl (s : State) (p w : Nat) : State :=
  (s.modReg0 (offWlmap p) (setBit · (4 + w) true)).modReg0 (offHealth p w) (fun h => setFld (setFld h 0 2 3) 2 2 3)

/-- An active lane has lost a wavelength. -/
def State.laneBroken (s : State) (p : Nat) : Bool :=
  let active := BitVec.ofNat 4 (fld (s.reg0 (offState p)) 6 4)
  active &&& s.laneMask p != active

/-- Step 1 of R62: DATA flits stop, NARROW goes out with the whole-lane mask. A failure while the port narrows already begins step 1 anew,
and the far end's mask is awaited again (DESIGN CHOICE, log 64: R62 is silent). -/
def State.narrow (s : State) (p : Nat) : State :=
  s.modPort p (fun P =>
    { P.say (.narrow (s.laneMask p)) with
      narrowing := true, myMask := s.laneMask p, farMask := none, resumed := false, farResumed := false, training := false })

/-- The spare takes over data wavelength w: DATA flits stop while the lane retrains (R59). -/
def State.useSpare (s : State) (p w : Nat) : State :=
  let s := (s.modReg0 (offWlmap p) (setFld · 0 4 w)).modReg0 (offHealth p 8) (setFld · 2 2 2)
  s.modPort p (fun P => { P with training := true })

/-- The response of R59 to marked failures: `data` wavelengths that failed together, and the spare. One data wavelength takes the spare
while it is idle and sound; every other failure narrows the port, but that of an idle spare. While the port narrows, a further failure
narrows it anew, whatever the spare does (DESIGN CHOICE, log 64). -/
def State.respond (s : State) (p : Nat) (data : List Nat) (spare : Bool) : State :=
  let carrying := s.spareFor p != 15
  match data with
  | [] => if spare && carrying then s.narrow p else s
  | [w] => if carrying || s.wlFailed p 8 || (s.port p).narrowing then s.narrow p else s.useSpare p w
  | _ => s.narrow p

/-- The wavelengths of a set that have not failed before. -/
def State.newlyFailed (s : State) (p : Nat) (ws : BitVec 9) : List Nat :=
  (List.range 9).filter (fun w => ws.getLsbD w && !s.wlFailed p w)

/-- Wavelengths fail within one update: R59 in BLOOM; in BUD they are marked, and R59 applies on the return to BLOOM (R65). -/
def State.failWls (s : State) (p : Nat) (ws : BitVec 9) : State :=
  let l := s.newlyFailed p ws
  let marked := l.foldl (fun (q : State) w => q.markWl p w) s
  if s.laser p = bloom then marked.respond p (l.filter (· < 8)) (l.contains 8)
  else if s.laser p = bud then
    marked.modPort p (fun P => { P with lostInBud := P.lostInBud ||| BitVec.ofNat 9 (l.foldl (fun n w => n + 2 ^ w) 0) })
  else s

/-- WAVELENGTH_FAIL: wavelength w loses lock for a flit time, and `also` are those that fail in the same 10 µs update (R59, R430). -/
def execWavelengthFail (p : BitVec 7) (w : BitVec 4) (also : BitVec 9) (s : State) : Res :=
  onPort p fun n => .next (s.failWls n (also ||| 1#9 <<< w.toNat))

/-- One sample of a wavelength. A failed one stays FAILED; `ber` is measured in BLOOM only (R58). -/
def State.sampleWl (s : State) (p w : Nat) (x : WlSample) : State :=
  s.modReg0 (offHealth p w) (fun h =>
    let h := setFld (setFld h 4 10 x.heater.toNat) 14 10 x.rxpwr.toNat
    let h := incFld (setFld h 32 8 x.eye.toNat) 40 24 x.csym.toNat
    let h := if s.wlFailed p w then h else setFld h 0 2 x.lock.toNat
    if s.laser p = bloom then setFld h 24 8 x.ber.toNat else h)

/-- Samples in a row with ber below ber_min, this one among them. -/
def State.lowRun (s : State) (p w : Nat) (x : WlSample) : Nat :=
  if s.laser p = bloom ∧ x.ber.toNat < fld (s.reg0 (offPolicy p)) 40 8 then mget 0 (s.port p).lowBer w + 1 else 0

/-- A failure condition of R59 holds at this sample: the lock has left LOCKED; ber has stayed low from a sample 100 µs ago on; or every
DATA flit of the lane was uncorrectable for the 10 µs. -/
def State.wlDue (s : State) (p w : Nat) (x : WlSample) : Bool :=
  (fld (s.reg0 (offHealth p w)) 0 2 == 2 && x.lock != 2#2) || decide (10 < s.lowRun p w x) || (x.dead && s.laser p == bloom)

/-- Every wavelength of a port is sampled, and those that have failed are answered together (R58, R59). -/
def State.samplePort (s : State) (p : Nat) (l : List WlSample) : State :=
  let ws := (List.range 9).filterMap (fun w => (l[w]?).map (fun x => (w, x)))
  let due := ws.foldl (fun v e => if s.wlDue p e.1 e.2 then v + 2 ^ e.1 else v) 0
  let runs := ws.foldl (fun m e => mset 0 m e.1 (s.lowRun p e.1 e.2)) (s.port p).lowBer
  let s' := ws.foldl (fun (q : State) e => q.sampleWl p e.1 e.2) (s.modPort p (fun P => { P with lowBer := runs }))
  s'.failWls p (BitVec.ofNat 9 due)

/-! ### Receiving (R52, R53) -/

/-- Entries up to sequence number `a` leave the replay buffer, and last_ack shows it. A number that is not there acknowledges nothing
new. -/
def State.ackedTo (s : State) (p : Nat) (a : BitVec 13) : State :=
  match (s.port p).replay.findIdx? (fun d => d.seq == a) with
  | some i => (s.modPort p (fun P => { P with replay := P.replay.drop (i + 1) })).modReg0 (offState p) (setFld · 18 13 a.toNat)
  | none => s

/-- An uncorrectable flit, or a gap: NAK the last good number. The flits that follow a gap are discarded without a further NAK until the
missing one comes; each uncorrectable one has its own (R52). No NAK is sent while lanes change, and a lane that has lost a wavelength
narrows the port instead (R430). -/
def State.missed (s : State) (p : Nat) (gap : Bool) : State :=
  let P := s.port p
  if P.narrowing || P.training || (gap && P.nakked) then s
  else if s.laneBroken p then s.narrow p
  else s.setPort p { P.say (.nak P.ack) with nakked := true }

/-- A DRAIN arrives: a reconfiguration notes it (R66); a port that dims takes it as the acknowledgement of its own, and goes to BUD (R65);
any other port answers with a DRAIN (DESIGN CHOICE, log 57). -/
def State.drainCame (s : State) (p : Nat) : State :=
  let P := s.port p
  if P.reconf = 1 then s.setPort p { P with farDrain := true }
  else if P.dimming then (s.setPort p { P with dimming := false }).setLaser p bud
  else s.setPort p (P.say .drain)

/-- LINK_FLIT_RECEIVE: a DATA flit in sequence enters the ingress buffer, one delivered before is dropped, and a gap is reported. The contents
of the other control flits have events of their own. -/
def execLinkFlitReceive (p : BitVec 7) (flit : LinkFlit) (s : State) : Res :=
  onPort p fun n =>
    if (s.port n).down then .next s
    else if flitBad flit then .next (s.missed n false)
    else
      let s := s.ackedTo n flit.ack
      let P := s.port n
      if flit.kind = 3#3 then .next ((s.drainCame n).pump n)
      else if flit.kind ≠ 0#3 then .next (s.pump n)
      else if flit.seq = P.rxNext then
        let d : DataFlit := { seq := flit.seq, cls := flit.cls, last := flit.last, payload := flit.payload, poison := flit.poison }
        .next ((s.setPort n { P with rxNext := P.rxNext + 1#13, nakked := false, ingress := P.ingress ++ [d] }).pump n)
      else if (P.rxNext - flit.seq).toNat ≤ 4096 then .next s
      else .next (s.missed n true)

/-- NAK_RECEIVE: what follows the named number is sent again, at once unless lanes change; such a resend counts one in OPT_LINK.replays
(DEDUCED, log 57). -/
def execNakReceive (p : BitVec 7) (q : BitVec 13) (s : State) : Res :=
  onPort p fun n =>
    let s := s.ackedTo n q
    if !s.canSend n || (s.port n).replay.isEmpty then .next s
    else .next ((s.modPort n Port.resendAll).modReg0 (offOptLink n) (incFld · 0 16 1))

def execIdleSend (p : BitVec 7) (s : State) : Res := onPort p fun n => .next (s.modPort n (·.say .idle))

/-- ALLOW_RECEIVE: units come back, up to the full 2,048 (R53). -/
def execAllowReceive (p : BitVec 7) (cls : BitVec 2) (units : BitVec 13) (s : State) : Res :=
  onPort p fun n =>
    let s := s.modPort n (fun P =>
      if cls = 2#2 then { P with allow2 := sat (P.allow2 + units.toNat) 2048 }
      else if cls = 3#2 then { P with allow3 := sat (P.allow3 + units.toNat) 2048 } else P)
    .next (s.pump n)

/-! ### Narrowing (R62, R63) -/

/-- Steps 4 and 5: what the far end has not acknowledged is sent again, uncounted (R430), and normal flow resumes. -/
def State.resumeFlow (s : State) (p : Nat) : State :=
  (s.modPort p (fun P =>
    { P.resendAll with narrowing := false, training := false, farMask := none, resumed := false, farResumed := false, nakked := false })).pump p

/-- NARROW_RECEIVE: the answer to this end's NARROW, or the far end's own, which this end answers; the width is computed (R61), and a width
of DOWN takes the port down (R63). Only a reduction counts in OPT_LINK.narrows. -/
def execNarrowReceive (p : BitVec 7) (mask : BitVec 4) (s : State) : Res :=
  onPort p fun n =>
    let P := s.port n
    if P.down then .next s
    else
      let s := if P.narrowing && P.farMask.isNone then s else s.narrow n
      let s := s.modPort n (fun P => { P with farMask := some mask })
      let w := widthOf ((s.port n).myMask &&& mask)
      if w.1 = 3 then .next (s.portDown n)
      else
        let old := s.width n
        let s := s.modReg0 (offState n) (fun v => setFld (setFld v 2 2 w.1) 6 4 w.2)
        .next (if old < w.1 then s.modReg0 (offOptLink n) (incFld · 16 8 1) else s)

/-- NARROW_RESTRIPED: the lanes are restriped, or the spare's lane is retrained, and this end sends RESUME with its ack. A narrowing goes on
until the far end's RESUME has come; after a replacement the port resends and restarts (R59, R62). -/
def execNarrowRestriped (p : BitVec 7) (s : State) : Res :=
  onPort p fun n =>
    let P := s.port n
    if P.narrowing then
      if P.farMask.isNone || P.resumed then .next s
      else
        let s := s.setPort n { P.say .resume with resumed := true }
        .next (if P.farResumed then s.resumeFlow n else s)
    else if P.training then .next ((s.setPort n (P.say .resume)).resumeFlow n)
    else .next s

/-- RESUME_RECEIVE: its ack frees the replay buffer. In a narrowing, flow resumes once this end has sent its own RESUME; while the spare's
lane retrains here, at its end; otherwise the far end has replaced a wavelength, and the rest is sent again at once. -/
def execResumeReceive (p : BitVec 7) (ack : BitVec 13) (s : State) : Res :=
  onPort p fun n =>
    let s := s.ackedTo n ack
    let P := s.port n
    if P.narrowing && !P.resumed then .next (s.setPort n { P with farResumed := true })
    else if P.training then .next s
    else .next (s.resumeFlow n)

/-- NARROW_TIMEOUT: no NARROW answer within 1 ms (R63). -/
def execNarrowTimeout (p : BitVec 7) (s : State) : Res :=
  onPort p fun n => .next (if (s.port n).narrowing && (s.port n).farMask.isNone then s.portDown n else s)

/-! ### Laser states (R64, R65) -/

/-- The wavelengths lost in BUD meet R59, together. -/
def State.answerLost (s : State) (p : Nat) (ws : BitVec 9) : State :=
  s.respond p ((List.range 8).filter (fun w => ws.getLsbD w)) (ws.getLsbD 8)

/-- The return to BLOOM. -/
def State.toBloom (s : State) (p : Nat) : State :=
  let ws := (s.port p).lostInBud
  (((s.setLaser p bloom).modPort p (fun P => { P with lostInBud := 0 })).answerLost p ws).pump p

def State.policyWin (s : State) (p : Nat) : Nat := max 1 (fld (s.reg0 (offPolicy p)) 16 8)

/-- LASER_WINDOW: the use of the last 100 µs, in percent of the payload rate. An idle port sends DRAIN, and dims when its acknowledgement
comes. -/
def execLaserWindow (p : BitVec 7) (pct : BitVec 8) (s : State) : Res :=
  onPort p fun n =>
    let pol := s.reg0 (offPolicy n)
    let P := s.port n
    if s.laser n = bloom ∧ !s.holding n then
      let below := if pct.toNat < fld pol 0 8 then P.below + 1 else 0
      if s.policyWin n ≤ below ∧ P.replay.isEmpty ∧ P.queue.isEmpty ∧ P.owed.isEmpty ∧ !P.dimming then
        .next (s.setPort n { P.say .drain with below := 0, above := 0, dimming := true })
      else .next (s.setPort n { P with below := below, above := 0 })
    else if s.laser n = bud ∧ !s.holding n then
      let above := if fld pol 8 8 < pct.toNat then P.above + 1 else 0
      if s.policyWin n ≤ above then .next ((s.setPort n { P with below := 0, above := 0 }).toBloom n)
      else .next (s.setPort n { P with below := 0, above := above })
    else .next s

/-- PORT_DARK_TIMEOUT: idle in BUD for dark_ms, which 0 disables. -/
def execPortDarkTimeout (p : BitVec 7) (s : State) : Res :=
  onPort p fun n =>
    let P := s.port n
    if s.laser n = bud ∧ !s.holding n ∧ P.queue.isEmpty ∧ P.owed.isEmpty ∧ fld (s.reg0 (offPolicy n)) 24 16 ≠ 0 then
      .next (s.setLaser n dark)
    else .next s

/-- A bring-up begins: every ring heater is swept from the port record's start code (R60 step 2). -/
def State.beginBringup (s : State) (p : Nat) : State :=
  (List.range 9).foldl (fun (q : State) w => q.modReg0 (offHealth p w) (fun h => setFld (setFld h 0 2 1) 4 10 (s.port p).heater0.toNat))
    (s.setLaser p changing)

/-- The port has a packet to send: an answer, or a request that it does not hold. -/
def State.portBusy (s : State) (p : Nat) : Bool := !(s.port p).owed.isEmpty || (!(s.port p).queue.isEmpty && !s.holding p)

/-- PORT_WAKE: a packet queued for the port brings BUD to BLOOM, and starts the bring-up of a DARK port; not in the dark interval of a
reconfiguration, in which the lasers stay in BUD (R66 step 3). -/
def execPortWake (p : BitVec 7) (s : State) : Res :=
  onPort p fun n =>
    let P := s.port n
    if !s.portBusy n || P.down || P.disabled || decide (2 ≤ P.reconf) then .next s
    else if s.laser n = bud then .next (s.toBloom n)
    else if s.laser n = dark then .next (s.beginBringup n)
    else .next s

/-! ### Bring-up (R60) -/

/-- The link starts: sequence numbers 0, allowances full, rate, the far end's id; the laser is in BLOOM. -/
def State.startLink (s : State) (p far : Nat) (slow : Bool) : State :=
  let s := s.modPort p (fun P => { P.forgetFlits with
    txSeq := 0, rxNext := 0, replay := [], ingress := [], freed2 := 0, freed3 := 0, nakked := false, allow2 := 2048, allow3 := 2048,
    down := false, narrowing := false, training := false, farMask := none, resumed := false, farResumed := false, lostInBud := 0,
    lowBer := [], dimming := false, drained := false, farDrain := false })
  s.modReg0 (offState p) (fun w =>
    let w := setFld (setFld w 0 2 bloom) 10 8 far
    setFld (setBit w 4 ((s.port p).slow || slow)) 18 13 0)

/-- Steps 2 to 4: the wavelengths that fail, those of the port record among them, and the spare. -/
def State.trainWls (s : State) (p : Nat) (bad : BitVec 9) : State :=
  let bad := bad ||| (s.port p).wlBad
  let lowest := (List.range 8).find? (fun w => bad.getLsbD w)
  let spare := match lowest with
    | some w => if bad.getLsbD 8 then 15 else w
    | none => 15
  let s := s.modReg0 (offWlmap p) (fun w => setFld (setFld w 0 4 spare) 4 9 bad.toNat)
  (List.range 9).foldl (fun s w =>
    s.modReg0 (offHealth p w) (fun h =>
      let role := if bad.getLsbD w then 3 else if w = 8 then (if spare = 15 then 1 else 2) else 0
      setFld (setFld h 0 2 (if bad.getLsbD w then 3 else 2)) 2 2 role)) s

/-- BRINGUP_DONE. With no width both ends share, or when the bring-up fails, the port goes DOWN and its queued requests
complete with PEERUNREACH (R63, R65). -/
def execBringupDone (p : BitVec 7) (ok : Bool) (far : BitVec 8) (farSlow : Bool) (bad : BitVec 9) (farMask : BitVec 4)
    (s : State) : Res :=
  onPort p fun n =>
    if s.laser n ≠ changing then .next s
    else
      let s := s.trainWls n bad
      let w := widthOf (s.laneMask n &&& farMask)
      if !ok ∨ w.1 = 3 then .next (s.portDown n)
      else
        let s := (s.startLink n far.toNat farSlow).modReg0 (offState n) (fun v => setFld (setFld v 2 2 w.1) 6 4 w.2)
        .next ((s.restartDone n true).pump n)

/-! ### Requests of peers (R54, R56, R124, R431, R433) -/

/-- An op that writes or does an atomic: WRITE, RED, ATOM, FWRITE, FATOM (R125). -/
def opWrites (op : Nat) : Bool := op == 1 || op == 2 || op == 3 || op == 6 || op == 7

/-- The address a peer's offset names, through its window; or the status that refuses it (R124). -/
def State.peerWindow (s : State) (off op : Nat) : Sum Nat Nat :=
  let w := s.reg0 (offPeerwin (off / 2 ^ 36 % 64))
  let owner := fld w 2 6
  if !bit w 0 || decide (60 ≤ owner) || (opWrites op && !bit w 1) then .inl 2
  else .inr (owner * 2 ^ 50 + (fld w 8 14 * 2 ^ 36 + off % 2 ^ 36) % 2 ^ 50)

/-- The cellar port of an address whose owner is a stack or a defined set. -/
def State.portOf (s : State) (va : Nat) : Option Nat :=
  let o := ownerOf va
  let ms := s.membersOf o
  if o < 48 then some o else if ms.isEmpty then none else some (setMember ms (va % 2 ^ 50))

/-- A request from an agent that is no tile enters the fabric towards a cellar port: writes are stamped by the agent, reads
carry its pending entry (R54, R99, R153). False while a write has no ticket. -/
def State.enterRequest (s : State) (a dst : Agent) (head : ReqHead) (data : List PByte) (token : Nat) : State × Bool :=
  let body := Body.request head data 0 token 0 0
  if opWrites head.op.toNat then
    match s.stampAgent a with
    | (s, none) => (s, false)
    | (s, some st) => (s.inject (s.agentPacket a dst 2 (some st) body), true)
  else (s.inject (s.agentPacket a dst 2 (some (s.readStamp a)) body), true)

/-- Flits leave the ingress buffer. -/
def Port.free (P : Port) (cls : BitVec 2) (n : Nat) : Port :=
  if cls = 2#2 then { P with freed2 := P.freed2 + n } else { P with freed3 := P.freed3 + n }

/-- Serve a request addressed to this wafer; a write without a ticket waits in the port. -/
def State.servePeer (s : State) (p : Nat) (e : Entered) : State :=
  let done := fun (s : State) => s.modPort p (·.free e.cls e.flits)
  match s.peerWindow (e.head.va.toNat % 2 ^ 42) e.head.op.toNat with
  | .inl st => (done s).owe p e.token st []
  | .inr va =>
    match s.portOf va with
    | none => (done s).owe p e.token 3 []
    | some k =>
      let head := { e.head with va := BitVec.ofNat 56 va, tix := 0x3FFF#14, merge := false }
      match s.enterRequest (.port p) (.cellar k) head e.data e.token with
      | (s', true) => done s'
      | (s', false) => s'.modPort p (fun P => { P with entered := P.entered ++ [e] })

/-- A request passes no earlier one that waits (R54). -/
def State.admitPeer (s : State) (p : Nat) (e : Entered) : State :=
  if (s.port p).entered.isEmpty then s.servePeer p e else s.modPort p (fun P => { P with entered := P.entered ++ [e] })

/-- Requests that waited in the port for a ticket enter, in order. -/
def State.enterWaiting (s : State) (p : Nat) : State :=
  ((s.port p).entered.foldl (fun s e => s.admitPeer p e) (s.modPort p (fun P => { P with entered := [] }))).pump p

/-- The first whole packet of a class in the ingress buffer; packets of one class leave it in the order of their flits (R54). -/
def Port.packetOf (P : Port) (cls : BitVec 2) : Option (List DataFlit) :=
  let l := P.ingress.filter (fun d => d.cls == cls)
  (l.findIdx? (fun d => d.last)).map (fun i => l.take (i + 1))

/-- The next packet of a class that carries packets, and the port without it. Which of the classes 2 and 3 is served next is the
event's operand; and whether the packet is a request or an answer, which no field of it tells, is the event itself (DESIGN CHOICE, log 64:
R51, R125 and R126 give no mark on the link). -/
def Port.takePacket (P : Port) (cls : BitVec 2) : Option (List DataFlit × Port) :=
  if cls = 2#2 ∨ cls = 3#2 then (P.packetOf cls).map (fun l => (l, { P with ingress := P.ingress.filter (fun d => !l.contains d) }))
  else none

/-- PEER_REQUEST_ARRIVAL: the next packet of a class in the ingress buffer is a request. It is served here, forwarded with the next hop count, or
answered PEERUNREACH (R56, R433); the port records by which tag its answer goes back (R431), but for a request that it had not served when
its drain timed out: an answer to that one is discarded (R66). -/
def execPeerRequestArrival (p : BitVec 7) (cls : BitVec 2) (s : State) : Res :=
  onPort p fun n =>
    match (s.port n).takePacket cls with
    | none => .next s
    | some (l, P) =>
      let bytes := l.flatMap DataFlit.bytes
      let head := headOf (leNat (bytes.take 16))
      let data := (bytes.drop 16).take (requestBytes head)
      let token := P.nextToken
      let serving := if 2 ≤ P.reconf then P.serving else P.serving ++ [(token, head.tag.toNat)]
      let s := s.setPort n { P with serving := serving, nextToken := token + 1 }
      let id := head.va.toNat / 2 ^ 42 % 256
      if id = fld (s.reg0 offSelf) 0 8 then
        .next ((s.admitPeer n { head := head, data := data, token := token, cls := cls, flits := l.length }).pump n)
      else
        let s := s.modPort n (·.free cls l.length)
        match (if head.hops = 7#3 then none else s.peerPort id) with
        | none => .next ((s.owe n token 8 []).pump n)
        | some q => .next ((s.enqueuePeer q { head with hops := head.hops + 1#3 } data (some (n, token)) none).pump n)

/-- PEER_ANSWER_RETURN: the next packet of a class in the ingress buffer is the answer with this tag and status. It goes to the requester
or back along the recorded port (R431). -/
def execPeerAnswerReturn (p : BitVec 7) (cls : BitVec 2) (tag : BitVec 10) (status : BitVec 4) (s : State) : Res :=
  onPort p fun n =>
    match (s.port n).takePacket cls with
    | none => .next s
    | some (l, P) =>
      let bytes := l.flatMap DataFlit.bytes
      let w := leNat (bytes.take 4)
      let mine := fun (q : PeerPkt) => q.tag == tag.toNat
      if w % 1024 ≠ tag.toNat ∨ w / 1024 % 16 ≠ status.toNat then .next s
      else
        let s := s.setPort n (P.free cls l.length)
        match P.unanswered.find? mine with
        | none => .next (s.pump n)
        | some q =>
          let s := s.modPort n (fun P => { P with unanswered := eraseFirst mine P.unanswered })
          let s := (s.settlePeer n q status.toNat ((bytes.drop 4).take (answerBytes q.head))).pump n
          .next (match q.via with | some (v, _) => s.pump v | none => s)

/-! ### Switch reconfiguration (R66, R67, R432) -/

/-- The port is ready for the switch move: lasers in BUD, allowances at full (R66 step 3). The lasers of a port that was DARK go to BUD too
(DESIGN CHOICE, log 64: R66 is silent on it). -/
def State.reconfReady (s : State) (p : Nat) : State :=
  ((s.modPort p (fun P => { P with reconf := 2, outcome := 1, allow2 := 2048, allow3 := 2048, replay := [] })).setLaser p bud).reconfDone

/-- Step 2 of R66 has ended: DRAIN sent and the far end's received, every flit acknowledged, every allowance back, every request that left
answered, every answer owed sent, and no lane changing. A port whose lasers were down has no DATA flit under way and exchanges no DRAIN
(DESIGN CHOICE, log 57). -/
def State.reconfOver (s : State) (p : Nat) : Bool :=
  let P := s.port p
  (s.laser p != bloom || (P.drained && P.farDrain && P.allow2 == 2048 && P.allow3 == 2048)) &&
    P.replay.isEmpty && P.unanswered.isEmpty && P.serving.isEmpty && P.ingress.isEmpty && !P.narrowing && !P.training

/-- RECONF_DRAINED: the port reports ready once step 2 has ended. -/
def execReconfDrained (p : BitVec 7) (s : State) : Res :=
  onPort p fun n => .next (if (s.port n).reconf = 1 ∧ s.reconfOver n then s.reconfReady n else s)

/-- RECONF_DRAIN_TIMEOUT: what is unanswered completes with PEERUNREACH, answers owed are discarded (R66). -/
def execReconfDrainTimeout (p : BitVec 7) (s : State) : Res :=
  onPort p fun n =>
    let P := s.port n
    if P.reconf = 1 then
      let s := s.setPort n { P.forgetFlits with unanswered := [], owed := [], serving := [] }
      .next ((P.unanswered.foldl (fun s q => s.settlePeer n q 8 []) s).reconfReady n)
    else .next s

/-- Write the new peer table (R66 step 5). -/
def State.writePeers (s : State) (l : List (Nat × W64)) : State :=
  l.foldl (fun s e => s.setReg0 (offPeer e.1) (w64 (fld e.2 0 8))) s

/-- hold clears: held packets go to their new ports, and one without a valid entry completes with PEERUNREACH (R66, R67). -/
def State.releaseHeld (s : State) (p : Nat) : State :=
  let held := (s.port p).queue
  let s := (s.modPort p (fun P => { P with queue := [] })).modReg0 (offState p) (setBit · 5 false)
  held.foldl (fun s q =>
    match s.peerPort (q.head.va.toNat / 2 ^ 42 % 256) with
    | some v => s.enqueuePeer v q.head q.data q.via q.pkt
    | none => s.unreach p q) s

/-- The width after a relock: as it was, which R66 step 4 leaves alone; a port that had none, since it was DARK, takes that of its own whole
lanes (DESIGN CHOICE, log 64: step 4 runs R60 step 5 only). -/
def State.relockWidth (s : State) (p : Nat) : State :=
  if s.width p = 3 then let w := widthOf (s.laneMask p); s.modReg0 (offState p) (fun v => setFld (setFld v 2 2 w.1) 6 4 w.2) else s

/-- RECONF_RELOCK: light returns, the link starts with the new peer (R66 steps 4 and 5); the return to BLOOM answers what was lost in BUD
(R65). -/
def execReconfRelock (p : BitVec 7) (far : BitVec 8) (farSlow : Bool) (s : State) : Res :=
  onPort p fun n =>
    if (s.port n).reconf ≠ 3 then .next s
    else
      let ws := (s.port n).lostInBud
      let s := ((s.startLink n far.toNat farSlow).relockWidth n).writePeers s.host.peerTable
      let s := s.modPort n (fun P => { P with reconf := 0, outcome := 2 })
      .next ((s.answerLost n ws).releaseHeld n).reconfDone

/-- LIGHT_TIMEOUT: FAILED, and the port goes DOWN (R432). -/
def execLightTimeout (p : BitVec 7) (s : State) : Res :=
  onPort p fun n => .next (if (s.port n).reconf = 3 then s.portDown n else s)

/-- HELD_PACKET_TIMEOUT: held packets still waiting 100 ms after hold complete with PEERUNREACH (R67). -/
def execHeldPacketTimeout (p : BitVec 7) (s : State) : Res :=
  onPort p fun n =>
    if s.holding n then
      let held := (s.port n).queue
      .next (held.foldl (fun s q => s.unreach n q) (s.modPort n (fun P => { P with queue := [] })))
    else .next s

end Sys2Proof.Machine
end

