-- ==== Sys2Proof/Machine/Arrive.lean ====
section
/-! DEFINITION. ROUTER_FORWARD (R68, R69, R74 to R76, R79, R108), with what a PCIe path and an optical port do with a packet
that reaches them, and BLOCK_ISSUE (R97) with the writes that waited for its tickets (R54, R153). -/

namespace Sys2Proof.Machine

open Host Sys2Proof

/-- The packet at place j has reached its ejection port: PCIe paths and optical ports take it at once; tiles, cellar ports
and the control-space interface have events of their own. -/
def State.reach (s : State) (j : Nat) (q : Packet) : State :=
  match q.dst with
  | .pcie n => if q.isRequest then (s.dropNet j).acceptHost n q else (s.dropNet j).acceptReply n q
  | .port p => if q.isRequest then (s.dropNet j).acceptPeer p q else (s.dropNet j).acceptOwed p q
  | _ => s.advance j q

/-- The PCIe path that the packet has reached has no room for its request. -/
def State.refusesAt (s : State) (q : Packet) : Bool :=
  match q.dst with
  | .pcie n => s.hostFull n q
  | _ => false

/-- ROUTER_FORWARD: the packet at place j, the first of its buffer, moves by one router when the buffer there has credit, is merged with
another XRED, or is discarded as malformed and counted as a link error. The router of a tile that a graft has stopped accepts no head of
classes 1 to 3, from its links or from its tile port. Which packet of which class and input moves next is the order of the schedule: R72 shares out the cycles of a link
(log 58). -/
def execRouterForward (j : Nat) (s : State) : Res :=
  match s.net[j]? with
  | none => .next s
  | some p =>
    if p.arrived || s.behind j p then .next s
    else if p.malformed then
      match p.inDir, s.tileOn (s.standsAt p) with
      | some l, some t => .next ((s.dropNet j).linkUncorrectable t l)
      | _, _ => .next (s.dropNet j)
    else
      match (if s.strikes 963 then s.partner j p else none) with
      | some (i, q) => .next { s with net := (s.net.set j (mergePackets p q)).eraseIdx i }
      | none =>
        match s.forward p with
        | none => .next s
        | some (q, at_) =>
          let stopped := fun (n : Nat) => ((s.tileOn n).map s.grafting).getD false
          if 1 ≤ p.cls && ((s.standsAt q != s.standsAt p && stopped (s.standsAt q)) || (p.inDir.isNone && stopped (s.standsAt p))) then .next s
          else if q.arrived then .next (if s.refusesAt q then s else s.reach j q)
          else if s.hasCredit j q then .next (s.enterRouter j q at_) else .next s

/-! ### BAR 4 accesses enter (R153) -/

/-- Enter one BAR 4 access of link n, or hold it for want of a ticket. -/
def State.startBar4 (s : State) (n : Nat) (b : Bar4) : State :=
  match s.enterRequest (.pcie n) b.dst b.head b.data (b.kind + 4 * b.tag) with
  | (s', true) => s'
  | (s', false) => { s' with host := { s'.host with bar4 := s'.host.bar4 ++ [(n, b)] } }

/-- A BAR 4 access of link n passes no earlier one that waits. -/
def State.addBar4 (s : State) (n : Nat) (b : Bar4) : State :=
  if s.host.bar4.any (fun e => e.1 == n) then { s with host := { s.host with bar4 := s.host.bar4 ++ [(n, b)] } }
  else s.startBar4 n b

/-- The waiting accesses of link n, tried again in order. -/
def State.enterBar4 (s : State) (n : Nat) : State :=
  let mine := s.host.bar4.filter (fun e => e.1 == n)
  let rest := s.host.bar4.filter (fun e => e.1 != n)
  mine.foldl (fun s e => s.addBar4 n e.2) { s with host := { s.host with bar4 := rest } }

/-! ### BLOCK_ISSUE -/

/-- BLOCK_ISSUE: the oldest request gets 64 tickets, or the block is withheld and wstall is set (R97). -/
def execBlockIssue (f : BitVec 6) (s : State) : Res :=
  let n := f.toNat
  let F := s.field n
  match F.blockQ with
  | [] => .next s
  | a :: l =>
    if 32767 < (F.next + 63#16 - F.stable).toNat then .next (s.modReg0 (offCau n) (setBit · 33 true))
    else
      let s := s.setField n { F with blockQ := l, next := F.next + 64#16, blocks := F.blocks ++ [(a, F.next)] }
      let s := (s.modReg0 (offCau n) (setBit · 33 false)).grantBlock n a F.next
      match a with
      | .tile t => .next (s.drain t)
      | .port p => .next (s.enterWaiting p)
      | .pcie k => .next (s.enterBar4 k)
      | _ => .next s

end Sys2Proof.Machine
end

