-- ==== Sys2Proof/Machine/MatEvents.lean ====
section
/-! DEFINITION. The steps of the matrix unit: the start, the rows and the end of an array operation, and the end of
an MLDB (R251 to R267, R380 to R396, R426). -/

namespace Sys2Proof.Machine

open Host Sys2Proof

/-! ### The operation that runs -/

/-- The owner of the paused nest. -/
def Tile.pausedOwner (T : Tile) : Option Nat := (T.aq.find? T.isPaused).map (·.ctx)

/-- The operation whose turn is next (R265, R267, R380). -/
def Tile.nextOp (T : Tile) : Option MatOp :=
  match T.pausedOwner with
  | none => T.aq.find? (fun o => !o.begun)
  | some x => T.aq.find? (fun o => !o.begun && o.kind != 3 && o.ctx != x)

/-- Replace the operation of the queue at place `seq`. -/
def Tile.putOp (T : Tile) (o : MatOp) : Tile := { T with aq := mapFirst (fun e => e.seq == o.seq) (fun _ => o) T.aq }
def Tile.dropOp (T : Tile) (seq : Nat) : Tile := { T with aq := eraseFirst (fun e => e.seq == seq) T.aq }

/-- Σ ij × f j of a nest's present iteration. -/
def NestRun.along (n : NestRun) (f : Nat → Int) : Int := levelSum (fun j => (n.idx.getD j 0 : Int) * f j)

/-- The present iteration of a nest as an operation of kind 0 or 1 (R393); other operations stand as they are. -/
def Tile.iteration (T : Tile) (o : MatOp) : MatOp :=
  if o.kind ≠ 3 then o
  else
    let n := T.nest o.slot
    let w1 := T.nw o.slot 1
    let segs := T.nestSegs o.slot
    let td := ((fld w1 26 3 : Int) + n.along (T.nestTinc o.slot)) % 8
    let addr := (capAddr n.cap : Int) + sext (fld (T.nw o.slot 2) 0 32) 32 + n.along (T.nestStride o.slot)
    let zero := bit w1 13 && (List.range (fld w1 14 3 + 1)).all (fun j => n.idx.getD j 0 == 0)
    let o₁ := { o with kind := (T.nestMmas o.slot).toNat, td := td.toNat, addr := addr.toNat, fmt := T.nestFmt o.slot }
    let o₂ := { o₁ with rows := T.nestRows o.slot, segs := segs, z := zero, fl := bit w1 17, level := fld w1 18 2 }
    { o₂ with tds := targets (T.nestMmas o.slot) td.toNat segs }

/-- An MMAS iteration whose target + S − 1 exceeds 7 (R393). -/
def Tile.overflows (T : Tile) (o : MatOp) : Bool :=
  o.kind == 3 && T.nestMmas o.slot && decide (7 < (T.iteration o).td + (T.iteration o).segs - 1)

/-- The nest ends: DONE, its places in the queue and in the order of emission and its registers' in-flight bits free (R393). -/
def Tile.endNest (T : Tile) (o : MatOp) : Tile :=
  ({ T with pauseReq := false, emitq := eraseFirst (fun e => e.nest == some o.slot) T.emitq }.dropOp o.seq).setNestState o.slot 3

/-- The nest stops before an iteration: XERR names the iteration's number modulo 2^32. -/
def Tile.stopNest (T : Tile) (o : MatOp) : Tile :=
  let n := T.nest o.slot
  let info := w64 (o.slot + n.iter % 2 ^ 32 * 16 + 2 * 2 ^ 40)
  let n' : NestRun := { n with pend := n.pend ++ [⟨0x0D#8, info, 0⟩] }
  (T.setNest o.slot n').endNest o

/-! ### Fidelity runs (R263) -/

/-- The run is updated; a promotion of a direct-issue run that has ended is raised at the next packet boundary (R264). -/
def Tile.setRun (T : Tile) (o : MatOp) (r : FidRun) : Tile :=
  let r : FidRun := if r.pend = (T.runOf o).pend then r else { r with pseq := o.seq }
  if o.kind = 3 then
    let n : NestRun := { T.nest o.slot with run := r }
    T.setNest o.slot n
  else
    T.modCtx o.ctx (fun c =>
      if o.gen = c.runNo then { c with run := r }
      else
        let pend := if r.pend = 0 then c.boundPend else addFidelity r.pend.toNat 0 1 r.pseq c.boundPend
        let r' : FidRun := { r with pend := 0 }
        { c with oldRuns := mput c.oldRuns o.gen r', boundPend := pend })

/-- Column-segments of a period. -/
def periodOf (rate : Nat) : Nat := if rate = 0 then 2 ^ 20 else if rate = 1 then 2 ^ 26 else 2 ^ 33

/-- One column-segment: the period's count, and the detected errors `errs` of slices; the fifth of a period promotes
the slice (R263). -/
def FidRun.column (r : FidRun) (errs : List Nat) : FidRun :=
  let step := fun (r : FidRun) (s : Nat) =>
    let e := r.err.getD s 0 + 1
    let r : FidRun := { r with err := setAt r.err s e }
    if e = 5 && !r.promo.getLsbD s then
      { r with promo := r.promo ||| BitVec.ofNat 3 (2 ^ s), pend := r.pend ||| BitVec.ofNat 3 (2 ^ s) }
    else r
  let r := errs.foldl step { r with cseg := r.cseg + 1 }
  if r.cseg = periodOf r.rate then { r with cseg := 0, err := [0, 0, 0] } else r

/-- The slices of an operation that are on their reduced rails: below its level, not promoted in its run, and not
promoted for a rail fault of the field (R197, R260, R263). -/
def lowSlices (level : Nat) (promo fault : BitVec 3) : List Nat :=
  (List.range 3).filter (fun s => decide (s < level) && !promo.getLsbD s && !fault.getLsbD s)

/-- The counts of a row in segment order and then column order: run, injection count, errors without and with
injections (R270, R426). -/
structure RowCount where
  run : FidRun
  finj : Nat
  seen : List Nat := [0, 0, 0]
  real : Nat := 0

/-- One column-segment of the row with its mismatches. -/
def RowCount.column (finj : W64) (low : List Nat) (k : RowCount) (errs : List Nat) : RowCount :=
  let s := fld finj 0 2
  let applies := bit finj 2 && low.contains s
  let every := if fld finj 4 24 = 0 then 1 else fld finj 4 24
  let n := if applies then k.finj + 1 else k.finj
  let hit := applies && decide (every ≤ n)
  let all := if hit then errs ++ [s] else errs
  let seen := all.foldl (fun l e => setAt l e (l.getD e 0 + 1)) k.seen
  ⟨k.run.column all, if hit then 0 else n, seen, k.real + errs.length⟩

/-- The row's counts are recorded in the tile. -/
def Tile.recordRow (T : Tile) (o : MatOp) (k : RowCount) : Tile :=
  let T := (({ T with finj := k.finj }).setRun o k.run).showRun k.run
  let T := (List.range 3).foldl (fun (T : Tile) (s : Nat) => T.modCr (0x404 + s) (incFld · 0 32 (k.seen.getD s 0))) T
  T.countSlice k.real

/-! ### MATRIX_OP_START (R381, R388, R259) -/

/-- A graft or a pre-emption holds a nest at its iteration boundary (R268). -/
def Tile.holdsNest (T : Tile) (o : MatOp) : Bool := T.stopped && o.kind == 3 && o.row == 0

def Tile.bandsAwake (T : Tile) (bands : BitVec 4) : Bool :=
  (List.range 4).all (fun b => !bands.getLsbD b || bit (T.cr 0x502) (15 + b))

/-- Registers and set are free for the operation. -/
def Tile.mayStart (T : Tile) (o : MatOp) : Bool :=
  !T.blockedRegs o.seq o.reads o.writes &&
    !(o.kind != 2 && T.lq.any (fun l => decide (l.seq < o.seq) && l.set == o.set))

/-- An operation displaces ballast on its bands; with every awake band taken, none is left on the tile (R196). -/
def Tile.displace (T : Tile) (bands : BitVec 4) : Tile :=
  if (List.range 4).all (fun b => bands.getLsbD b || !bit (T.cr 0x502) (15 + b)) then T.modCr 0x502 (setBit · 23 false) else T

/-- An array cycle runs on the bands (R195, R196). -/
def Tile.useBands (T : Tile) (bands : BitVec 4) : Tile := ({ T with bandRan := T.bandRan ||| bands } : Tile).displace bands

/-- The next array operation begins its first plane cycle; it displaces ballast (R196). An operation that needs a gated
band stalls while the band wakes. A nest whose first iteration overflows stops at once. -/
def execMatrixOpStart (t : BitVec 14) (s : State) : Res :=
  let n := t.toNat
  if 15360 ≤ n then .fault .offWafer
  else if (s.tile n).frozen then .next s
  else
    let T := s.tile n
    match T.runningOp, T.nextOp with
    | none, some o =>
      if !T.mayStart o || (T.stopped && o.kind == 3) then .next s
      else if T.overflows o then .next ((s.setTile n (T.stopNest o)).drain n)
      else if !T.bandsAwake o.bands then .next (s.wakeBands n o.bands)
      else
        let T := (T.putOp { o with begun := true }).useBands o.bands
        .next (s.setTile n (if o.kind = 3 then T.setNestState o.slot 2 else T).showRunning)
    | _, _ => .next s

/-! ### MATRIX_ROW_END (R254 to R257, R261, R394, R426) -/

/-- What a row takes in: its A bytes with a poison mark, and the initial accumulators from the north. -/
structure RowIn where
  raw : List PByte
  bad : Bool
  north : Option (List W32) := none

def natBytes (l : List PByte) : List Nat := l.map (fun b => b.1.toNat)
def anyBad (l : List PByte) : Bool := l.any (fun b => b.2)

/-- 32-bit words of a payload. -/
def wordsOf (bytes : List Nat) : List W32 :=
  (List.range 256).map (fun n => BitVec.ofNat 32 ((List.range 4).foldl (fun v k => v + bytes.getD (4 * n + k) 0 * 256 ^ k) 0))

/-- The oldest payload of a receive channel is consumed by the unit: rp, the window return, the stamp. A payload with a
lost pair leaves CAUSAL pending on the nest's token (R116, R394). -/
def Tile.takePayload (T : Tile) (n slot : Nat) (x : Nat) : Tile :=
  match (T.chan n).ready with
  | [] => T
  | p :: l =>
    let T := ((T.setChan n { T.chan n with ready := l }).retireArrival n p.lines (x == 0)).mergeStamp p.stamp
    match p.lost with
    | none => T
    | some q =>
      let run := T.nest slot
      let run' : NestRun := { run with pend := run.pend ++ [⟨0x0C#8, causalChan n q, 0⟩] }
      T.setNest slot run'

/-- The bytes of the oldest payload of a channel, `n` of them. -/
def Tile.payloadBytes (T : Tile) (ch n : Nat) : Option (List PByte) :=
  (T.chan ch).ready.head?.map (fun p => T.padBytes p.addr n)

/-- One row's A bytes from the pad or the west, and its initial accumulators; none while a payload is missing. -/
def Tile.rowIn (T : Tile) (o it : MatOp) : Option (RowIn × Tile) :=
  let rb := rowBytes it.fmt it.segs
  let k := T.coop o.slot
  let west := o.coop && k.west
  let north := o.coop && k.north
  let a := if west then T.payloadBytes k.chw rb else some (T.padBytes (it.addr + rb * o.row) rb)
  let c := if north then (T.payloadBytes k.chn 1024).map some else some none
  match a, c with
  | some a, some c =>
    let T := if west then T.takePayload k.chw o.slot o.ctx else T
    let T := if north then T.takePayload k.chn o.slot o.ctx else T
    let bad := anyBad a || (c.map anyBad).getD false
    some (⟨a, bad, c.map (fun l => wordsOf (natBytes l))⟩, T)
  | _, _ => none

/-- The segment sums of a row: for segment i and column n, the exponents, the sum and the slices with a mismatch. -/
def Tile.segOf (T : Tile) (seed : Nat) (low : List Nat) (it : MatOp) (a : List (Int × List Int)) (r i n : Nat) :
    Int × Int × Int × List Nat :=
  let M : MacroSet := mget {} T.sets it.set
  let cells := (List.range 32).map (fun (k : Nat) => (mget 0#9 M.cells ((32 * i + k) * 256 + n)).toInt)
  let row := a.getD i (0, [])
  let v := segSum seed ((r * 8 + i) * 256 + n) low row.2 cells
  (row.1, (mget 0#9 M.eb (i * 256 + n)).toInt, v.1, v.2)

/-- One MMA element: segments 0 to S − 1 added in increasing k (R254, R255). -/
def accElement (it : MatOp) (acc : W32) (segs : List (Int × Int × Int × List Nat)) : W32 :=
  segs.foldl (fun (acc : W32) q =>
    if matFloat it.fmt then accFloat it.fl acc (partOf it.fl q.1 q.2.1 q.2.2.1) else accInt it.fl acc q.2.2.1) acc

/-- Room in a send channel for a payload of n lines; one longer than the ring never starts (R84). -/
def Tile.canSend (T : Tile) (ch n : Nat) : Bool := decide (n ≤ chSize (T.cfg ch)) && T.windowOpen ch (T.takeOf ch n)

/-- An entry goes in before the place of the nest of slot `slot`. -/
def beforeNest (slot : Nat) (e : Emission) : List Emission → List Emission
  | [] => [e]
  | q :: l => if q.nest == some slot then { e with seq := q.seq } :: q :: l else q :: beforeNest slot e l

/-- The unit sends a payload for the nest's owner, in the place of MGO.CO in the order of emission (R274). -/
def Tile.unitSend (T : Tile) (o : MatOp) (ch : Nat) (data : List PByte) : Tile :=
  let k := T.takeOf ch (linesOf data.length)
  let e := T.sendEmission o.ctx ch 0 data.length (some data) false false 0
  let T := T.takeWindow ch k
  { T with emitq := beforeNest o.slot e T.emitq }

def bytesOf32 (bad : Bool) (w : W32) : List PByte := (List.range 4).map (fun k => ((w.extractLsb' (8 * k) 8 : Byte), bad))

/-- The row of an MMA or MMAS (R254 to R256, R394). -/
def Tile.matRow (T : Tile) (seed : Nat) (fault : BitVec 3) (o it : MatOp) (ri : RowIn) : Tile :=
  let low := lowSlices it.level (T.runOf o).promo fault
  let cols := columns it.bands
  let r := o.row
  let a := (List.range it.segs).map (fun (i : Nat) =>
    decodeSeg it.fmt it.fl ((List.range 32).map (fun (k : Nat) => elemOf it.fmt (natBytes ri.raw) (32 * i + k))))
  let segs := cols.map (fun n => (n, (List.range it.segs).map (fun (i : Nat) => T.segOf seed low it a r i n)))
  let start := fun (i n : Nat) => match ri.north with
    | some l => l.getD n 0#32
    | none => if it.z then 0#32 else T.elem i r n
  let errs := (List.range it.segs).flatMap (fun (i : Nat) => segs.map (fun p => (p.2.getD i (0, 0, 0, [])).2.2.2))
  let zero : RowCount := { run := T.runOf o, finj := T.finj }
  let count := if it.level = 0 then none else some (errs.foldl (RowCount.column (T.cr 0x408) low) zero)
  let k := T.coop o.slot
  let south := o.coop && k.south
  let value := fun (n : Nat) => match segs.find? (fun p => p.1 == n) with
    | some p => accElement it (start it.td n) p.2
    | none => start it.td n
  let T' :=
    if south then T.unitSend o k.chs ((List.range 256).flatMap (fun (n : Nat) => bytesOf32 ri.bad (value n)))
    else if it.kind = 1 then
      (List.range it.segs).foldl (fun (T' : Tile) (i : Nat) =>
        T'.setTreg (it.td + i) (segs.foldl (fun (q : TReg) p =>
          let v := p.2.getD i (0, 0, 0, [])
          q.put r p.1 (accFloat it.fl (start (it.td + i) p.1) (partOf it.fl v.1 v.2.1 v.2.2.1))) (T'.treg (it.td + i)))) T
    else T.setTreg it.td (cols.foldl (fun (q : TReg) n => q.put r n (value n)) (T.treg it.td))
  match count with
  | some c => T'.recordRow o c
  | none => T'

/-- The row of an SCACC (R257, R390): the new row, and whether a scale word was poisoned. -/
def Tile.scaleRow (T : Tile) (o : MatOp) : Tile × Bool :=
  let sa := T.padRead (o.addr + 4 * o.row) 4
  let put := fun (q : TReg) (n : Nat) =>
    let sb := T.padRead (o.addr + 128 + 4 * n) 4
    q.put o.row n (scaleAcc o.fzi o.fl (T.elem o.td o.row n) (T.elem o.tp o.row n) sa sb)
  let bad := T.padPoisoned (o.addr + 4 * o.row) 4 || (columns o.bands).any (fun n => T.padPoisoned (o.addr + 128 + 4 * n) 4)
  (T.setTreg o.td ((columns o.bands).foldl put (T.treg o.td)), bad)

/-- The row is over; the lowest poisoned row is kept. -/
def Tile.rowDone (T : Tile) (o : MatOp) (bad : Bool) : Tile :=
  T.putOp { o with row := o.row + 1, bad := if bad && o.bad.isNone then some o.row else o.bad }

/-- A row of a cooperative nest waits for a payload or for a window (R266). -/
def Tile.rowWaits (T : Tile) (o it : MatOp) : Bool :=
  let k := T.coop o.slot
  o.coop && it.kind != 2 && ((k.east && !T.canSend k.che (linesOf (rowBytes it.fmt it.segs))) || (k.south && !T.canSend k.chs 16) ||
    (T.rowIn o it).isNone)

/-- A row's last plane cycle ends (R426). A tile of a cooperative nest evaluates the row once its payloads have come and
its windows are open; an operation whose bands a graft or a restore has gated stalls while they wake (R195). -/
def execMatrixRowEnd (t : BitVec 14) (s : State) : Res :=
  let n := t.toNat
  if 15360 ≤ n then .fault .offWafer
  else if (s.tile n).frozen then .next s
  else
    let T := s.tile n
    match T.runningOp with
    | none => .next s
    | some o =>
      let it := T.iteration o
      if it.rows ≤ o.row || T.holdsNest o || T.rowWaits o it then .next s
      else if !T.bandsAwake o.bands then .next (s.wakeBands n o.bands)
      else if it.kind = 2 then
        let q := T.scaleRow o
        .next (s.setTile n ((q.1.rowDone o q.2).useBands o.bands))
      else
        let k := T.coop o.slot
        let east := o.coop && k.east
        match T.rowIn o it with
        | none => .next s
        | some (ri, T') =>
          let T' := if east then T'.unitSend o k.che ri.raw else T'
          let fault := (s.field (s.tileField n)).railFault
          let T' := T'.matRow s.seed fault o it ri
          let bad := ri.bad || (mget {} T.sets it.set : MacroSet).poisoned
          .next ((s.setTile n ((T'.rowDone o bad).useBands o.bands).showRunning).drain n)

/-! ### MATRIX_OP_COMPLETE (R388, R393, R267) -/

/-- The next index vector, level 0 fastest, for counts `cnt`; none past the last. -/
def nextIdx (cnt : Nat → Nat) : Nat → List Nat → Option (List Nat)
  | _, [] => none
  | j, i :: l => if i = cnt j then (nextIdx cnt (j + 1) l).map (0 :: ·) else some ((i + 1) :: l)

/-- The targets of an operation that has written them. A tile that sends its rows south writes none. -/
def Tile.writeTargets (T : Tile) (o it : MatOp) : Tile :=
  if o.coop && (T.coop o.slot).south then T
  else it.tds.foldl (fun (T : Tile) (i : Nat) => T.written i o.bad.isNone) T

/-- An iteration of a nest has completed: its poison is kept for the token, the indices advance, the nest ends, stops, or
pauses at this boundary. -/
def Tile.nextIteration (T : Tile) (o : MatOp) : Tile :=
  let n := T.nest o.slot
  let pend := match o.bad with
    | some r => if n.pend.any (fun e => e.cause == 0x0B#8) then n.pend else n.pend ++ [matPoison r o.seq]
    | none => n.pend
  match nextIdx (T.nestCnt o.slot) 0 n.idx with
  | none =>
    let n' : NestRun := { n with pend := pend }
    (T.setNest o.slot n').endNest o
  | some idx =>
    let n' : NestRun := { n with pend := pend, idx := idx, iter := n.iter + 1 }
    let o' : MatOp := { o with row := 0, bad := none }
    let T := (T.setNest o.slot n').putOp o'
    if T.overflows o' then T.stopNest o'
    else if T.pauseReq then
      { T with paused := some o.slot, pauseReq := false }.modCr (0x411 + 8 * o.slot) (setBit · 37 true)
    else T

/-- An earlier direct-issue run without queued operations is forgotten. -/
def Tile.dropRun (T : Tile) (o : MatOp) : Tile :=
  if o.kind ≠ 3 && T.aq.all (fun e => e.ctx != o.ctx || e.kind == 3 || e.gen != o.gen) then
    T.modCtx o.ctx (fun c => { c with oldRuns := c.oldRuns.filter (fun e => e.1 != o.gen) })
  else T

/-- The last row lands: targets become valid and dirty, or invalid after poison; the entry leaves the queue, or its
nest advances. An MPAUSE that finds the nest ended goes on. -/
def execMatrixOpComplete (t : BitVec 14) (s : State) : Res :=
  let n := t.toNat
  if 15360 ≤ n then .fault .offWafer
  else if (s.tile n).frozen then .next s
  else
    let T := s.tile n
    match T.runningOp with
    | none => .next s
    | some o =>
      let it := T.iteration o
      if o.row < it.rows then .next s
      else
        let T := T.writeTargets o it
        if o.kind = 3 then .next ((s.setTile n (T.nextIteration o).showRunning).drain n)
        else
          let T := ((T.dropOp o.seq).dropRun o).showRunning
          .next (s.setTile n (match o.bad with
            | none => T
            | some r => T.modCtx o.ctx (fun c => { c with matPend := c.matPend ++ [matPoison r o.seq] })))

/-! ### MLDB_COMPLETE (R251, R267, R389) -/

/-- The oldest MLDB may write its set: its context's own earlier operations have read the set, and its context's own
nest, running or paused, is behind it (R265, R267). -/
def Tile.loadReady (T : Tile) (l : LdOp) : Bool :=
  T.aq.all (fun o => l.seq < o.seq || o.ctx != l.ctx || !((o.kind != 2 && o.set == l.set) || (o.kind == 3 && o.begun)))

/-- The set of an MLDB (R251): B row k is the 256 elements at a + 256 × eb × k. -/
def Tile.loadSet (T : Tile) (l : LdOp) : MacroSet :=
  let rb := matBytes l.fmt 256
  let row := fun (k : Nat) => (getBytes T.pad (l.addr + rb * k) rb).map (·.toNat)
  let rows := (List.range 256).map row
  let seg := fun (i n : Nat) => decodeSeg l.fmt l.fzi ((List.range 32).map (fun (k : Nat) => elemOf l.fmt (rows.getD (32 * i + k) []) n))
  let cell := fun (j : Nat) => BitVec.ofInt 9 ((seg (j / 8192) (j % 256)).2.getD (j / 256 % 32) 0)
  let eb := fun (j : Nat) => BitVec.ofInt 9 (seg (j / 256) (j % 256)).1
  let table := fun (len : Nat) (f : Nat → BitVec 9) =>
    ((List.range len).map (fun j => (j, f j))).filter (fun (e : Nat × BitVec 9) => e.2 != 0#9)
  let bad := T.padPoisoned l.addr (rb * 256)
  { cells := table 65536 cell, eb := table 2048 eb, fmt := l.fmt, poisoned := bad }

/-- The row for K = 255 is written: the set records its format; a poisoned source word marks the set (R290). -/
def execMldbComplete (t : BitVec 14) (s : State) : Res :=
  let n := t.toNat
  if 15360 ≤ n then .fault .offWafer
  else if (s.tile n).frozen then .next s
  else
    let T := s.tile n
    match T.lq with
    | [] => .next s
    | l :: rest =>
      if !T.loadReady l then .next s
      else
        let T' : Tile := { T with lq := rest, sets := mput T.sets l.set (T.loadSet l) }
        .next (s.setTile n (match T.poisonRow l.addr (matBytes l.fmt 256) 256 with
          | none => T'
          | some r => T'.modCtx l.ctx (fun c => { c with matPend := c.matPend ++ [matPoison r l.seq] })))

/-! ### Control-register writes with an event of their own (R206) -/

/-- MAT_FINJ_WRITE: the injection is set and its count restarts (R426). -/
def execMatFinjWrite (t : BitVec 14) (v : BitVec 64) (s : State) : Res :=
  if 15360 ≤ t.toNat then .fault .offWafer else .next (s.cregWrite t.toNat 0 0x408 0 v)

/-- MAT_FID_WRITE: the context's direct-issue run ends and a new one starts (R263). -/
def execMatFidWrite (t : BitVec 14) (x : BitVec 2) (v : BitVec 64) (s : State) : Res :=
  if 15360 ≤ t.toNat then .fault .offWafer else .next (s.cregWrite t.toNat x.toNat 0x401 0 v)

/-- MAT_NEST_WRITE: only while the slot is FREE (R391). -/
def execMatNestWrite (t : BitVec 14) (sl : BitVec 2) (j : BitVec 3) (v : BitVec 64) (s : State) : Res :=
  if 15360 ≤ t.toNat then .fault .offWafer else .next (s.cregWrite t.toNat 0 (0x410 + 8 * sl.toNat + j.toNat) 0 v)

end Sys2Proof.Machine
end

