-- ==== Sys2Proof/Machine/Launch.lean ====
section
/-! DEFINITION. From an image set to running tiles: the loader's checks (R40, R83, R164, R171, R226, R427), the tiles as the
loader leaves them (R38, R165, R210, R219, R246, R294, R409), the power grants of a release (R193), and the mailbox's answer
once plots run (R156). -/

namespace Sys2Proof.Machine

open Host Sys2Proof

/-! ### The loader's checks -/

/-- Channel n of the tile (x, y) of an image set. -/
def imgChan (I : ImageSet) (x y n : Nat) : Option ImgChan :=
  (I.tiles.find? (fun i => i.x == x && i.y == y)).bind (fun i => i.chans.find? (fun c => c.n.toNat == n))

/-- R40 and R83 for a channel of tile (x, y). -/
def chanOk (I : ImageSet) (x y : Nat) (c : ImgChan) : Bool :=
  let lines := 2 ^ c.size.toNat
  decide (c.px < I.w) && decide (c.py < I.h) &&
  (if c.recv then c.base.toNat % lines == 0 && decide (c.base.toNat + lines ≤ 65536)
   else match imgChan I c.px c.py c.pch.toNat with
     | some r => r.recv && r.px == x && r.py == y && r.pch == c.n && r.size == c.size && r.pkwin == c.pkwin
     | none => false)

/-- R171: groups 1 to 255, not empty, inside the plot; no tile in more than three of them. -/
def groupsOk (I : ImageSet) : Bool :=
  let inside := fun (m : Nat × Nat) => decide (m.1 < I.w) && decide (m.2 < I.h)
  let members := I.groups.map (fun g => (g.1, g.2.dedup))
  members.all (fun g => decide (1 ≤ g.1) && decide (g.1 ≤ 255) && !g.2.isEmpty && g.2.all inside) &&
  (members.flatMap (fun g => g.2)).all (fun m => decide ((members.filter (fun g => g.2.contains m)).length ≤ 3))

/-- Every word lies in a packet. -/
def textFits (i : ImgTile) : Bool := i.text.all (fun e => decide (e.1 < 3 * 10922))

/-- The image set passes for plot P. -/
def imageOk (P : Plot) (I : ImageSet) (test : Bool) : Bool :=
  I.w == P.w && I.h == P.h &&
  I.tiles.all (fun i => decide (i.x < I.w) && decide (i.y < I.h) && textFits i && i.chans.all (chanOk I i.x i.y)) &&
  groupsOk I && (!I.tiles.any highText || ownSupervisor I test)

/-! ### A tile as the loader leaves it -/

/-- A root capability over `len` bytes from `base`, with the smallest exponent that states its bounds; its cursor is the base. -/
def rootCap (space perms base len : Nat) : RVal :=
  match (List.range 30).find? (fun e => base % 2 ^ e == 0 && len % 2 ^ e == 0 && decide (len / 2 ^ e < 2 ^ 28) &&
      decide (base + len ≤ (base / 2 ^ (e + 27) + 1) * 2 ^ (e + 27))) with
  | some e => mkCap base perms space e (base % 2 ^ (e + 27) / 2 ^ e) (len / 2 ^ e) true false
  | none => {}

def regionCap (space : Nat) (r : Option (BitVec 56 × Nat)) : RVal :=
  match r with
  | some (base, len) => rootCap space (permR + permW + permAM + permAG + permSH) base.toNat len
  | none => {}

/-- c6: from the lowest receive ring to the highest ring end (R219). -/
def ringCap (chans : List ImgChan) : RVal :=
  let rings := (chans.filter (·.recv)).map (fun c => (64 * c.base.toNat, 64 * (c.base.toNat + 2 ^ c.size.toNat)))
  match rings with
  | [] => {}
  | r :: l =>
    let lo := l.foldl (fun a b => min a b.1) r.1
    let hi := l.foldl (fun a b => max a b.2) r.2
    rootCap 1 (permR + permAG + permSH) lo (hi - lo)

/-- The roots in c1 to c6, and the supervisor root in spill slots 1022 and 1023 (R219). -/
def rootRegs (I : ImageSet) (chans : List ImgChan) : List (Nat × RVal) :=
  let pad := rootCap 1 (permR + permW + permCR + permCW + permAM + permAG + permSH) 0 (2 ^ 22)
  let sv := rootCap 5 (permR + permW + permAG + permSH + permSV) (63 * 2 ^ 50) (2 ^ 22)
  let half := fun (k : Nat) => gval (sv.bits.extractLsb' (64 * k) 64) false
  [(cKey 1, pad), (cKey 2, regionCap 2 I.ext0), (cKey 3, regionCap 2 I.ext1), (cKey 4, regionCap 3 I.host),
   (cKey 5, regionCap 4 I.peer), (cKey 6, ringCap chans), (spKey 1022, half 0), (spKey 1023, half 1),
   (spTagKey 1022, { tag := true })]

/-- A context at release: every register zero but the roots, the trap entry, and context 0 READY at packet 0 (R165, R210). -/
def releaseCtx (x evec : Nat) (roots : List (Nat × RVal)) : Ctx :=
  let c : Ctx := { regs := roots.foldl (fun m e => mset {} m e.1 e.2) [] }
  (c.setCr 0x014 (w64 (evec % 2 ^ 14))).setSt (if x = 0 then ready else dormant) 0

/-- CHN_CFG of a channel, with its peer's logical coordinate (R40, R82). -/
def chanWord (P : Plot) (c : ImgChan) : W64 :=
  let px := (P.x0 + c.px) % 120
  let py := (P.y0 + c.py) % 128
  w64 ((if c.recv then 2 else 1) + px * 2 ^ 2 + py * 2 ^ 9 + c.pch.toNat * 2 ^ 16 + c.base.toNat * 2 ^ 22 +
    c.size.toNat * 2 ^ 38 + c.pkwin.toNat * 2 ^ 42)

/-- PASS_CFG, PASS_PC and PASS_BUFn of a .pass directive; passes are not enabled by it (R294). -/
def Tile.loadPass (T : Tile) (q : ImgPass) : Tile :=
  let T := (T.setCr 0x580 (w64 (q.obase.toNat * 2 + q.olen.toNat * 2 ^ 17))).setCr 0x581 (w64 q.pc.toNat)
  q.bufs.foldl (fun (T : Tile) b =>
    T.setCr (0x584 + b.1.toNat) (w64 (b.2.1.toNat + b.2.2.1.toNat * 2 ^ 16 + b.2.2.2.toNat * 2 ^ 32))) T

/-- The group slots: group 0, then the other groups of the tile in increasing number (R171). -/
def slotsOf (I : ImageSet) (x y : Nat) : List Nat :=
  0 :: ((I.groups.filter (fun g => g.2.contains (x, y))).map (·.1)).mergeSort (fun a b => decide (a ≤ b))

/-- CORE_ID and CORE_PLOT of the tile at (x, y) of plot p (R38, R39). -/
def Tile.identify (T : Tile) (P : Plot) (p x y : Nat) : Tile :=
  (T.setCr 0x000 (w64 (x + y * 2 ^ 8))).setCr 0x001 (w64 (P.w + P.h * 2 ^ 8 + p * 2 ^ 16))

/-- The tile written from the stored image (R165). -/
def Tile.install (T : Tile) (P : Plot) (p x y : Nat) (I : ImageSet) : Tile :=
  let i : ImgTile := (I.tiles.find? (fun i => i.x == x && i.y == y)).getD ⟨x, y, [], [], [], none, none⟩
  let evec := if ownSupervisor I P.test then I.svh.getD 10880 else Config.supervisorEntry
  let roots := rootRegs I i.chans
  let T₀ : Tile := T.cleared
  let T₁ : Tile := { T₀ with imem := loadText I P.test i, pad := i.pad.foldl (fun m e => mset 0#8 m e.1 e.2) [] }
  let T₂ : Tile := { T₁ with ctxs := (List.range 4).map (fun x => (x, releaseCtx x evec roots)) }
  let T₃ := ((T₂.identify P p x y).setCr 0x003 (w64 10880)).setCr 0x540 I.seed
  let T₄ := i.chans.foldl (fun (T : Tile) c => T.openChan c.n.toNat (chanWord P c)) T₃
  let T₅ := match i.cq with
    | some w => T₄.setCr 0x481 (setBit (w &&& w64 (rwMask 0x481)) 36 true)
    | none => T₄
  let T₆ := match i.pass with
    | some q => T₅.loadPass q
    | none => T₅
  { T₆ with groups := slotsOf I x y, plot := some p }

/-- A tile at its release, or as a restore releases it: its bands gated, context 3 served last (R169, R195). -/
def Tile.release_ (T : Tile) : Tile :=
  { T with released := true, stopped := false, frozen := false, served := 3, bandRan := 0#4, active := none }.modCr 0x502 (setFld · 15 9 0)

/-- The plot's group table, with group 0 the whole plot, every phase 0; every walker IDLE (R165, R171). -/
def Plot.begin_ (P : Plot) (I : ImageSet) : Plot :=
  let G : Group := { members := P.tiles }
  let rest := I.groups.map (fun g =>
    let M : Group := { members := (g.2.dedup.map (fun m => tileAt (P.x0 + m.1) (P.y0 + m.2))).mergeSort (fun a b => decide (a ≤ b)) }
    (g.1, M))
  { P with groups := rest.foldl (fun m g => mput m g.1 g.2) [(0, G)], walkers := [], served := false }

/-! ### The saved image of a tile (R185, R231) and its restore (R114, R186) -/

/-- The items of a tile image in their order, with their sizes in bytes (R231): the pad, the instruction memory, both macro sets with
their exponents, the tile registers, the registers of four contexts, their spill memory, the random-bit queue with its counter, the
nest slots, the channels, the causal state, the host ingress buffer, the pass state, and the grant class with the tile's status. -/
def imageItems : List Nat :=
  [4194304, 131072, 152064, 262208, 20736, 33024, 8256, 1024, 9728, 320, 2560, 1088, 64]

/-- The sideband of the pad's image sectors: capability tags, line tags, poison (R231). -/
def Tile.sidebands (T : Tile) : AMap SavedSide :=
  let m := T.lineTags.foldl (fun (m : AMap SavedSide) e => mset {} m e.1 { (mget {} m e.1 : SavedSide) with tag := e.2 }) []
  let m := T.capTags.foldl (fun (m : AMap SavedSide) e =>
    let d : SavedSide := mget {} m (e.1 / 4)
    if e.2 then mset {} m (e.1 / 4) { d with caps := d.caps ||| BitVec.ofNat 4 (2 ^ (e.1 % 4)) } else m) m
  T.padPoison.foldl (fun (m : AMap SavedSide) e =>
    if e.2 then mset {} m (e.1 / 8) { (mget {} m (e.1 / 8) : SavedSide) with poison := true } else m) m

/-- What the save engine writes: the early buffer and the region tracker are empty, tickets awaiting acknowledgement stay with the tile,
the pad's tags and poison go to the sideband, and CORE_ID and CORE_PLOT are left out (R39, R231). The items are held as the fields they
are; R231 gives no layout within an item. -/
def Tile.image (T : Tile) : TileImage :=
  let R : Tile := { T with acks := [], ebuf := [], trk := [], eligible := [], pwrq := [], pwrOut := none, greq := false }
  let R : Tile := { R with creg := R.creg.filter (fun e => e.1 != 0x000 && e.1 != 0x001), plot := none }
  let R : Tile := { R with padPoison := [], capTags := [], lineTags := [] }
  { rest := R.trkCount.showReq, side := T.sidebands }

/-- The tile of an image: its sidebands give tags and poison back, the poison to every word of a sector. -/
def TileImage.tile (I : TileImage) : Tile :=
  let caps := I.side.foldl (fun (m : AMap Bool) e =>
    (List.range 4).foldl (fun m i => mset false m (4 * e.1 + i) (e.2.caps.getLsbD i)) m) []
  let bad := I.side.foldl (fun (m : AMap Bool) e =>
    if e.2.poison then (List.range 8).foldl (fun m i => mset false m (8 * e.1 + i) true) m else m) []
  let tags := I.side.foldl (fun (m : AMap LineTag) e => mset {} m e.1 e.2.tag) []
  { I.rest with padPoison := bad, capTags := caps, lineTags := tags }

/-- The causal state of a restored tile: from the image when the vintage is that of the save, and reset otherwise; a
broadcast then reaches it. -/
def Tile.restoreCausal (T : Tile) (same : Bool) (G : AMap (Ticket × Bool)) : Tile :=
  let T := if same then T else (List.range 64).foldl (fun (T : Tile) f => T.setVec f 0xFFFF#16 0xFFFF#16 false) { T with drawn := [] }
  T.updateG G

/-- CAU_STAT of a restored tile: its request and its counts are those of the tile that the image is written to, which holds no block
(R114, R119). -/
def Tile.keepBlock (R T : Tile) : Tile := { R.setCr 0x640 (T.cr 0x640) with blockNext2 := T.blockNext2 }

/-- Registers that stay with the site: power and RAS (R198, R305). -/
def siteReg (i : Nat) : Bool := (0x500 ≤ i && i ≤ 0x503) || (0x780 ≤ i && i ≤ 0x787)

/-- The image `I` written into the tile `T`. -/
def Tile.restored (T : Tile) (J : TileImage) (P : Plot) (p x y : Nat) (same : Bool) (G : AMap (Ticket × Bool)) : Tile :=
  let I := J.tile
  let keep := T.creg.filter (fun e => siteReg e.1)
  let regs := keep.foldl (fun m e => mput m e.1 e.2) (I.creg.filter (fun e => !siteReg e.1))
  let T₁ : Tile := { I with creg := regs, clock := T.clock, acks := T.acks, scrubLine := T.scrubLine }
  let T₂ : Tile := { T₁ with scrubRow := T.scrubRow, imemBad := [], imemFixed := [], plot := some p }
  ((T₂.restoreCausal same G).keepBlock T).identify P p x y

/-! ### Mailbox commands that wait for plots (R156) -/

/-- Commands PLOT_START (0x12), REMAP (0x15) and RESYNC (0x16) are answered once their plots run again or cannot, and
PLOT_RETIRE (0x14) once its plot is retired. -/
def State.answerPlots (s : State) : State :=
  let ended := fun (p : Nat) => (s.plot p).state != 3 && !(s.plot p).granting
  let done := s.host.waiting.filter (fun w =>
    (w.2.1 == 0x12 || (w.2.1 == 0x14 && w.2.2.all (fun p => (s.plot p).state == 7)) || (w.2.1 == 0x15 && !s.remapDue) || (w.2.1 == 0x16 && !s.resyncDue)) && w.2.2.all ended)
  let H : HostSide := { s.host with waiting := s.host.waiting.filter (fun w => !done.contains w) }
  done.foldl (fun s w =>
    let bad := w.2.1 == 0x12 && w.2.2.any (fun p => (s.plot p).state != 2 && (s.plot p).state != 6)
    s.mailDone w.1 (if bad then 9 else 0)) { s with host := H }

/-! ### Release (R165, R186, R193) -/

/-- The tile of a plot written at its release: from its image set, or from the saved image. -/
def State.writeTile (s : State) (p : Nat) (P : Plot) (t : Nat) : State :=
  let x := (tileX t + 120 - P.x0 % 120) % 120
  let y := (tileY t + 128 - P.y0 % 128) % 128
  match P.saved.find? (fun e => e.1 == t), P.img with
  | some (_, I), _ =>
    (s.modTile t (fun T => ((T.returnBlock (s.tileField t)).restored I P p x y (P.savedVint == s.vint) s.gvec).release_)).joinClock t
  | none, some I => (s.modTile t (fun T => (T.install P p x y I).release_)).joinClock t
  | none, none => s

/-- Every tile is written and released at once; the plot is RUNNING. Images of earlier saves are kept (R301). -/
def State.launch (s : State) (p : Nat) : State :=
  let P := s.plot p
  let s := P.tiles.foldl (fun s t => s.writeTile p P t) s
  let first := P.saved.isEmpty
  let s := s.modPlot p (fun P =>
    let P' : Plot := { P with state := 2, granting := false, stopping := false }
    match first, P.img with
    | true, some I => P'.begin_ I
    | _, _ => P')
  let s := P.tiles.foldl (fun s t => if P.saved.any (fun e => e.1 == t) then s.startQueued t else s) s
  ((List.range 4).foldl (fun s w => s.listIdle p w) s).answerPlots

/-- The class with which a tile of the plot is released: 4 at the start, the saved class at a restore (R189, R193). -/
def Plot.releaseClass (P : Plot) (t : Nat) : Nat :=
  match P.saved.find? (fun e => e.1 == t) with
  | some (_, I) => I.rest.grant
  | none => 4

/-- The last grant of the plot's release has been given: it is released. -/
def State.launchIfGranted (s : State) (p : Nat) : State :=
  let P := s.plot p
  let waits := s.fields.any (fun e => e.2.pwrQ.any (fun r => r.2.ctx == 4 && (s.tile r.1).plot == some p))
  if P.granting && !waits then s.launch p else s

/-- The head request of a field, when it fits the pool: its tile, context and class, and the rest. The increase counts from
the class that the tile holds (R191). -/
def State.fits (s : State) (f : Nat) : Option (Nat × PwrReq × List (Nat × PwrReq)) :=
  let F := s.field f
  match F.pwrQ with
  | [] => none
  | (t, r) :: l => if F.granted + (r.cls - (s.tile t).grant) ≤ s.pool f then some (t, r, l) else none

/-- The tiles of a plot are reserved, and their release classes requested in increasing tile index: the field controllers
grant them in their turn, and the last grant releases the plot (R193). -/
def State.reserve (s : State) (p : Nat) : State :=
  let P := s.plot p
  let l := P.tiles.mergeSort (fun a b => decide (a ≤ b))
  let s := s.modPlot p (fun P => { P with granting := true })
  let s := l.foldl (fun s t =>
    let r : PwrReq := { ctx := 4, cls := P.releaseClass t }
    (s.modTile t (fun T => { T with plot := some p, released := false })).modField (s.tileField t) (fun F =>
      { F with pwrQ := F.pwrQ ++ [(t, r)] })) s
  s

/-- A release under way is called off: its tiles are given back, and the plot waits SWAPPED. -/
def State.unreserve (s : State) (p : Nat) : State :=
  let P := s.plot p
  if P.granting then (s.freeTiles P.tiles).modPlot p (fun P => { P with granting := false, state := 3 }) else s

/-- In-service tiles of a field. -/
def State.inService (s : State) (f : Nat) : Nat :=
  (s.map.filter (fun e => (e.2.site.map siteField) == some f)).length

/-- R193: every field with a tile of the plot has a pool of 2 A (4 half-amps) for each of its in-service tiles. -/
def State.poolsOk (s : State) (P : Plot) : Bool :=
  (P.tiles.map s.tileField).dedup.all (fun f => decide (4 * s.inService f ≤ s.pool f))

/-- The tile is present, and its field is not removed: a removed field is gated until it is readmitted (R24, R115). -/
def State.tileUsable (s : State) (t : Nat) : Bool := (s.mapEntry t).site.isSome && !(s.field (s.tileField t)).removed

/-- None of the plot's tiles is held by a plot, and all are usable. -/
def State.tilesFree (s : State) (P : Plot) : Bool := P.tiles.all (fun t => (s.tile t).plot.isNone && s.tileUsable t)

/-- The plots that wait in a restore for their grants, none of which the fields can give now: they stay SWAPPED, and the run queue
serves the next runnable plot meanwhile (R193). -/
def State.stalledRestore (s : State) (p : Nat) : Bool :=
  let P := s.plot p
  P.granting && P.state == 3 && s.fields.all (fun e => (s.fits e.1).isNone || e.2.pwrQ.all (fun r => (s.tile r.1).plot != some p))

/-- The plots whose stalled restores hold tiles of P, when nothing else does. -/
def State.standAside (s : State) (P : Plot) : Option (List Nat) :=
  let held := (P.tiles.filterMap (fun t => (s.tile t).plot)).dedup
  if held.all s.stalledRestore && P.tiles.all s.tileUsable then some held else none

end Sys2Proof.Machine
end

