-- ==== Sys2Proof/Machine/Mail.lean ====
section
/-! DEFINITION. The mailboxes (R155, R156, R158): a command runs once its go has been written, is checked for ownership, and
is answered. How a command's arguments lie in its buffer is not stated; an event carries them decoded. -/

namespace Sys2Proof.Machine

open Host Sys2Proof

def codeOk : Nat := 0
def codeBadCmd : Nat := 1
def codeBadArg : Nat := 2
def codeNotOwner : Nat := 3
def codeBadHandle : Nat := 4
def codeBadShape : Nat := 5
def codeNoFit : Nat := 6
def codeBadImage : Nat := 7
def codeBusy : Nat := 8
def codeFailed : Nat := 9

/-- Mailbox n is busy with the command of this code, and is the first of those whose commands have not begun. -/
def State.runs (s : State) (n code : Nat) : Bool :=
  bit (s.reg0 (offMbx n)) 1 && readBytes s.host.mbx (offMbxBuf n) 2 == code && s.host.goQ.head? == some n

def onMail (n : BitVec 2) (code : Nat) (s : State) (k : Nat → Res) : Res :=
  if s.runs n.toNat code then k n.toNat else .next s

/-- The link owns the wafer (R158). -/
def State.owns (s : State) (n : Nat) : Bool := s.host.owner == some n

/-- A command for the owner. -/
def asOwner (n : BitVec 2) (code : Nat) (s : State) (k : Nat → Res) : Res :=
  onMail n code s fun m => if s.owns m then k m else .next (s.mailDone m codeNotOwner)

/-- A command for the owner that names a plot, which must not be retired (R43). -/
def withPlot (n : BitVec 2) (code : Nat) (plot : BitVec 16) (s : State) (k : Nat → Nat → Res) : Res :=
  onMail n code s fun m =>
    let P := s.plot plot.toNat
    if s.owns m && P.created && P.state != 7 then k m plot.toNat else .next (s.mailDone m codeBadHandle)

/-- A command that waits for an event: its link, code, and the ports or plots it names. -/
def State.await (s : State) (n code : Nat) (l : List Nat) : State :=
  { s with host := { s.host with waiting := s.host.waiting ++ [(n, code, l)], goQ := s.host.goQ.filter (· != n) } }

def bytesOf (v n : Nat) : List Byte := (List.range n).map (fun i => BitVec.ofNat 8 (v / 256 ^ i))

/-- CLAIM and the loss of ownership show in HOST_LINKn.owner. -/
def State.setOwner (s : State) (o : Option Nat) : State :=
  let s := { s with host := { s.host with owner := o } }
  (List.range 4).foldl (fun s n => s.modReg0 (offLink n) (setBit · 48 (o == some n))) s

def execClaim (n : BitVec 2) (s : State) : Res :=
  onMail n 0x01 s fun m =>
    if s.host.owner.isNone || s.owns m then .next ((s.setOwner (some m)).mailDone m codeOk)
    else .next (s.mailDone m codeBusy)

def execUnclaim (n : BitVec 2) (s : State) : Res :=
  asOwner n 0x02 s fun m => .next ((s.setOwner none).mailDone m codeOk)

/-- The listed command codes (R156). -/
def mailCodes : List Nat :=
  [0x01, 0x02, 0x10, 0x11, 0x12, 0x13, 0x14, 0x15, 0x16, 0x20, 0x21, 0x22, 0x23, 0x24, 0x25, 0x26, 0x27, 0x28, 0x29, 0x2A,
   0x2B, 0x2C, 0x2D, 0x30]

/-- An unlisted code: BADCMD. A non-owner's receives NOTOWNER (R158). -/
def execBadMailboxCommand (n : BitVec 2) (code : BitVec 16) (s : State) : Res :=
  if mailCodes.contains code.toNat then .next s
  else asOwner n code.toNat s fun m => .next (s.mailDone m codeBadCmd)

end Sys2Proof.Machine
end

