-- ==== Sys2Proof/Machine/Plots.lean ====
section
/-! DEFINITION. The life of a plot (R42, R163 to R167, R171 to R187): creation, loading, start, pre-emption, restore,
completion, retirement, barriers and walkers. -/

namespace Sys2Proof.Machine

open Host Sys2Proof

/-! ### PLOT_CREATE (R42) -/

/-- The rectangle meets the constraints and covers no ABSENT tile. -/
def State.fitsAt (s : State) (w h : Nat) (align nowrap : Bool) (x y : Nat) : Bool :=
  decide (x < 120) && decide (y < 128) && (!align || (x % 15 == 0 && y % 16 == 0)) &&
  (!nowrap || (decide (x + w ≤ 120) && decide (y + h ≤ 128))) &&
  (List.range h).all (fun j => (List.range w).all (fun i => (s.mapEntry (tileAt (x + i) (y + j))).site.isSome))

/-- The base: the one that the event names when it qualifies, else the first that does. -/
def State.chooseBase (s : State) (w h : Nat) (align nowrap : Bool) (x y : Nat) : Option (Nat × Nat) :=
  if s.fitsAt w h align nowrap x y then some (x, y)
  else ((List.range (120 * 128)).find? (fun k => s.fitsAt w h align nowrap (k % 120) (k / 120))).map
    (fun k => (k % 120, k / 120))

/-- A plot number may be given: never used, or retired with this plot at least the 65,535th created since (R163). -/
def State.numberFree (s : State) (p : Nat) : Bool :=
  !(s.plot p).created || ((s.plot p).state == 7 && decide ((s.plot p).made + 65534 ≤ s.host.plotsMade))

/-- The next plot number that is free; the numbers 1 to 65,535 go round. -/
def State.freeNumber (s : State) (k : Nat) : Nat → Option Nat
  | 0 => none
  | n + 1 =>
    let p := k % 65535 + 1
    if s.numberFree p then some p else s.freeNumber (k + 1) n

/-- The first value from `v` on that is neither 0 nor a handle in `used` (R43). -/
def freshHandle (used : List W64) (v : W64) : Nat → W64
  | 0 => v
  | n + 1 => if v = 0#64 ∨ used.contains v then freshHandle used (v + 1#64) n else v

/-- The handles of the tiles of a new plot, the last one first: each names one tile of one plot and was never given before. -/
def newHandles (used : List W64) (made p : Nat) : Nat → List (W64 × Nat × Nat)
  | 0 => []
  | k + 1 =>
    let l := newHandles used made p k
    let taken := l.map (·.1) ++ used
    (freshHandle taken (Config.handleBits p k) (taken.length + 2), made, k) :: l

/-- What a handle names: a plot, and the place of one of its tiles; a retired or failed plot's handles name nothing (R43). -/
def State.handleTile (s : State) (h : W64) : Option (Nat × Nat) :=
  (s.host.handles.find? (fun e => e.1 == h)).bind (fun e =>
    (s.plots.find? (fun q => q.2.created && q.2.made == e.2.1 && q.2.state != 5 && q.2.state != 7)).map (fun q => (q.1, e.2.2)))

/-- The result: plot number, base, and every handle in row-major order. -/
def createResult (p x y : Nat) (handles : List W64) : List Byte :=
  bytesOf p 2 ++ bytesOf x 1 ++ bytesOf y 1 ++ bytesOf 0 4 ++ handles.flatMap (fun h => bytesOf h.toNat 8)

/-- PLOT_CREATE. With no plot number free it answers NOFIT (DESIGN CHOICE, log 57: R42 and R156 name no status for it). -/
def execPlotCreate (n : BitVec 2) (w h : Nat) (align nowrap : Bool) (x0 y0 : BitVec 7) (s : State) : Res :=
  asOwner n 0x10 s fun m =>
    if w = 0 ∨ 120 < w ∨ h = 0 ∨ 128 < h then .next (s.mailDone m codeBadShape)
    else
      match s.chooseBase w h align nowrap x0.toNat y0.toNat, s.freeNumber s.host.plotsMade 65535 with
      | some (x, y), some p =>
        let made := s.host.plotsMade + 1
        let new := newHandles (s.host.handles.map (·.1)) made p (w * h)
        let P : Plot := { created := true, w := w, h := h, x0 := x, y0 := y, made := made }
        let s := { s with host := { s.host with plotsMade := made, handles := s.host.handles ++ new.reverse } }
        .next ((s.setPlot p P).mailReply m codeOk (createResult p x y (new.reverse.map (·.1))))
      | _, _ => .next (s.mailDone m codeNoFit)

/-! ### PLOT_LOAD, PLOT_START, PLOT_STATUS -/

def execPlotLoad (n : BitVec 2) (plot : BitVec 16) (img : ImageSet) (test : Bool) (s : State) : Res :=
  withPlot n 0x11 plot s fun m p =>
    let P := s.plot p
    if P.state ≠ 0 then .next (s.mailDone m codeBusy)
    else if imageOk P img test then
      .next ((s.setPlot p { P with img := some img, test := test, state := 1 }).mailDone m codeOk)
    else .next (s.mailDone m codeBadImage)

/-- PLOT_START (R163, R193): NOFIT, or into the run queue. With its tiles held by a resident plot, or the module held (R16),
the plot is SWAPPED; otherwise it is released once its grants are given. -/
def execPlotStart (n : BitVec 2) (plot : BitVec 16) (s : State) : Res :=
  withPlot n 0x12 plot s fun m p =>
    let P := s.plot p
    if P.state ≠ 1 ∨ P.granting then .next (s.mailDone m codeBusy)
    else if !s.poolsOk P then .next (s.mailDone m codeNoFit)
    else
      let s := { s with host := { s.host with runSeq := s.host.runSeq + 1 } }
      let s := (s.modPlot p (fun P => { P with order := s.host.runSeq })).await m 0x12 [p]
      match s.standAside P, s.module.held with
      | some held, false => .next ((held.foldl State.unreserve s).reserve p)
      | _, _ => .next (s.modPlot p (fun P => { P with state := 3 }))

/-- PLOT_STATUS: any link; the state in byte 0, and for FAILED the sector in bytes 8 to 15. -/
def execPlotStatus (n : BitVec 2) (plot : BitVec 16) (s : State) : Res :=
  onMail n 0x13 s fun m =>
    let P := s.plot plot.toNat
    if !P.created then .next (s.mailDone m codeBadHandle)
    else if P.state = 5 then .next (s.mailReply m codeOk (bytesOf 5 8 ++ bytesOf P.failed.toNat 8))
    else .next (s.mailReply m codeOk (bytesOf P.state 1))

/-! ### Stopping tiles (R183, R184) -/

/-- A context at its stop, with CTX_EVEC.pc `vec`: in U mode READY, RUNNING and WAITING ones take PREEMPT, with CTX_EPC naming the packet
that runs again with resume 0, or the resume word of a packet to which ERET has returned (R183, R229, R322); the others stop as they
are. -/
def Ctx.preempted (vec : Nat) (c : Ctx) : Ctx :=
  if !c.sMode && (c.st == ready || c.st == running || c.st == waiting) then
    c.trapEntryAt vec c.pc (if c.midPacket then 0 else c.first) 0x15 0#64 else c.settle

/-- The SENDs whose wait the pre-emption has ended leave the tracker (R183). -/
def Tile.dropEnded (T : Tile) : Tile :=
  (List.range 4).foldl (fun (T : Tile) x => if (T.ctx x).st = waiting then T else T.dropWait x) T

/-- The tiles of the plot that stand at a packet boundary stop; a rollback of a pass ends first. -/
def Tile.stopAt (T : Tile) : Tile :=
  if T.stopped || !T.atBoundary || T.pass.roll != 0 then T
  else
    let T := T.commitGoes (T.cycle + 2)
    let stop := fun (x : Nat) (c : Ctx) => c.preempted (fld (T.inEffect x 0x014) 0 14)
    let T' : Tile := { T with stopped := true, active := none, ctxs := T.ctxs.map (fun e => (e.1, stop e.1 e.2)) }
    let took := fun (x : Nat) => (T'.ctx x).st == trapped && (T.ctx x).st != trapped
    ((List.range 4).foldl (fun (T : Tile) x => if took x then T.dropTrapWrites x else T) T').dropEnded

/-- A WKNEXT that still waits, because another word of its group does, holds no iteration: what it was handed goes back to the walker
(R183). -/
def State.handBack (s : State) (t : Nat) : State :=
  let c := s.ctx t 0
  match (s.tile t).plot, c.handed with
  | some p, some (_, idx) =>
    if c.st = waiting ∧ !(s.tile t).stopped then
      (s.modCtx t 0 (fun c => { c with handed := none })).modWalker p c.handedBy (fun W =>
        { W with state := 1, handed := W.handed - 1, refused := W.refused ++ [idx.map BitVec.toNat] })
    else s
  | _, _ => s

/-- Step 1 and 2 for one tile: its tickets go back, waiting power requests are withdrawn, its contexts stop. -/
def State.stopTile (s : State) (t : Nat) : State :=
  ((s.handBack t).withdrawPower t).modTile t (fun T => { T.returnBlock (s.tileField t) with eligible := [] }.stopAt)

/-- Walker eligibility is cancelled, and hand-offs are refused from now on (R184 step 1). -/
def State.beginStop (s : State) (p : Nat) : State :=
  s.modPlot p (fun P =>
    { P with stopping := true, walkers := P.walkers.map (fun e => let W : Walker := { e.2 with waiting := [], idle := [] }; (e.1, W)) })

/-- A packet goes to or comes from one of the tiles. -/
def Packet.concerns (q : Packet) (l : List Nat) : Bool :=
  (match q.dst with | .tile t => l.contains t | _ => false) || (match q.src with | .tile t => l.contains t | _ => false)

/-- Every send that took its window has left (R425), but for one with ACQ or REL that waits for a cooperative nest which stands at an iteration
boundary, and those behind it (DEDUCED, log 35). -/
def State.sendsGone (s : State) (t : Nat) : Bool :=
  let q := (s.tile t).emitq
  match q.dropWhile (s.passable t) with
  | [] => true
  | e :: l => (e.place && l.all Emission.place) || (!e.place && q.any (s.passable t) && !s.emissionReady t e)

/-- The tile has stopped, stands at its boundaries, and nothing that it issued is outstanding; every send that took its window has left, so
a command before one of them has gone on to its end (R184, R425). The early buffer has emptied (R114), but for packets that a reported
stall holds: the resynchronisation that follows discards them (R112, R117, R118). -/
def State.tileDrained (s : State) (t : Nat) : Bool :=
  let T := s.tile t
  T.stopped && T.quiet && T.cmds.all (fun m => m.out == 0) && s.sendsGone t && T.flushing.isEmpty &&
  T.ebuf.all (s.stuck T.gAt) &&
  T.chans.all (fun e => e.2.writing.isEmpty && e.2.ret.isNone)

/-- Steps 3 and 4 are complete; a graft of one of the tiles has ended (R92). -/
def State.drained (s : State) (l : List Nat) : Bool :=
  l.all s.tileDrained && s.net.all (fun q => q.cls == 0 || !q.concerns l || s.stuckAtPort q) &&
  s.fields.all (fun e => e.2.ovf.all (fun q => !q.concerns l || s.stuck e.2.gAt q) &&
    (e.2.graft.map (fun g => !l.contains g.tile)).getD true)

/-- Handles die, images are freed; the number and state stay for PLOT_STATUS. -/
def State.retired (s : State) (p : Nat) : State :=
  ((s.endGrafts p).modPlot p (fun P =>
    let Q : Plot := { state := 7, created := true, w := P.w, h := P.h, x0 := P.x0, y0 := P.y0, made := P.made }
    Q)).answerPlots

/-- The stacks that can hold a copy of a tile image. -/
def State.copyStacks (s : State) : List Nat := (List.range 48).filter (fun k => !s.stackDead k)

/-- The image of tile t with its two copies, in stacks of different fields. Which two is a choice of the step; a copy for which there
is no stack is not written (R184, R187). -/
def State.imageOf (s : State) (t : Nat) : TileImage :=
  let l := s.copyStacks
  let a := l[s.chosen (2 ^ 20 + t) % max 1 l.length]?
  let m := l.filter (fun k => a.map stackField != some (stackField k))
  { (s.tile t).image with primary := a, mirror := m[s.chosen (2 ^ 21 + t) % max 1 m.length]? }

/-- A copy of the image can be read: its stack has not failed. -/
def State.imageReadable (s : State) (I : TileImage) : Bool := (I.primary.toList ++ I.mirror.toList).any (fun k => !s.stackDead k)

/-- Steps 5 and 6: every tile image is saved, the tiles are free, the plot is SWAPPED. -/
def State.save (s : State) (p : Nat) : State :=
  let P := s.plot p
  let saved := P.tiles.map (fun t => (t, s.imageOf t))
  let s := s.freeTiles P.tiles
  s.modPlot p (fun P => { P with state := 3, stopping := false, saved := saved, savedVint := s.vint })

/-- The pre-emption of a RUNNING plot as far as it can go now. -/
def State.preempt (s : State) (p : Nat) : State :=
  let P := s.plot p
  if P.state ≠ 2 then s
  else
    let l := P.tiles.filter (fun t => !s.grafting t)
    let s := l.foldl State.stopTile (s.beginStop p)
    if !s.drained P.tiles then s
    else if P.dying then (s.freeTiles P.tiles).retired p
    else s.save p

/-- Plots whose rectangles share a tile. -/
def Plot.overlaps (P Q : Plot) : Bool := P.tiles.any (fun t => Q.tiles.contains t)

/-- The round ends when every runnable plot has had its slice (R181). -/
def State.endRound (s : State) : State :=
  if s.plots.all (fun e => !(e.2.state == 2 || e.2.state == 3) || e.2.served) then
    { s with plots := s.plots.map (fun e => let P : Plot := { e.2 with served := false }; (e.1, P)) }
  else s

/-- A SWAPPED plot that has had no slice in this round and shares a tile with P. -/
def State.rival (s : State) (p : Nat) : Bool :=
  s.plots.any (fun e => e.1 != p && e.2.state == 3 && !e.2.served && (s.plot p).overlaps e.2)

/-- Something has the plot stopped: a pre-emption under way, its retirement, a waiting plot once its slice has ended (R181), or the module
held for want of converters (R16). -/
def State.mustStop (s : State) (p : Nat) : Bool :=
  let P := s.plot p
  P.stopping || P.dying || (P.served && s.rival p) || s.module.held

/-- PREEMPTION: its first occurrence begins the sequence, and one that finds the plot drained ends it (R184). -/
def execPreemption (plot : BitVec 16) (s : State) : Res :=
  .next (if s.mustStop plot.toNat then s.preempt plot.toNat else s)

/-- SLICE_EXPIRY: the plot has had its slice, in which the time of a save does not count; a waiting plot that overlaps it causes its
pre-emption (R181, R182). -/
def execSliceExpiry (plot : BitVec 16) (s : State) : Res :=
  let p := plot.toNat
  if (s.plot p).state ≠ 2 ∨ (s.plot p).stopping then .next s
  else
    let s := s.modPlot p (fun P => { P with served := true })
    .next ((if s.rival p then s.preempt p else s).endRound)

/-! ### RESTORE (R186) -/

/-- A plot that may be restored now stands before plot p in the run queue, and shares a tile with it (R181). -/
def State.earlier (s : State) (p : Nat) : Bool :=
  let P := s.plot p
  s.plots.any (fun e => e.1 != p && e.2.state == 3 && !e.2.served && !e.2.granting && decide (e.2.order < P.order) && P.overlaps e.2 &&
    (s.standAside e.2).isSome)

/-- A sector is bad in both copies of a saved image: its stacks have failed, or the step chooses it (R186). -/
def State.lostImage (s : State) (P : Plot) : Bool :=
  !P.saved.isEmpty && (s.strikes 990 || P.saved.any (fun e => !s.imageReadable e.2))

/-- RESTORE: a SWAPPED plot that has had no slice in this round and whose tiles no resident plot holds, in queue order; restores that
wait for grants which cannot be given now stand aside (R181, R193). A sector bad in both copies makes it FAILED; otherwise its
classes are granted, and its tiles written and released. -/
def execRestore (plot : BitVec 16) (s : State) : Res :=
  let p := plot.toNat
  let s := s.endRound
  let P := s.plot p
  if P.state ≠ 3 ∨ P.granting ∨ s.module.held ∨ P.served ∨ s.earlier p then .next s
  else
    match s.standAside P with
    | none => .next s
    | some held =>
      if s.lostImage P then .next (s.failPlot p (s.chosen 991)).answerPlots
      else .next ((held.foldl State.unreserve s).reserve p)

/-! ### Completion and retirement (R166, R167) -/

/-- Every ticket that the tile has drawn has been acknowledged to its sequencer; a removed field takes no acknowledgements. -/
def State.tileAcked (s : State) (t : Nat) : Bool := (s.tile t).drawn.all (fun d => d.acked || s.ackedPair d.pair)

/-- Nothing of the plot is outstanding: every engine command has its responses, every stamped write is delivered and
acknowledged (R166 step 2). -/
def State.finished (s : State) (l : List Nat) : Bool :=
  s.drained l && l.all (fun t => (s.tile t).cmds.all Cmd.complete && s.tileAcked t)

/-- PLOT_COMPLETION: contexts 1 to 3 stop at packet boundaries; once nothing is outstanding the tiles are cleared and the
plot is RETIRED. -/
def execPlotCompletion (plot : BitVec 16) (s : State) : Res :=
  let p := plot.toNat
  let P := s.plot p
  if P.state ≠ 6 then .next s
  else
    let s := P.tiles.foldl (fun s t => s.modTile t (fun T => if T.atBoundary then T.halt else T)) s
    if s.finished P.tiles then .next ((s.freeTiles P.tiles).retired p) else .next s

/-- PLOT_RETIRE (R167): a RUNNING plot is stopped as by a pre-emption and not saved, a RETIRING one completes; any other is
retired at once, with its reserved tiles given back. -/
def execPlotRetire (n : BitVec 2) (plot : BitVec 16) (s : State) : Res :=
  withPlot n 0x14 plot s fun m p =>
    let P := s.plot p
    let s := s.await m 0x14 [p]
    if P.state = 2 then .next ((s.modPlot p (fun P => { P with dying := true })).preempt p)
    else if P.state = 6 then .next s
    else .next ((s.freeTiles (P.tiles.filter (fun t => (s.tile t).plot == some p))).retired p)

/-! ### Barriers (R173, R187) -/

/-- BARRIER_COMPLETE: the last member has arrived; each member's phase advances, and arrived clears. A member under graft learns of it
after step 6, and the barrier completes then (R92). -/
def execBarrierComplete (plot : BitVec 16) (g : BitVec 8) (s : State) : Res :=
  let p := plot.toNat
  let G : Group := mget {} (s.plot p).groups g.toNat
  if G.members.isEmpty || !G.members.all (fun t => G.arrived.contains t && !s.grafting t) then .next s
  else .next (s.modGroup p g.toNat (fun G => { G with phase := G.phase + 1#16, arrived := [] }))

/-! ### Walkers (R176 to R180, R187) -/

/-- Iterations of the nest. -/
def Walker.total (W : Walker) : Nat := W.cnt.foldl (fun n c => n * (c + 1)) 1

/-- The next index vector: the innermost level, last in `order`, varies fastest. -/
def Walker.advance (W : Walker) : List Nat :=
  let step := fun (a : List Nat × Bool) (j : Nat) =>
    if !a.2 then a
    else if a.1.getD j 0 < W.cnt.getD j 0 then (a.1.set j (a.1.getD j 0 + 1), false) else (a.1.set j 0, true)
  (W.order.reverse.foldl step (W.idx, true)).1

/-- The iteration to give: a refused one before any not yet sent. -/
def Walker.take (W : Walker) : Option (List Nat × Walker) :=
  match W.refused with
  | i :: l => some (i, { W with refused := l })
  | [] => if W.handed < W.total then some (W.idx, { W with idx := W.advance }) else none

/-- The tile takes the iteration: g58 to g63 with the WKNEXT that completes true and continues at entry, its context READY, or with the
start of its context. -/
def State.accept (s : State) (t w : Nat) (W : Walker) (idx : List Nat) : State :=
  if W.ctx = 0 then
    s.modTile t (fun T => T.modCtx 0 (fun c => { c.setSt ready 0 with handed := some (W.entry, idx.map w64), handedBy := w }))
  else
    s.modTile t (fun T => (T.setGs W.ctx ((List.range 6).map (fun j => (58 + j, idx.getD j 0)))).startCtx W.ctx W.entry .none)

/-- With the last iteration handed out the walker is EXHAUSTED, and every waiting WKNEXT completes false. -/
def State.exhaust (s : State) (p w : Nat) : State :=
  let W : Walker := mget {} (s.plot p).walkers w
  if W.state = 1 ∧ W.handed = W.total then
    let s := W.waiting.foldl (fun s t => s.modTile t (fun T =>
      { T with eligible := T.eligible.filter (fun v => v != w) }.modCtx 0 (fun c => { c.setSt ready 0 with exhausted := true }))) s
    s.modWalker p w (fun W => { W with state := 2, waiting := [], idle := [] })
  else s

/-- The context still waits for the iteration, on a tile that a pre-emption has not reached; a tile under graft takes it (R92). -/
def State.mayTake (s : State) (p t : Nat) (W : Walker) : Bool :=
  let T := s.tile t
  let c := T.ctx W.ctx
  !(s.plot p).stopping && T.released && (!T.stopped || s.grafting t) &&
    (if W.ctx = 0 then c.st == waiting && c.reason == 4 && c.handed.isNone else c.st == dormant && c.arrivals.isEmpty)

/-- The tile whose eligibility reached the walker first. A context that was DORMANT may have been started since by an arrival or by
CTXGO: whether the walker has learned of it is a choice of the step. -/
def State.nextEligible (s : State) (p w : Nat) : Option Nat :=
  let W : Walker := mget {} (s.plot p).walkers w
  if W.ctx ≠ 0 ∧ W.state = 1 ∧ s.strikes 955 then W.idle.head? else (s.eligibleTiles p w).head?

/-- WALKER_HANDOFF: the next iteration goes to the tile that has been eligible longest; a tile that is no longer eligible refuses. -/
def execWalkerHandoff (plot : BitVec 16) (w : BitVec 2) (s : State) : Res :=
  let p := plot.toNat
  let W : Walker := mget {} (s.plot p).walkers w.toNat
  match s.nextEligible p w.toNat, W.take with
  | some t, some (idx, W') =>
    let W' := { W' with waiting := W'.waiting.filter (fun u => u != t), idle := W'.idle.filter (fun u => u != t) }
    if s.mayTake p t W then
      let s := s.modWalker p w.toNat (fun _ => { W' with handed := W.handed + 1 })
      let s := s.modTile t (fun T => { T with eligible := T.eligible.filter (fun v => v != w.toNat) })
      .next ((s.accept t w.toNat W idx).exhaust p w.toNat)
    else .next (s.modWalker p w.toNat (fun _ => { W' with refused := W'.refused ++ [idx] }))
  | _, _ => .next s

end Sys2Proof.Machine
end

