-- ==== Sys2Proof/Machine/Remap.lean ====
section
/-! DEFINITION. The tile map as a whole (R35, R36, R434), full remaps (R93, R94), resynchronisation (R117), field removal
(R115, R303), the clearing of a tripped field (R24), and uncorrectable instruction memory (R300). -/

namespace Sys2Proof.Machine

open Host Sys2Proof

/-! ### The two passes of R35 -/

/-- Pass 1 for a logical tile: its column, shifted past the lowest unusable column of its row; none when that site is
unusable. -/
def State.rowSite (s : State) (t : Nat) : Option Nat :=
  let f := ownerField t
  let row := tileY t % 16
  let lx := tileX t % 15
  let at_ := fun (col : Nat) => f * 256 + row * 16 + col
  let col := match (List.range 15).find? (fun c => !(s.site (at_ c)).usable) with
    | some first => if lx < first then lx else lx + 1
    | none => lx
  if (s.site (at_ col)).usable then some (at_ col) else none

/-- Logical tiles in the order of pass 2: field, row, column. -/
def bootOrder : List Nat :=
  (List.range 64).flatMap (fun f => (List.range 16).flatMap (fun row => (List.range 15).map (fun lx =>
    tileAt (f % 8 * 15 + lx) (f / 8 * 16 + row))))

/-- Pass 2 for one unplaced tile: the first free spare that passes the tests of R77, else ABSENT. -/
def State.placeSpare (s : State) (t : Nat) : State :=
  match (s.spareOrder (ownerField t)).find? (fun n => s.spareOk t n && s.anchorsOk t n) with
  | some n => s.withSpare t n
  | none => s

/-- The map of R35 over the usable sites. The tests of pass 2 count every failed link with a detour round it (R77, R80). -/
def State.buildMap (s : State) : State :=
  let pass1 : AMap MapEntry := (List.range 15360).map (fun t => (t, { site := s.rowSite t }))
  let s₁ : State := { s with map := pass1, detours := s.failedLinks }
  let s₂ := (bootOrder.filter (fun t => (s₁.mapEntry t).site.isNone)).foldl State.placeSpare s₁
  { s with map := s₂.map }

/-- The field that holds an agent of R434, and every agent: cellar ports, optical ports, PCIe paths, the control-space
interface, field controllers, the trellis root. The spec names no field for the trellis root; the choice is the step's. -/
def State.agents (s : State) : List (Nat × Nat) :=
  (List.range 48).map (fun k => (k, stackField k)) ++ (List.range 96).map (fun p => (256 + p, portField p)) ++
  (List.range 4).map (fun n => (512 + n, linkField n)) ++ [(768, 0)] ++ (List.range 64).map (fun f => (1024 + f, f)) ++
  [(1280, s.chosen 4999 % 64)]

/-- An agent without a present tile is attached at one of its field's tiles, which is a choice of the step; in a field of which the
map places no site, at logical tile 0 (DESIGN CHOICE, log 57: R434 has no such case). -/
def State.attachAgents (s : State) : State :=
  s.agents.foldl (fun s a =>
    let bad := match s.attach.find? (fun e => e.1 == a.1) with
      | some e => (s.mapEntry e.2).site.isNone
      | none => true
    if bad then
      let l := s.fieldTiles a.2
      { s with attach := mput s.attach a.1 (l.getD (s.chosen (5000 + a.1) % max 1 l.length) 0) }
    else s) s

/-! ### FULL_REMAP (R93, R94) -/

/-- The sites of a removed field are not usable while the map is computed. -/
def State.maskRemoved (s : State) : State :=
  { s with sites := s.sites.map (fun e =>
      if (s.field (siteField e.1)).removed then (let q : Site := { e.2 with usable := false }; (e.1, q)) else e) }

def State.resident (s : State) : List Nat := (s.plots.filter (fun e => e.2.state == 2)).map (·.1)

/-- Every plot is pre-empted as far as it can be; those that are then out are SWAPPED. -/
def State.preemptAll (s : State) : State :=
  s.resident.foldl State.preempt ((s.plots.map (·.1)).foldl State.unreserve s)

/-- The plots that a resynchronisation takes off their tiles (R117). -/
def State.preemptForResync (s : State) : State :=
  let l := (s.plots.filter (fun e => e.2.state == 2 || e.2.granting)).map (·.1)
  ({ s with resyncOut := s.resyncOut ++ l.filter (fun p => !s.resyncOut.contains p) } : State).preemptAll

/-- Every tile of the plot is present. -/
def State.plotPresent (s : State) (P : Plot) : Bool := P.tiles.all (fun t => (s.mapEntry t).site.isSome)

/-- The tiles to which a tile of a plot has a route or a trellis path: the peers of its channels, and the tile at which the
trellis root is attached (R86, R434). -/
def State.routesFrom (s : State) (t : Nat) : List Nat :=
  let T := s.tile t
  mget 0 s.attach 1280 :: ((List.range 64).filter (fun n => fld (T.cfg n) 0 2 == 1 || fld (T.cfg n) 0 2 == 2)).map (fun n =>
    tileAt (fld (T.cfg n) 2 7) (fld (T.cfg n) 9 7))

/-- The route from tile a to tile b passes one of the sites. A route that enters the escape set, or a tunnel, may pass any. -/
def State.routeHits (s : State) (sites : List Nat) (a b : Nat) : Bool :=
  match s.ground a, s.ground b with
  | some ga, some gb =>
    let r := s.routeSites (tileX gb) (tileY gb) 256 (tileX ga) (tileY ga)
    r.2 || ga != a || gb != b || r.1.any sites.contains
  | _, _ => true

/-- The plot has a tile, a route or a trellis path through the sites (R93 step 1). -/
def State.plotHit (s : State) (sites : List Nat) (p : Nat) : Bool :=
  (s.plot p).tiles.any (fun t => sites.contains (s.siteOf t) ||
    (s.routesFrom t).any (fun u => s.routeHits sites t u || s.routeHits sites u t))

/-- The tiles whose sites differ between two maps, and the fields that own them. -/
def changedTiles (old new : AMap MapEntry) : List Nat :=
  (List.range 15360).filter (fun t => (mget {} old t : MapEntry).site != (mget {} new t : MapEntry).site)
def changedFields (old new : AMap MapEntry) : List Nat := ((changedTiles old new).map ownerField).dedup

/-- The map of R35 over the present usable sites (R93 step 2). -/
def State.newMap (s : State) : AMap MapEntry := (s.maskRemoved.buildMap).map

/-- The plots that the remap to a map affects: those with a tile whose entry changes, or with a tile or a route through the sites it
is for. -/
def State.affected (s : State) (map : AMap MapEntry) (p : Nat) : Bool :=
  let l := changedTiles s.map map
  (s.plot p).tiles.any l.contains || s.plotHit (s.remapSites.map (·.1)) p

/-- The affected plots that are resident or reserved. -/
def State.toPreempt (s : State) (map : AMap MapEntry) : List Nat :=
  (s.plots.filter (fun e => (e.2.state == 2 || e.2.granting) && s.affected map e.1)).map (·.1)

/-- Pre-empt the plots of a list as far as they can be. -/
def State.preemptThese (s : State) (l : List Nat) : State :=
  let s : State := { s with remapOut := s.remapOut ++ l.filter (fun p => !s.remapOut.contains p) }
  l.foldl State.preempt (l.foldl State.unreserve s)

/-- What event 7 tells of a plot without a map: the sites and links that the remap is for, every failed link, and the unusable sites in the
rows of its absent tiles; a site in bits [13:0], and a mask of its failed links from bit 16 (R94; DESIGN CHOICE, log 36: R159 gives bytes 8
to 15 as a site or a link mask). -/
def State.failures (s : State) (P : Plot) : List Nat :=
  let rows := P.tiles.filter (fun t => (s.mapEntry t).site.isNone)
  let dead := rows.flatMap (fun t => ((List.range 16).map (fun c => ownerField t * 256 + tileY t % 16 * 16 + c)).filter (fun n => !(s.site n).usable))
  let links : List (Nat × BitVec 8) := (s.sites.filter (fun e => e.2.links != 0#8)).map (fun e => (e.1, e.2.links))
  let l := (s.remapSites.map (fun (e : Nat × BitVec 8) => e.1 + e.2.toNat * 2 ^ 16) ++ links.map (fun (e : Nat × BitVec 8) => e.1 + e.2.toNat * 2 ^ 16) ++ dead).dedup
  if l.isEmpty then [0] else l

/-- A saved plot after the remap: SWAPPED when its tiles are present and every path passes the test of R80, else SUSPENDED,
which the host is told with the failed sites and links. A SUSPENDED plot comes back only by a remap that the host asked for (R94). -/
def State.resettle (s : State) (reach host : Bool) (p : Nat) : State :=
  let P := s.plot p
  if P.state ≠ 3 ∧ (P.state ≠ 4 ∨ !host) then s
  else if reach && s.plotPresent P then s.modPlot p (fun P => { P with state := 3 })
  else
    let s := s.modPlot p (fun P => { P with state := 4 })
    if P.state = 3 then (s.failures P).foldl (fun s n => s.report 7 0 p n) s else s

/-- Charges of the in-service tiles of each field: the classes held, and the increases of grants on their way (R189, R190). -/
def State.recharge (s : State) : State :=
  (List.range 64).foldl (fun s f => s.modField f (fun F =>
    { F with granted := (s.fieldTiles f).foldl (fun n t => n + (s.tile t).grant) 0 +
        F.pwrSent.foldl (fun n r => n + (r.2.cls - (s.tile r.1).grant)) 0 })) s

/-- Detours round every failed link, where they pass the tests of R80; where they do not, nothing new is installed, and the detours that are
stay. -/
def State.detourAll (s : State) : State :=
  let s' := { s with detours := s.failedLinks }
  if s.failedLinks.isEmpty || s'.allReachable then s' else s

/-- Steps 2 to 4 of R93: the map over the usable sites, the generations of the changed fields, the plots. -/
def State.remapNow (s : State) (map : AMap MapEntry) : State :=
  let moved := changedTiles s.map map
  let changed := changedFields s.map map
  let host := s.host.waiting.any (fun w => w.2.1 == 0x15 && w.2.2.isEmpty)
  let s := (moved.foldl State.reroute { s with map := map, remapDue := false }).detourAll
  let s := changed.foldl (fun s f => s.modField f (fun F => { F with gen := F.gen + 1 })) s.attachAgents
  let s := s.recharge
  let s := (List.range 64).foldl State.showCeiling s
  let reach := s.failedLinks.isEmpty || s.allReachable
  let out := s.remapOut
  let s := (s.plots.map (·.1)).foldl (fun s p => s.resettle reach host p) (s.report 6 0 0 0)
  let H : HostSide := { s.host with waiting := s.host.waiting.map (fun w => if w.2.1 == 0x15 && w.2.2.isEmpty then (w.1, w.2.1, out) else w) }
  ({ s with host := H, remapSites := [], remapOut := [] } : State).answerPlots

/-- FULL_REMAP: pre-empts the affected plots, and once none of them is resident and no graft runs, remaps. -/
def execFullRemap (s : State) : Res :=
  if !s.remapDue then .next s
  else
    let map := s.newMap
    let s := s.preemptThese (s.toPreempt map)
    if (s.toPreempt map).isEmpty && s.fields.all (fun e => e.2.graft.isNone) then .next (s.remapNow map) else .next s

/-- REMAP: the command waits for the remap and its plots (R156). -/
def execRemap (n : BitVec 2) (s : State) : Res :=
  asOwner n 0x15 s fun m => .next { s.await m 0x15 [] with remapDue := true }

/-! ### VINTAGE_RESYNC (R117) -/

/-- The requests of cellar port k are served and its responses sent, as far as they can be: what a page without a quarantine frame holds
stays, and so do responses with more than four pending pairs. -/
def State.stackDrained (s : State) (k : Nat) : Bool :=
  let K := s.stack k
  K.homeQ.isEmpty && K.walkQ.isEmpty && K.ready.all (fun p => p.copyOf.isSome || s.parked k p) &&
    (K.late.isEmpty || decide (4 < K.pendingP.length))

/-- Nothing of classes 1 to 3 is under way, the cellar ports have served their requests, and the early and overflow buffers are empty:
their packets leave by R109 and R116, but for those that a reported stall holds (R117 step 2). -/
def State.fabricDrained (s : State) : Bool :=
  s.net.all (fun q => q.cls == 0 || s.stuckAtPort q) &&
  (List.range 64).all (fun f => (s.heldPackets f).all (fun e => s.stuck e.2 e.1)) && (List.range 48).all s.stackDrained

/-- A packet that the resynchronisation discards in an overflow buffer counts at its destination (R118). -/
def State.countStale (s : State) (p : Packet) : State :=
  match p.dst with
  | .tile t => s.modTile t (·.modCr 0x640 (incFld · 45 8 1))
  | .cellar k => s.stalePort (stackField k)
  | _ => s

/-- Step 3 for a field. -/
def Field.resync (F : Field) : Field :=
  let F₁ : Field := { F with next := 0#16, stable := 0xFFFF#16, marked := [], blockQ := [], blocks := [], recalled := [] }
  let F₂ : Field := { F₁ with ackIn := [], b4 := {}, posted := 0xFFFF#16, removed := F.tripped, ovf := [], stalled := none }
  F₂

/-- Steps 3 and 4 at a tile: no block, no tickets, the vector and the copy of G reset; what a stall holds is discarded as of
an old vintage, and counted (R118). -/
def Tile.resync (T : Tile) (G : AMap (Ticket × Bool)) : Tile :=
  let n := T.ebuf.length
  let T := (List.range 64).foldl (fun (T : Tile) f =>
    let g : Ticket × Bool := mget (0xFFFF#16, false) G f
    T.setVec f 0xFFFF#16 0xFFFF#16 g.2) T
  let T₁ : Tile := { T with acks := [], ebuf := [], blockNext2 := none, drawn := [] }
  (T₁.setBlock 0#16 0).modCr 0x640 (fun w => incFld (setBit w 37 false) 45 8 n)

/-- Steps 3 and 4 at a cellar port. -/
def Stack.resync (K : Stack) (G : AMap (Ticket × Bool)) : Stack :=
  { K with pvec := [], gvec := G, acks := [], ebuf := [] }

/-- The ports and BAR 4 paths whose requests wait for a ticket ask for a block of the new vintage. -/
def State.askAgain (s : State) : State :=
  let ports := ((s.ports.filter (fun e => !e.2.entered.isEmpty)).map (fun e => Agent.port e.1))
  let links := (List.range 4).filter (fun n => s.host.bar4.any (fun e => e.1 == n))
  (ports ++ links.map Agent.pcie).foldl State.askAgent s

/-- Steps 3 and 4 of R117. A packet that a stalled port still refuses stays where it is, of an old vintage now (R118). -/
def State.resyncNow (s : State) : State :=
  let G : AMap (Ticket × Bool) := (List.range 64).foldl (fun m f =>
    mset (0xFFFF#16, false) m f (0xFFFF#16, (s.field f).tripped)) []
  let s := (s.fields.flatMap (fun e => e.2.ovf)).foldl State.countStale s
  let s := (List.range 48).foldl (fun (q : State) k =>
    q.modReg0 (offCau (stackField k)) (incFld · 54 8 (q.stack k).ebuf.length)) s
  let s := (List.range 64).foldl (fun (q : State) f =>
    (q.modField f (fun F => let F₁ : Field := { F.resync with ovfG := G }; F₁)).modReg0 (offCau f)
      (fun w => setBit w 33 false)) s
  let s : State := { s with gvec := G, gcasts := [], vint := s.vint + 1, ctrlAcks := [], resyncDue := false }
  let s : State := { s with
    tiles := (List.range 15360).map (fun t => (t, (s.tile t).resync G)),
    cellars := (List.range 48).map (fun k => (k, (s.stack k).resync G)) }
  let s : State := { s with ports := s.ports.map (fun e => let P : Port := { e.2 with ing := {}, acks := [] }; (e.1, P)) }
  let out := s.resyncOut
  let H : HostSide := { s.host with acks := [], waiting := s.host.waiting.map (fun w => if w.2.1 == 0x16 && w.2.2.isEmpty then (w.1, w.2.1, out) else w) }
  ({ s with host := H, resyncOut := [] } : State).askAgain.answerPlots

/-- VINTAGE_RESYNC: pre-empts every plot; once none is resident and the links are drained, resets. -/
def execVintageResync (s : State) : Res :=
  if !s.resyncDue then .next s
  else
    let s := s.preemptForResync
    if s.resident.isEmpty && s.fabricDrained then .next s.resyncNow else .next s

/-- RESYNC: the command waits for the resynchronisation and its plots (R156). -/
def execResync (n : BitVec 2) (s : State) : Res :=
  asOwner n 0x16 s fun m => .next { s.await m 0x16 [] with resyncDue := true }

/-! ### Field removal (R24, R115, R303) -/

/-- A field is removed: its G entry is frozen, its contexts are lost and their plots FAILED, its stacks FAILED, its ports
DOWN; a full remap and a resynchronisation follow. -/
def State.removeField (s : State) (f : Nat) : State :=
  let s := (s.plots.map (·.1)).foldl (fun s p =>
    if (s.plot p).tiles.any (fun t => s.tileField t == f) then s.unreserve p else s) s
  let s := s.modField f (fun F => { F with removed := true, tripped := true, graft := none, graftQ := [] })
  let lost := (s.plots.filter (fun e => (e.2.state == 2 || e.2.state == 6) && e.2.tiles.any (fun t => s.tileField t == f))).map (·.1)
  let s := lost.foldl (fun s p =>
    let site := ((s.plot p).tiles.find? (fun t => s.tileField t == f)).map s.siteOf
    s.failPlot p (site.getD 0 + 2 ^ 63)) s
  let gone := (List.range 48).filter (fun k => stackField k == f)
  let s := gone.foldl (fun s k => s.modReg0 (offStk k) (setFld · 0 2 3)) s
  let ports := (List.range 96).filter (fun p => portField p == f)
  let s := ports.foldl (fun s p => s.portDown p) s
  { s with remapDue := true, resyncDue := true, remapSites := s.remapSites ++ (List.range 256).map (fun k => (256 * f + k, 0#8)) }.answerPlots

/-- FIELD_REMOVAL: the management controller declares the field failed. -/
def execFieldRemoval (f : BitVec 6) (s : State) : Res :=
  if (s.field f.toNat).removed then .next s else .next (s.removeField f.toNat)

/-- FIELD_TRIP: the field is power-gated and removed, be it for a second time before the resynchronisation that would readmit
it (R24). -/
def execFieldTrip (f : BitVec 6) (s : State) : Res :=
  let n := f.toNat
  if bit (s.reg0 (offFld n)) 51 then .next s
  else
    let s := (s.modReg0 (offFld n) (setBit · 51 true)).modReg0 offStatus (setBit · 39 true)
    .next ((s.removeField n).report 3 n 0 0)

/-- FIELD_CLEAR: a tripped field is cleared once every sensor is below 60 °C; otherwise FAILED. Its entry of G stays REMOVED
until the next resynchronisation. -/
def execFieldClear (n : BitVec 2) (f : BitVec 6) (cool : Bool) (s : State) : Res :=
  asOwner n 0x20 s fun m =>
    let k := f.toNat
    if !bit (s.reg0 (offFld k)) 51 then .next (s.mailDone m codeOk)
    else if !cool then .next (s.mailDone m codeFailed)
    else
      let s := (s.modReg0 (offFld k) (setBit · 51 false)).modField k (fun F => { F with tripped := false })
      .next (s.mailDone m codeOk)

/-! ### Instruction memory (R300) -/

/-- The 64-bit instruction words that context x would fetch next. -/
def Tile.fetches (T : Tile) (x : Nat) (word : Nat) : Bool :=
  let c := T.ctx x
  c.st != dormant && c.st != halted && (units 8 (12 * c.pc) 12).contains word

/-- IMEM_UNCORRECTABLE: a context that fetches the word cannot issue, and a graft is requested at once. A word that was
rewritten from the stored image and fails again stops the plot, which becomes FAILED (R300, R301). -/
def execImemUncorrectable (t : BitVec 14) (word : BitVec 15) (s : State) : Res :=
  let n := t.toNat
  let w := word.toNat
  if 15360 ≤ n then .fault .offWafer
  else if 16384 ≤ w ∨ !(List.range 4).any (fun x => (s.tile n).fetches x w) ∨ (s.tile n).imemBad.contains w then .next s
  else
    let T := s.tile n
    let s := s.modTile n (·.countMade 1)
    match T.plot with
    | some p =>
      if T.imemFixed.contains w then .next (s.failPlot p (s.siteOf n + 2 ^ 63)).answerPlots
      else .next (s.modTile n (fun T => { T with imemBad := T.imemBad ++ [w], greq := true }))
    | none => .next s

end Sys2Proof.Machine
end

