-- ==== Sys2Proof/Machine/Power.lean ====
section
/-! DEFINITION. Power coupled to execution: converters and coolant (R16, R23), thermal steps and droop stretches (R21, R22, R24),
measurements (R26, R58), power grants (R189 to R193), the activity monitor (R194), matrix bands and ballast (R195, R196), and
slice rails (R197). -/

namespace Sys2Proof.Machine

open Host Sys2Proof

/-- The field indices 0 to 63. -/
def allFields : List Nat := List.range 64

/-! ### The module limit -/

/-- The limit of R16 in units of 10 W for a number of failed converters. -/
def converterLimit (lost : Nat) : Nat := if lost ≤ 1 then 3600 else 3600 - 240 * (lost - 1)

/-- HOST_MOD_LIMIT.tdp and HOST_MOD_STATUS.derate follow the failed converters and the coolant flow (R16, R23). While both lower the
limit, the lower of the two stands (DESIGN CHOICE, log 57). -/
def State.showLimit (s : State) : State :=
  let conv := converterLimit (fld (s.reg0 offStatus) 33 4)
  let tdp := if s.module.flowLow then min conv 1800 else conv
  (s.modReg0 offLimit (setFld · 0 12 tdp)).modReg0 offStatus (setBit · 37 (decide (tdp < 3600)))

/-- CONVERTER_FAIL: the limit falls from the second failure on; at 26.4 kW or below every plot is pre-empted, the module is
held suspended, and the host is told. -/
def execConverterFail (s : State) : Res :=
  let s := s.modReg0 offStatus (fun w => incFld (setBit w 32 true) 33 4 1)
  let s := s.showLimit
  if converterLimit (fld (s.reg0 offStatus) 33 4) ≤ 2640 then
    let s : State := { s with module := { s.module with held := true } }
    .next (s.preemptAll.report 1 0 0 0)
  else .next s

/-- A field's thermal step (R22, R25). -/
def State.tstep (s : State) (f : Nat) : Nat := fld (s.reg0 (offFld f)) 11 4
def State.setTstep (s : State) (f k : Nat) : State := s.modReg0 (offFld f) (setFld · 11 4 k)

/-- FLOW_LOW: every thermal step becomes 8, the condition is reported, and the limit is 18 kW until flow is restored. -/
def execFlowLow (s : State) : Res :=
  if s.module.flowLow then .next s
  else
    let s := allFields.foldl (fun (q : State) f => q.setTstep f 8) s
    let s : State := { s with module := { s.module with flowLow := true } }
    .next ((s.modReg0 offStatus (setBit · 38 true)).showLimit.report 2 0 0 0)

/-- FLOW_RESTORED: the limit of R16 returns, and the thermal steps follow R24 again. -/
def execFlowRestored (s : State) : Res :=
  let s : State := { s with module := { s.module with flowLow := false } }
  .next s.showLimit

/-! ### Thermal steps and droop (R21, R22, R24) -/

def execThermalStepUp (f : BitVec 6) (s : State) : Res := .next (s.setTstep f.toNat (min 8 (s.tstep f.toNat + 1)))

/-- THERMAL_STEP_DOWN; while the coolant flow is low every step stays at 8 (R23). -/
def execThermalStepDown (f : BitVec 6) (s : State) : Res :=
  if s.module.flowLow then .next s else .next (s.setTstep f.toNat (s.tstep f.toNat - 1))

/-- DROOP_ALARM: the field's clock is stretched, and the alarm counted. -/
def execDroopAlarm (f : BitVec 6) (s : State) : Res :=
  .next (s.modReg0 (offFld f.toNat) (fun w => incFld (setBit w 15 true) 16 16 1))

def execDroopEnd (f : BitVec 6) (s : State) : Res := .next (s.modReg0 (offFld f.toNat) (setBit · 15 false))

/-! ### Measurements (R26, R58) -/

/-- MEASUREMENT_UPDATE: one sample of a register's measured fields, or of a port's wavelengths. -/
def execMeasurementUpdate (m : Measurement) (s : State) : Res :=
  match m with
  | .module vin pin => .next (s.modReg0 offStatus (fun w => setFld (setFld w 0 16 vin.toNat) 16 16 pin.toNat))
  | .field f iFld temp => .next (s.modReg0 (offFld f.toNat) (fun w => setFld (setFld w 32 11 iFld.toNat) 43 8 temp.toNat))
  | .port p l => onPort p fun n => .next (s.samplePort n l)

/-! ### Grants (R190 to R193) -/

/-- The head request of the field is granted when it fits the pool and the 50 A (100 half-amperes) of the present window. One that
breaks the window waits for it to slide, which it has done by the next service. The class of a plot's release takes effect at once, and the
last of them releases the plot; any other grant is sent to its tile. -/
def execFieldGrantServe (f : BitVec 6) (s : State) : Res :=
  let n := f.toNat
  let F := s.field n
  match s.fits n with
  | none => .next s
  | some (t, r, l) =>
    let inc := r.cls - (s.tile t).grant
    let ramp := if F.rampw then inc else F.ramp + inc
    if 100 < ramp then .next (s.modField n (fun F => { F with rampw := true }))
    else
      let s := s.modField n (fun F => { F with pwrQ := l, ramp := ramp, rampw := false })
      if r.ctx = 4 then
        let s := s.setGrant t r.cls
        match (s.tile t).plot with
        | some p => .next (s.launchIfGranted p)
        | none => .next s
      else .next (s.modField n (fun F => { F with granted := F.granted + inc, pwrSent := F.pwrSent ++ [(t, r)] }))

/-- POWER_GRANT: a grant reaches the tile, whose context goes on; its charge was made when it was sent. A tile under graft acts on it
once the graft has ended (R92). -/
def execPowerGrant (t : BitVec 14) (s : State) : Res :=
  let n := t.toNat
  if 15360 ≤ n then .fault .offWafer
  else if s.grafting n then .next s
  else
    let f := s.tileField n
    match (s.field f).pwrSent.find? (fun e => e.1 == n) with
    | none => .next s
    | some (_, r) =>
      let s := s.modField f (fun F => { F with pwrSent := eraseFirst (fun e => e.1 == n) F.pwrSent })
      .next ((s.modTile n (fun T =>
        { T.modCr 0x501 (setFld · 0 4 r.cls) with pwrOut := none }.showReq)).modCtx n r.ctx (fun c => { (if c.st = waiting then c.setSt ready 0 else c) with granted := true }))

/-! ### The activity monitor (R194) -/

/-- MONITOR_OVERRUN: the estimate, `est` now, has exceeded g for 256 consecutive cycles; the tile throttles, POWER is pending with that
estimate, and the count starts again from zero. Throttling changes timing only. -/
def execMonitorOverrun (t : BitVec 14) (est : BitVec 4) (s : State) : Res :=
  let n := t.toNat
  if 15360 ≤ n then .fault .offWafer
  else if est.toNat ≤ (s.tile n).grant ∨ fld ((s.tile n).cr 0x502) 4 9 < monitorOver ∨ fld ((s.tile n).cr 0x502) 0 4 ≠ est.toNat then .next s
  else .next (s.modTile n (fun T =>
    { T with powerLoose := T.powerCtx.isNone, powEst := est.toNat, under := 0 }.modCr 0x502 (fun w => setBit (setBit (setFld w 4 9 0) 13 true) 14 true)))

/-- THROTTLE_END: the estimate has been at or below g for 64 consecutive cycles. -/
def execThrottleEnd (t : BitVec 14) (s : State) : Res :=
  if 15360 ≤ t.toNat then .fault .offWafer
  else if (s.tile t.toNat).under < monitorUnder then .next s
  else .next (s.modTile t.toNat (·.modCr 0x502 (setBit · 13 false)))

/-! ### Bands and ballast (R195, R196) -/

/-- A running operation uses band b, and does not stall (R195, R266, R268). -/
def Tile.bandBusy (T : Tile) (b : Nat) : Bool :=
  match T.runningOp with
  | some o => o.bands.getLsbD b && !T.frozen && !T.holdsNest o && !T.rowWaits o (T.iteration o) && T.bandsAwake o.bands
  | none => false

/-- BAND_GATE: an awake band that has run an array cycle and has since been idle for MAT_IDLE cycles, MAT_IDLE not 0, and that carries
no ballast. Its macros keep their contents. -/
def execBandGate (t : BitVec 14) (bd : BitVec 2) (s : State) : Res :=
  let n := t.toNat
  let b := bd.toNat
  if 15360 ≤ n then .fault .offWafer
  else
    let T := s.tile n
    let w := T.cr 0x502
    if bit w (15 + b) ∧ T.cr 0x402 ≠ 0#64 ∧ T.bandRan.getLsbD b ∧ !T.bandBusy b ∧ !bit w 23 then
      .next (s.modTile n (·.modCr 0x502 (setBit · (15 + b) false)))
    else .next s

/-- BAND_WAKE_ADMIT: the oldest wake of the field, unless 32 have been admitted in the present window; then the wake waits for the
window to slide, which it has done by the next admission. -/
def execBandWakeAdmit (f : BitVec 6) (s : State) : Res :=
  let n := f.toNat
  let F := s.field n
  match F.wakeQ with
  | [] => .next s
  | _ :: l =>
    if 32 ≤ F.wakesIn then .next (s.setField n { F with wakesIn := 0 })
    else .next (s.setField n { F with wakeQ := l, wakesIn := F.wakesIn + 1 })

/-- BAND_WAKE_DONE: 220 cycles after its admission the band is usable. -/
def execBandWakeDone (t : BitVec 14) (bd : BitVec 2) (s : State) : Res :=
  let n := t.toNat
  let b := bd.toNat
  if 15360 ≤ n then .fault .offWafer
  else if !bit ((s.tile n).cr 0x502) (19 + b) || s.fields.any (fun e => e.2.wakeQ.contains (n, b)) then .next s
  else .next (s.modTile n (·.modCr 0x502 (fun w => setBit (setBit w (19 + b) false) (15 + b) true)))

/-- BALLAST: runs on, or is withdrawn from, the tiles of the field that have awake bands, but for those the step leaves out
(those whose load did not fall, and those a later step of the withdrawal takes). It is not run for a removed field (R303). -/
def execBallast (f : BitVec 6) (on : Bool) (s : State) : Res :=
  if on && (s.field f.toNat).removed then .next s else
  let l := (s.fieldTiles f.toNat).filter (fun t => decide (fld ((s.tile t).cr 0x502) 15 4 ≠ 0) && !s.strikes (30000 + t))
  .next (l.foldl (fun (q : State) t => q.modTile t (·.modCr 0x502 (setBit · 23 on))) s)

/-! ### Slice rails (R197) -/

/-- SLICE_RAIL_FAULT: the slice computes on the core rail in every tile of the field while the fault lasts. Slice S3 has no
rail of its own. -/
def execSliceRailFault (f : BitVec 6) (sl : BitVec 2) (s : State) : Res :=
  let F := s.field f.toNat
  if sl = 3#2 ∨ F.railFault.getLsbD sl.toNat then .next s
  else .next (s.setField f.toNat { F with
    railFault := F.railFault ||| BitVec.ofNat 3 (2 ^ sl.toNat), sfault := BitVec.ofNat 8 (sat (F.sfault.toNat + 1) 255) })

def execSliceRailFaultEnd (f : BitVec 6) (sl : BitVec 2) (s : State) : Res :=
  let F := s.field f.toNat
  .next (s.setField f.toNat { F with railFault := F.railFault &&& ~~~(BitVec.ofNat 3 (2 ^ sl.toNat)) })

end Sys2Proof.Machine
end

