-- ==== Sys2Proof/Machine/Boot.lean ====
section
/-! DEFINITION. Power-up and power-down (R17, R18): firmware (R160), the manifest and its records (R29 to R34, R60, R122), slice
voltages (R13, R14), the tile map (R35), and the measurements taken at power-up (R162). -/

namespace Sys2Proof.Machine

open Host Sys2Proof

/-- Bits [lo, lo + n) of a record. -/
def rec_ (r lo n : Nat) : Nat := r >>> lo % 2 ^ n

/-! ### Firmware (R160) -/

def HostSide.bank (H : HostSide) (b : Nat) : List Byte := if b = 0 then H.bank0 else H.bank1

/-- The key and the signature of a firmware image: its public key has the digest in the boot ROM, and its signature verifies. -/
def firmwareSigned (image : List Byte) : Bool :=
  Config.sha512 (Config.firmwareKey image) == Config.bootDigest &&
  Config.ecdsaValid (Config.firmwareKey image) (Config.firmwareBody image) (Config.firmwareSignature image)

/-- The image in a bank is accepted: signed under the fused key, and not older than the recorded security version. -/
def HostSide.accepts (H : HostSide) (image : List Byte) : Bool :=
  !image.isEmpty && firmwareSigned image && decide (H.version ≤ Config.firmwareVersion image)

/-- The bank that boots: the one chosen, else the other; none when neither verifies. -/
def HostSide.bootable (H : HostSide) : Option Nat :=
  if H.accepts (H.bank H.bootBank) then some H.bootBank
  else if H.accepts (H.bank (1 - H.bootBank)) then some (1 - H.bootBank)
  else none

/-- Step 2: the bank runs, and its version becomes the recorded one. -/
def HostSide.boot (H : HostSide) (b : Nat) : HostSide :=
  let image := H.bank b
  let d := mput (mput H.digests 1 (Config.sha512 image)) 2 (Config.sha512 (Config.microcode image))
  { H with running := b, bootBank := b, version := Config.firmwareVersion image, digests := d }

/-! ### The manifest (R29 to R34) -/

/-- A field of `n` bytes at byte `a` of the flash image: the lowest byte first (DESIGN CHOICE, log 62: R4 gives the byte order of other
memories and does not name flash). -/
def Module.word (M : Module) (a n : Nat) : Nat := readBytes M.flash a n

/-- The region of `n` records of `size` bytes at `a` lies in the flash image. -/
def Module.region (M : Module) (a n size : Nat) : Bool := decide (a + n * size ≤ M.flashLen)

/-- The header of R30. -/
def Module.headerOk (M : Module) : Bool :=
  decide (64 ≤ M.flashLen) && M.word 0 4 == 0x4D414E46 && M.word 4 2 == 3 && M.word 6 2 == 0 && M.word 30 2 == 0 && M.word 44 20 == 0 &&
  M.region (M.word 16 4) 64 16 && M.region (M.word 20 4) 16384 16 && M.region (M.word 24 4) (M.word 28 2) 2 &&
  M.region (M.word 32 4) 48 16 && M.region (M.word 36 4) 96 16 && M.region (M.word 40 4) 1 132

/-- Every byte before the signature. -/
def Module.signed (M : Module) : List Byte := getBytes M.flash 0 (M.word 40 4)

/-- The manifest is well-formed, and its signature verifies under the key that the running firmware image holds. -/
def Module.verified (M : Module) (image : List Byte) : Bool :=
  M.headerOk && Config.ecdsaValid (Config.manifestKey image) M.signed (getBytes M.flash (M.word 40 4) 132)

/-- Record `i` of the table whose offset the header holds at byte `h`. -/
def Module.record (M : Module) (h i : Nat) : Nat := M.word (M.word h 4 + 16 * i) 16

/-- The record of field f: the first one that names it; with none it reads as zeros, i_lim and fmax_floor 0 (DESIGN CHOICE, log 57:
R31 gives 64 records and does not say that they name 64 fields). -/
def Module.fieldRecord (M : Module) (f : Nat) : Nat :=
  (((List.range 64).map (M.record 16)).find? (fun r => rec_ r 0 6 == f)).getD 0

def Module.siteRecord (M : Module) (n : Nat) : Nat := M.record 20 n

/-- The pad repair entries that a site record names: their banks. -/
def Module.banks (M : Module) (r : Nat) : List Nat :=
  (List.range (rec_ r 88 8)).map (fun i => M.word (M.word 24 4 + 2 * (rec_ r 96 16 + i)) 2 % 16)

/-- The matrix sets of the valid matrix-row repairs of a site record. -/
def cimSets (r : Nat) : List Nat :=
  (List.range 4).filterMap (fun i => if rec_ r (48 + 10 * i + 9) 1 = 1 then some (rec_ r (48 + 10 * i + 8) 1) else none)

/-- The checks of R34 that a site's record fails. -/
def Module.siteFaults (M : Module) (n : Nat) : List SiteFault :=
  let r := M.siteRecord n
  let banks := M.banks r
  let crowded := (List.range 16).any (fun b => decide (8 < banks.count b)) || [0, 1].any (fun k => decide (2 < (cimSets r).count k))
  let low := decide (rec_ r 16 11 < rec_ (M.fieldRecord (siteField n)) 19 11)
  ([(rec_ r 0 14 != n, .position), (rec_ r 43 5 != 0 || rec_ r 112 16 != 0, .reserved), (crowded, .repairs),
    (decide (M.word 28 2 < rec_ r 96 16 + rec_ r 88 8), .index), (decide (2 ≤ rec_ r 14 2), .code), (low, .slow),
    (rec_ r 39 4 == 15, .links)].filter (fun e => e.1)).map (·.2)

def Module.siteUsable (M : Module) (n : Nat) : Bool := (M.siteFaults n).isEmpty

/-- The failed links that a site's own record reports. A link is down when either of its ends reports it (`State.linkDown`,
`State.linkGood`): which site is the other end of a north or south link follows from the map (R75). -/
def Module.siteLinks (M : Module) (n : Nat) : BitVec 8 := BitVec.ofNat 8 (rec_ (M.siteRecord n) 39 4)

/-- The site that a record describes, with its trim codes S2, S1 and S0. -/
def Module.siteOf (M : Module) (n : Nat) : Site :=
  let r := M.siteRecord n
  { usable := M.siteUsable n, fmax := rec_ r 16 11, trims := BitVec.ofNat 12 (rec_ r 27 12), links := M.siteLinks n }

def Module.fieldOf (M : Module) (f : Nat) : Field :=
  let r := M.fieldRecord f
  { iLim := min (rec_ r 8 11) 1250 }

/-! ### Slice voltages (R13, R14) -/

/-- A trim code is signed, in steps of 2.5 mV; voltages are in units of 0.1 mV. -/
def trimmed (nominal : Int) (code : BitVec 4) : Int := nominal + 25 * code.toInt

/-- Core, S2, S1 and S0 of a site: a rail whose trim would break the order takes the voltage of the rail above it. -/
def Site.rails (q : Site) : Int × Int × Int × Int :=
  let s2 := min (trimmed 3500 (q.trims.extractLsb' 0 4)) 4000
  let s1 := min (trimmed 3300 (q.trims.extractLsb' 4 4)) s2
  let s0 := min (trimmed 3100 (q.trims.extractLsb' 8 4)) s1
  (4000, s2, s1, s0)

/-! ### Stack and port records (R60, R122) -/

/-- A stack's record keeps the layout and does not disable the stack. The frames of its quarantine free list are the
management controller's, which chooses them. -/
def State.bootStack (s : State) (k : Nat) : Stack :=
  let r := s.module.record 32 k
  let ok := rec_ r 0 6 == k && rec_ r 6 2 == 0 && rec_ r 8 8 == 48 && rec_ r 16 2 != 3 && rec_ r 18 110 == 0
  let frames := (List.range (s.chosen (4200 + k) % 64)).map (fun i => s.chosen (50000 + 64 * k + i) % 786432)
  { disabled := !ok, bin := rec_ r 16 2, qframes := frames.dedup }

def State.bootPort (s : State) (p : Nat) : Port :=
  let r := s.module.record 36 p
  let ok := rec_ r 0 7 == p && rec_ r 7 1 == 0 && rec_ r 28 100 == 0
  { disabled := !ok, wlBad := BitVec.ofNat 9 (rec_ r 8 9), heater0 := BitVec.ofNat 10 (rec_ r 17 10), slow := rec_ r 27 1 == 1 }

/-! ### POWER_UP and POWER_DOWN -/

/-- Steps 4 to 7: the records are loaded and the reasons of defective sites logged, the map is built with detours round the failed links
(R34, R80), ceilings and charges follow it, and the fields are ready. Where a detour passes the bounds of R80 a full remap is due. -/
def State.bringUp (s : State) : State :=
  let M := s.module
  let s := { s with
    module := { M with siteLog := (List.range 16384).flatMap (fun n => (M.siteFaults n).map (fun e => (n, e))) },
    sites := (List.range 16384).map (fun n => (n, M.siteOf n)),
    fields := (List.range 64).map (fun f => (f, M.fieldOf f)),
    cellars := (List.range 48).map (fun k => (k, s.bootStack k)),
    ports := (List.range 96).map (fun p => (p, s.bootPort p)) }
  let s := { s.buildMap with detours := s.failedLinks }.attachAgents.recharge
  let s := if s.failedLinks.isEmpty || s.allReachable then s else { s with detours := [], remapDue := true }
  let s := allFields.foldl State.showCeiling s
  { s with module := { s.module with step := 7 } }

/-- Power-up stays at a step, and the fault is reported (R17, R160). -/
def State.stuckAt (s : State) (k : Nat) : State := { s with module := { s.module with step := k, fault := k } }

/-- POWER_UP: input power appears. With no firmware that verifies the module stays at step 2, and with no manifest that
verifies at step 3; either fault is reported (R17, R160). -/
def execPowerUp (s : State) : Res :=
  if s.module.step ≠ 0 then .next s
  else
    match s.host.bootable with
    | none => .next (s.stuckAt 2)
    | some b =>
      let s : State := { s with host := s.host.boot b }
      if s.module.verified (s.host.bank b) then
        let H : HostSide := { s.host with digests := mput s.host.digests 3 (Config.sha512 s.module.signed) }
        .next ({ s with host := H } : State).bringUp
      else .next (s.stuckAt 3)

/-- POWER_DOWN: the steps in reverse. What flash holds stays: the manifest, the firmware banks, the recorded version. The
model's own counter of free values goes on, and so does its schedule. -/
def execPowerDown (s : State) : Res :=
  let H : HostSide := { State.reset.host with bank0 := s.host.bank0, bank1 := s.host.bank1, bootBank := s.host.bootBank, version := s.host.version }
  let M : Module := { State.reset.module with flash := s.module.flash, flashLen := s.module.flashLen }
  .next { State.reset with host := H, module := M, seed := s.seed, schedule := s.schedule, focus := s.focus, choices := s.choices, cur := s.cur }

end Sys2Proof.Machine
end

