-- ==== Sys2Proof/Machine/Bar0.lean ====
section
/-! DEFINITION. BAR 0 (R25, R57, R120, R144, R147, R148, R155, R159): what a register reads, what a write changes, and the
control-space accesses of the wafer (R149). -/

namespace Sys2Proof.Machine

open Host Sys2Proof

/-! ### Reading -/

/-- `off` is register `base + step * i` for an i below n: that i. -/
def regIdx (off base step n : Nat) : Option Nat :=
  if base ≤ off ∧ (off - base) % step = 0 ∧ (off - base) / step < n then some ((off - base) / step) else none

/-- HOST_CAU_FLDf (R120). -/
def State.readCau (s : State) (f : Nat) : W64 :=
  let F := s.field f
  let w := s.reg0 (offCau f)
  let w := setFld (setFld w 0 16 F.next.toNat) 16 16 F.stable.toNat
  setBit (setFld (setFld (setBit w 32 F.removed) 34 10 F.ovf.length) 44 8 s.vint.toNat) 52 (s.backPressed f)

/-- MEM_STKk: walks in flight, of which those for one page are one, and the miss queue (R131, R144). -/
def State.readStk (s : State) (k : Nat) : W64 :=
  let K := s.stack k
  let walks := min 1024 (K.walkQ.map (fun p => p.reqVa / 65536)).dedup.length
  setFld (setFld (s.reg0 (offStk k)) 38 11 walks) 49 13 (s.missq k)

def State.readPois (s : State) (k : Nat) : W64 :=
  let K := s.stack k
  setFld (setFld (s.reg0 (offPois k)) 0 10 (min 512 K.poison.length)) 50 6 K.qframes.length

/-- What a BAR 0 register reads, without the effect of a read of MEM_RACKDONE. -/
def State.readReg (s : State) (off : Nat) : W64 :=
  match regIdx off (offCau 0) 8 64 with
  | some f => s.readCau f
  | none =>
    match regIdx off (offStk 0) 0x100 48, regIdx off (offRack 0) 0x100 48, regIdx off (offPois 0) 0x100 48 with
    | some k, _, _ => s.readStk k
    | _, some k, _ => setFld (s.reg0 off) 44 7 (s.stack k).hotQ.length
    | _, _, some k => s.readPois k
    | _, _, _ =>
      match regIdx off (offPolicy 0) 0x100 96 with
      | some _ => if fld (s.reg0 off) 16 8 = 0 then setFld (s.reg0 off) 16 8 1 else s.reg0 off
      | none => s.reg0 off

/-- A read of MEM_RACKDONE pops a record. -/
def State.readBar0 (s : State) (off : Nat) : W64 × State :=
  match regIdx off (offRackdone 0) 0x100 48 with
  | some k => s.popRackDone k
  | none => (s.readReg off, s)

/-! ### Writing -/

/-- The fields of a register that a host write may change: written as they are, cleared by a write of 0, cleared by a write
of 1; each as lowest bit and width. -/
structure Writable where
  rw : List (Nat × Nat) := []
  zero : List (Nat × Nat) := []
  one : List Nat := []

def writable (off : Nat) : Writable :=
  let is := fun (base step n : Nat) => (regIdx off base step n).isSome
  if off = offStatus then { one := [32, 38, 39] }
  else if is (offFld 0) 8 64 then { zero := [(16, 16)] }
  else if is (offCau 0) 8 64 then { zero := [(54, 8)], one := [53] }
  else if is (offLink 0) 8 4 then { rw := [(10, 22)], zero := [(32, 8), (40, 8)] }
  else if is (offMbx 0) 8 4 then { one := [2] }
  else if off = offEvt then { rw := [(8, 8)], one := [16] }
  else if is (offPolicy 0) 0x100 96 then { rw := [(0, 48)] }
  else if is (offOptLink 0) 0x100 96 then { zero := [(0, 16), (16, 8)] }
  else if 0x30000 ≤ off ∧ off < 0x36000 ∧ 0x40 ≤ off % 0x100 ∧ off % 0x100 < 0x88 then { zero := [(40, 24)] }
  else if is (offRack 0) 0x100 48 then { rw := [(0, 16), (16, 4)], zero := [(20, 8), (28, 8), (36, 8)] }
  else if is (offPois 0) 0x100 48 then { rw := [(19, 31)], zero := [(10, 8)] }
  else if is (offRackq 0) 0x100 48 then { rw := [(0, 58)] }
  else {}

/-- A write of `v` to a register that holds `old`, where `hot` marks the bits that the access writes. -/
def Writable.apply (W : Writable) (old v hot : W64) : W64 :=
  let v' := (v &&& hot) ||| (old &&& ~~~hot)
  let w := W.rw.foldl (fun w e => setFld w e.1 e.2 (fld v' e.1 e.2)) old
  let w := W.zero.foldl (fun w e => if fld v' e.1 e.2 = 0 then setFld w e.1 e.2 0 else w) w
  W.one.foldl (fun w b => if bit (v &&& hot) b then setBit w b false else w) w

/-- HOST_MBXn: a go while busy sets rej and is ignored; otherwise the command waits its turn (R155). -/
def State.writeMbx (s : State) (n : Nat) (v : W64) : State :=
  let w := s.reg0 (offMbx n)
  if bit v 0 then
    if bit w 1 then s.setReg0 (offMbx n) (setBit w 2 true)
    else
      let H : HostSide := { s.host with goQ := s.host.goQ ++ [n] }
      { s with host := H }.setReg0 (offMbx n) (setBit (if bit v 2 then setBit w 2 false else w) 1 true)
  else if bit v 2 then s.setReg0 (offMbx n) (setBit w 2 false) else s

/-- The bits that a 4-byte access of a register's half reaches, or an 8-byte access. -/
def hotBits (off : Nat) (dword : Bool) : W64 :=
  if !dword then 0xFFFFFFFFFFFFFFFF#64 else if off % 8 = 0 then 0xFFFFFFFF#64 else 0xFFFFFFFF00000000#64

/-- A write of a register: those that start something, and the plain ones. `v` stands in the bits that `hot` marks. -/
def State.writeReg (s : State) (off : Nat) (v hot : W64) : State :=
  let whole := fun (o : Nat) => (v &&& hot) ||| (s.reg0 o &&& ~~~hot)
  match regIdx off (offMbx 0) 8 4, regIdx off (offStk 0) 0x100 48, regIdx off (offShoot 0) 0x100 48, regIdx off (offRackq 0 + 8) 0x100 48 with
  | some n, _, _, _ => s.writeMbx n (v &&& hot)
  | _, some k, _, _ => if fld (v &&& hot) 0 2 = 1 then s.retireStack k else s
  | _, _, some k, _ => s.shoot k (whole off)
  | _, _, _, some k => s.rackCommand k (whole off)
  | _, _, _, _ => s.setReg0 off ((writable off).apply (s.reg0 off) v hot)

/-- The regions that the wafer may not access: mailbox buffers, event ring, MSI-X (R149). -/
def privateOff (off : Nat) : Bool :=
  (0x10000 ≤ off && off < 0x18000) || (0x80000 ≤ off && off < 0x82000) || 0xC0000 ≤ off && off < 0xC1000

/-! ### CTRL_ACCESS (R149) -/

/-- What the control-space interface does with a request: the status, the data, the state. -/
def State.serveCtrl (s : State) (h : ReqHead) (data : List PByte) : Nat × List PByte × State :=
  let o := h.va.toNat % 2 ^ 50
  if (h.op ≠ 0#4 ∧ h.op ≠ 1#4) ∨ h.len ≠ 7#6 ∨ o % 8 ≠ 0 ∨ 2 ^ 22 ≤ o then (4, [], s)
  else if privateOff o then (2, [], s)
  else if h.op = 0#4 then
    let r := s.readBar0 o
    (0, wordBytes r.1, r.2)
  else
    let v := (data.take 8).foldr (fun (b : PByte) n => b.1.toNat + 256 * n) 0
    (0, [], s.writeReg o (w64 v) (hotBits o false))

/-- CTRL_ACCESS: the oldest request that has reached the interface is performed and answered; a write's tickets are
acknowledged. -/
def execCtrlAccess (s : State) : Res :=
  match s.arrivedAt .ctrl Packet.isRequest with
  | none => .next s
  | some j =>
    match s.net[j]? with
    | none => .next s
    | some p =>
      let s := s.dropNet j
      if !s.fresh p then .next s
      else match p.body with
        | .request h data _ _ _ _ =>
          let r := s.serveCtrl h data
          .next ((r.2.2.ackStamp .ctrl p.stamp).answer .ctrl p r.1 r.2.1 none [])
        | _ => .next s

end Sys2Proof.Machine
end

