-- ==== Sys2Proof/Machine/Bars.lean ====
section
/-! DEFINITION. PCIe links (R145, R146, R148, R158), BAR 2 with the host ingress entries (R150 to R152), and BAR 4 (R153). -/

namespace Sys2Proof.Machine

open Host Sys2Proof

/-! ### Links -/

/-- LINK_TRAIN: Gen4, Gen5 or Gen6, with 1 to 16 lanes; FLIT mode at Gen6 (R145). No link trains to anything else. -/
def execLinkTrain (n : BitVec 2) (gen : BitVec 3) (width : BitVec 5) (s : State) : Res :=
  if gen.toNat < 4 ∨ 6 < gen.toNat ∨ width.toNat < 1 ∨ 16 < width.toNat then .next s
  else .next (s.modReg0 (offLink n.toNat) (fun w => setBit (setFld (setFld w 0 3 gen.toNat) 3 5 width.toNat) 8 (gen == 6#3)))

/-- LINK_DOWN: the link is no longer the owner; the plots keep running (R158). -/
def execLinkDown (n : BitVec 2) (s : State) : Res :=
  let k := n.toNat
  let s := s.modReg0 (offLink k) (fun w => setFld w 0 9 0)
  .next (if s.host.owner = some k then s.setOwner none else s)

/-- The host's AtomicOp Requester Enable bit (R146, R148). -/
def execAtomicopRequesterEnable (n : BitVec 2) (on : Bool) (s : State) : Res :=
  .next (s.modReg0 (offLink n.toNat) (setBit · 9 on))

/-- An access that comes in on link n. -/
def onLink (n : BitVec 2) (s : State) (k : Nat → Res) : Res := if s.linkUp n.toNat then k n.toNat else .next s

/-- The pieces of the range of n bytes at a that lie in one 64-byte line each: address and length. -/
def linePieces (a n : Nat) : List (Nat × Nat) :=
  (units 64 a n).map (fun l => (max a (64 * l), min (a + n) (64 * l + 64) - max a (64 * l)))

/-! ### The posted queue of a corner field (R151, R152) -/

/-- The virtual address of a BAR 4 offset. -/
def State.bar4Va (s : State) (n off : Nat) : Nat := fld (s.reg0 (offLink n)) 10 22 * 2 ^ 34 + off

/-- Where an access goes: a cellar port, or the optical port of a peer; none for an owner that is an error. -/
def State.bar4Dst (s : State) (va : Nat) : Option Agent :=
  let o := ownerOf va
  if o = 60 ∨ o = 62 ∨ o = 63 then none
  else if o = 61 then
    let id := va / 2 ^ 42 % 256
    if id = fld (s.reg0 offSelf) 0 8 then none else (s.peerPort id).map Agent.port
  else (s.portOf va).map Agent.cellar

/-- A request of a non-tile requester. -/
def bar4Head (va op n fn : Nat) : ReqHead :=
  { va := BitVec.ofNat 56 va, op := BitVec.ofNat 4 op, len := BitVec.ofNat 6 (n - 1), merge := false, ph := 0#2,
    fn := BitVec.ofNat 8 fn, tix := 0x3FFF#14, tag := 0#10, hops := 0#3, rmask := 0#16, zero := 0#8 }

/-- One of the completions of a BAR 4 read or AtomicOp is Unsupported Request; a write in error is counted (R153). -/
def State.bar4Fail (s : State) (n kind tag : Nat) : State :=
  if kind = 1 then s.modReg0 (offLink n) (incFld · 40 8 1) else (s.reply n .unsupported).completed n tag

/-- One request of a BAR 4 access enters: its address follows the b4base that holds now (R153). -/
def State.bar4Enter (s : State) (n kind tag off len fn : Nat) (data : List PByte) : State :=
  let va := s.bar4Va n off
  match s.bar4Dst va with
  | none => s.bar4Fail n kind tag
  | some dst => s.addBar4 n (Bar4.mk dst (bar4Head va (if kind = 2 then 3 else kind) len fn) data kind tag)

/-- A command buffer, or the MSI-X region. -/
def bufferOff (off : Nat) : Bool :=
  (0x10000 ≤ off && off < 0x18000 && off % 0x2000 < 0x1000) || (0xC0000 ≤ off && off < 0xC1000)

/-- One aligned 4- or 8-byte write of BAR 0; any other is no BAR 0 access, and changes nothing (R147). -/
def State.writeBar0 (s : State) (o : Nat) (dword : Bool) (v : W64) : State :=
  let n := if dword then 4 else 8
  if o % n ≠ 0 then s
  else if bufferOff o then
    let H : HostSide := { s.host with mbx := writeBytes s.host.mbx o n v.toNat }
    { s with host := H }
  else if privateOff o then s
  else
    let v := if o % 8 = 4 then v <<< 32 else v
    s.writeReg (o / 8 * 8) v (hotBits o dword)

/-- An access that stands first in the queue of link n and is no ingress entry has its effect. -/
def State.performPosted (s : State) (n : Nat) : PostedWrite → State
  | .entry _ _ => s
  | .bar4 kind tag off len fn data => s.bar4Enter n kind tag off len fn data
  | .register off dword v => s.writeBar0 off dword v

/-- The oldest access in the posted queue of link n. -/
def State.firstPosted (s : State) (n : Nat) : Option PostedWrite := (s.host.posted.find? (fun e => e.1 == n)).map (·.2)

def State.dropPosted (s : State) (n : Nat) : State :=
  { s with host := { s.host with posted := eraseFirst (fun e => e.1 == n) s.host.posted } }

/-- The accesses before the first ingress entry of link n have their effect, in order. -/
def State.flushPostedN (s : State) (n : Nat) : Nat → State
  | 0 => s
  | m + 1 =>
    match s.firstPosted n with
    | none | some (.entry _ _) => s
    | some w => ((s.dropPosted n).performPosted n w).flushPostedN n m

def State.flushPosted (s : State) (n : Nat) : State := s.flushPostedN n s.host.posted.length

/-- Accesses that a link's posted queue may hold (R152). -/
def postedEntries : Nat := 256

/-- Accesses of link n come in behind those that wait. A write for which the queue has no room stays with the host: the link's flow
control holds it. -/
def State.post (s : State) (n : Nat) (l : List PostedWrite) : State :=
  if postedEntries < (s.host.posted.filter (fun e => e.1 == n)).length + l.length then s
  else ({ s with host := { s.host with posted := s.host.posted ++ l.map (fun w => (n, w)) } } : State).flushPosted n

/-! ### BAR 0 (R147) -/

/-- REGISTER_WRITE: a BAR 0 write of a link, which waits behind the link's earlier posted writes (R152). -/
def execRegisterWrite (a : BarAddr) (dword : Bool) (v : BitVec 64) (s : State) : Res :=
  onLink a.link s fun k => .next (s.post k [.register a.off.toNat dword v])

/-- What a BAR 0 read of a register's 8 bytes, or of a buffer's, returns, with its effect. -/
def State.readSpace (s : State) (o : Nat) : W64 × State :=
  if (0x10000 ≤ o && o < 0x18000) || (0xC0000 ≤ o && o < 0xC1000) then (w64 (readBytes s.host.mbx o 8), s)
  else if 0x80000 ≤ o && o < 0x82000 then (w64 (readBytes s.host.ring (o - 0x80000) 8), s)
  else s.readBar0 o

/-- MEM_RACKDONE_READ, and with it every BAR 0 read of a link: one aligned access of 4 or 8 bytes returns the register, the half of it,
or the bytes of a buffer; any other completes with Unsupported Request. A read of MEM_RACKDONE pops its record (R147, R148). -/
def execMemRackdoneRead (r : BarRead) (s : State) : Res :=
  onLink r.link s fun k =>
    let o := r.off.toNat
    let len := r.len
    if (len ≠ 4 ∧ len ≠ 8) ∨ o % len ≠ 0 then .next (s.reply k .unsupported)
    else
      let w := s.readSpace (o / 8 * 8)
      .next (w.2.reply k (.data (((wordBytes w.1).drop (o % 8)).take len)))

/-! ### BAR 2 -/

/-- 4 MiB, the pad of a tile. -/
def padBytesN : Nat := 2 ^ 22

/-- The tile of a BAR 2 offset, none above 60 GiB or for an ABSENT tile (R150). -/
def State.bar2Tile (s : State) (off : Nat) : Option Nat :=
  let t := off / padBytesN
  if t < 15360 ∧ (s.mapEntry t).site.isSome then some t else none

/-- The tile's plot is resident and released. -/
def State.resides (s : State) (t : Nat) : Bool := (s.tile t).plot.isSome && (s.tile t).released

/-- Bytes of a posted TLP at most, and of a read request (R146). -/
def maxPayload : Nat := 512
def maxRead : Nat := 4096

/-- BAR2_WRITE: one ingress entry a line; those that name no tile are dropped (R150, R151). -/
def execBar2Write (n : BitVec 2) (off : BitVec 36) (data : List Byte) (poison : Bool) (s : State) : Res :=
  onLink n s fun k =>
    let o := off.toNat
    if maxPayload < data.length then .next s
    else .next (s.post k ((linePieces o data.length).filterMap (fun e =>
      (s.bar2Tile e.1).map (fun t =>
        let a := e.1 % padBytesN
        let bytes := (List.range e.2).map (fun i => (a % 64 + i, data.getD (e.1 - o + i) 0#8))
        PostedWrite.entry t (Ingress.mk (a / 64) bytes poison)))))

/-- BAR2_READ (R150). -/
def execBar2Read (n : BitVec 2) (off : BitVec 36) (len : BitVec 13) (s : State) : Res :=
  onLink n s fun k =>
    if maxRead < len.toNat then .next s
    else match s.bar2Tile off.toNat with
    | none => .next (s.reply k .unsupported)
    | some t =>
      if s.resides t then .next (s.reply k (.data ((s.tile t).padBytes (off.toNat % padBytesN) len.toNat)))
      else .next (s.reply k .aborted)

def execBar2Atomicop (n : BitVec 2) (s : State) : Res := onLink n s fun k => .next (s.reply k .unsupported)

/-- A packet carries an ingress entry. -/
def Packet.isIngress (p : Packet) : Bool :=
  match p.body with
  | .ingress _ => true
  | _ => false

/-- Entries on their way to tile t. -/
def State.entriesFor (s : State) (t : Nat) : Nat := (s.net.filter (fun p => p.isIngress && p.dst == .tile t)).length

/-- The tile's buffer takes one more entry now: its plot is resident, neither a graft nor a swap holds it, and of its 32 places one
is free that no entry on its way will take (R152). -/
def State.takesEntry (s : State) (t : Nat) : Bool :=
  s.resides t && !s.grafting t && !(s.tile t).stopped && decide ((s.tile t).ingress.length + s.entriesFor t < 32)

/-- The oldest entry of link n that has reached its tile. -/
def State.entryArrived (s : State) (n : Nat) : Option Nat := s.net.findIdx? (fun p => p.arrived && p.isIngress && p.src == .pcie n)

/-- An entry of the link is on its way to tile t: the next one to the same tile waits, so that they come in posted order (R151). -/
def State.entryFlies (s : State) (n t : Nat) : Bool := s.net.any (fun p => p.isIngress && p.src == .pcie n && p.dst == .tile t)

/-- An entry at its ejection port goes into the buffer, with no causal hold; at a tile whose plot has gone, or whose state is being
copied, it goes back to the head of the posted queue (R151, R152). -/
def State.placeEntry (s : State) (n j : Nat) (p : Packet) : State :=
  match p.dst, p.body with
  | .tile t, .ingress e =>
    let s := s.dropNet j
    if s.resides t && !(s.tile t).frozen then s.modTile t (fun T => { T with ingress := T.ingress ++ [e] })
    else { s with host := { s.host with posted := (n, .entry t e) :: s.host.posted } }
  | _, _ => s

/-- HOST_INGRESS_ENTRY: an entry of link n that has reached its tile goes into the buffer; otherwise the oldest entry of the posted queue
leaves the corner field as an unstamped packet of kind 13 on class 2, once its tile takes it, and what waited behind it follows. -/
def execHostIngressEntry (n : BitVec 2) (s : State) : Res :=
  let k := n.toNat
  match s.entryArrived k with
  | some j =>
    match s.net[j]? with
    | some p => .next (s.placeEntry k j p)
    | none => .next s
  | none =>
    match s.firstPosted k with
    | some (.entry t e) =>
      if s.takesEntry t && !s.entryFlies k t then
        .next (((s.dropPosted k).inject (s.agentPacket (.pcie k) (.tile t) 2 none (.ingress e))).flushPosted k)
      else .next s
    | _ => .next s

/-- POSTED_QUEUE_TIMEOUT: an entry that its tile has not taken for 1 ms is dropped and counted (R152). -/
def execPostedQueueTimeout (n : BitVec 2) (s : State) : Res :=
  let k := n.toNat
  match s.firstPosted k with
  | some (.entry t _) =>
    if s.takesEntry t then .next s
    else
      let s := (s.dropPosted k).modReg0 (offLink k) (incFld · 32 8 1)
      .next ((s.modTile t (·.modCr 0x690 (setBit · 6 true))).flushPosted k)
  | _ => .next s

/-! ### BAR 4 -/

/-- A free tag of the host's non-posted requests on link n, of which 768 may be outstanding (R146). -/
def State.freeTag (s : State) (n : Nat) : Option Nat :=
  let used := (s.host.asked.filter (fun e => e.1 == n)).map (·.2.1)
  (List.range 768).find? (fun t => !used.contains t)

/-- A non-posted BAR 4 access: its pieces go in behind what waits, and each has a completion of its own. -/
def State.askBar4 (s : State) (n : Nat) (pieces : Nat → List PostedWrite) : State :=
  match s.freeTag n with
  | none => s
  | some tag =>
    let l := pieces tag
    let s' := { s with host := { s.host with asked := s.host.asked ++ [(n, tag, l.length)] } }
    if postedEntries < (s.host.posted.filter (fun e => e.1 == n)).length + l.length then s else s'.post n l

/-- BAR4_READ of `len` bytes; one that crosses a line is cut there, and each piece has its completion. It passes no earlier write of the
link (R153). -/
def execBar4Read (n : BitVec 2) (off : BitVec 34) (len : BitVec 13) (s : State) : Res :=
  onLink n s fun k =>
    if len = 0#13 ∨ maxRead < len.toNat then .next s
    else .next (s.askBar4 k (fun tag => (linePieces off.toNat len.toNat).map (fun e => .bar4 0 tag e.1 e.2 0 [])))

/-- BAR4_WRITE, behind the link's earlier posted writes (R152). -/
def execBar4Write (n : BitVec 2) (off : BitVec 34) (data : List Byte) (poison : Bool) (s : State) : Res :=
  onLink n s fun k =>
    let o := off.toNat
    if maxPayload < data.length then .next s
    else .next (s.post k ((linePieces o data.length).map (fun e =>
      .bar4 1 0 e.1 e.2 0 ((List.range e.2).map (fun i => (data.getD (e.1 - o + i) 0#8, poison))))))

/-- The XATOM function of a PCIe AtomicOp: ADD, SWP, ACAS (R154, R360). -/
def pcieFn (op : PcieAtomic) : Nat :=
  match op with
  | .fetchAdd => 0
  | .swap => 8
  | .cas => 9

/-- BAR4_ATOMICOP: `a` is the operand or the new value, `c` the value that a CAS compares with. One that is not aligned to its
width is no AtomicOp, and completes with Unsupported Request. -/
def execBar4Atomicop (n : BitVec 2) (off : BitVec 34) (op : PcieAtomic) (w64 : Bool) (a c : BitVec 64) (s : State) : Res :=
  onLink n s fun k =>
    let w := if w64 then 8 else 4
    let bytes := fun (v : BitVec 64) => (bytesOf v.toNat w).map (fun b => (b, false))
    if off.toNat % w ≠ 0 then .next (s.reply k .unsupported)
    else
      let data := if op = .cas then bytes c ++ bytes a else bytes a
      .next (s.askBar4 k (fun tag => [.bar4 2 tag off.toNat w (pcieFn op * 8 + (if w64 then 4 else 0)) data]))

end Sys2Proof.Machine
end

