-- ==== Sys2Proof/Machine/Commands.lean ====
section
/-! DEFINITION. The mailbox commands about ports and the switch (R60, R66, R432), peers (R56), interleave sets and table roots
(R127, R129), windows (R124, R142), the map (R44, R434), physical copies (R157) and firmware (R160). -/

namespace Sys2Proof.Machine

open Host Sys2Proof

/-! ### Ports and peers -/

/-- PORT_RESTART: a port that is not DARK goes DOWN first (R63), then the bring-up begins; its outcome answers the command. A
disabled port is never brought up (R60). -/
def execPortRestart (n : BitVec 2) (p : BitVec 7) (s : State) : Res :=
  asOwner n 0x21 s fun m =>
    let k := p.toNat
    if 96 ≤ k then .next (s.mailDone m codeBadArg)
    else if (s.port k).disabled then .next (s.mailDone m codeFailed)
    else
      let s := if s.laser k = dark then s else s.portDown k
      .next ((s.beginBringup k).await m 0x21 [k])

/-- The outcome of a reconfiguration for a port. -/
def State.setOutcome (s : State) (p v : Nat) : State := s.modPort p (fun P => { P with outcome := v })

/-- Step 1 of R66: the port holds its packets and drains. One that is DOWN or disabled has FAILED; one that is ready stays so. -/
def State.holdPort (s : State) (p : Nat) : State :=
  let P := s.port p
  if P.down || P.disabled then s.setOutcome p 3
  else if P.reconf = 2 then s.setOutcome p 1
  else
    let P' := if P.reconf = 1 then P else { P with reconf := 1, drained := false, farDrain := false, dimming := false }
    ((s.setPort p { P' with outcome := 0 }).modReg0 (offState p) (setBit · 5 true)).pump p

/-- The new peer table of a call, kept until step 5 of R66; a second call that brings none uses the first call's. -/
def State.keepTable (s : State) (first : Bool) (table : List (BitVec 8 × BitVec 64)) : State :=
  let tab := if first || !table.isEmpty then table.map (fun e => (e.1.toNat, e.2)) else s.host.peerTable
  { s with host := { s.host with peerTable := tab, reconfOpen := first } }

/-- The first SWITCH_RECONF call (R66, R432): the command that comes while no reconfiguration is between its two calls. -/
def execSwitchReconf (n : BitVec 2) (ports : List (BitVec 7)) (table : List (BitVec 8 × BitVec 64)) (s : State) : Res :=
  asOwner n 0x22 s fun m =>
    let l := ports.map BitVec.toNat
    if s.host.reconfOpen then .next s
    else if l.any (fun p => decide (96 ≤ p)) then .next (s.mailDone m codeBadArg)
    else
      let s := s.keepTable true table
      if l.isEmpty then .next (s.mailDone m codeOk)
      else .next ((l.foldl State.holdPort s).await m 0x22 l).reconfDone

/-- A named port at the second call: one that is ready waits for light; any other has FAILED, and goes DOWN if it is up (R432). -/
def State.awaitLight (s : State) (p : Nat) : State :=
  let P := s.port p
  if P.reconf = 2 then s.setPort p { P with reconf := 3, outcome := 0 }
  else (if P.down || P.disabled then s else s.portDown p).setOutcome p 3

/-- The second SWITCH_RECONF call, between which and the first one the reconfiguration is: with no port named it writes the peer table at
once; otherwise every named port comes to its outcome (R432). -/
def execSwitchReconfSecond (n : BitVec 2) (ports : List (BitVec 7)) (table : List (BitVec 8 × BitVec 64)) (s : State) : Res :=
  asOwner n 0x22 s fun m =>
    let l := ports.map BitVec.toNat
    if !s.host.reconfOpen then .next s
    else if l.any (fun p => decide (96 ≤ p)) then .next (s.mailDone m codeBadArg)
    else
      let s := s.keepTable false table
      if l.isEmpty then .next ((s.writePeers s.host.peerTable).mailDone m codeOk)
      else .next ((l.foldl State.awaitLight s).await m 0x122 l).reconfDone

/-- WAFER_ID: BUSY unless every port is DARK or DOWN. -/
def execWaferId (n : BitVec 2) (id : BitVec 8) (s : State) : Res :=
  asOwner n 0x28 s fun m =>
    if (List.range 96).all (fun p => (s.port p).down || s.laser p == dark) then
      .next ((s.modReg0 offSelf (setFld · 0 8 id.toNat)).mailDone m codeOk)
    else .next (s.mailDone m codeBusy)

/-- PEER_WRITE: BUSY while a reconfiguration is between its two calls (R432). -/
def execPeerWrite (n : BitVec 2) (i : BitVec 8) (v : BitVec 64) (s : State) : Res :=
  asOwner n 0x29 s fun m =>
    if s.host.reconfOpen then .next (s.mailDone m codeBusy)
    else .next ((s.writePeers [(i.toNat, v)]).mailDone m codeOk)

/-! ### Sets, roots and windows -/

/-- A table root is 512 KiB aligned and lies within 48 GiB (R129, R156). -/
def rootOk (root : Nat) : Bool := root % 2 ^ 19 == 0 && decide (root < stackBytes)

/-- The members of a set to be: 2 to 48 stacks, none disabled, the table stack among them (R122, R127). -/
def State.setOk (s : State) (ms : List Nat) (tstk : Nat) : Bool :=
  decide (2 ≤ ms.length) && ms.all (fun k => !(s.stack k).disabled) && ms.contains tstk

/-- SET_CREATE: the first free set number, or BADARG. -/
def execSetCreate (n : BitVec 2) (mem : BitVec 48) (tstk : BitVec 6) (root : BitVec 36) (s : State) : Res :=
  asOwner n 0x23 s fun m =>
    let ms := (List.range 48).filter (fun k => mem.getLsbD k)
    match (List.range 12).find? (fun k => !bit (s.reg0 (offSet k)) 60) with
    | none => .next (s.mailDone m codeBadArg)
    | some k =>
      if s.setOk ms tstk.toNat && rootOk root.toNat then
        let w := w64 (mem.toNat + ms.length * 2 ^ 48 + tstk.toNat * 2 ^ 54 + 2 ^ 60)
        let s := (s.setReg0 (offSet k) w).setReg0 (offSetroot k) (w64 (root.toNat / 2 ^ 19))
        .next (s.checkEmptyAll.mailReply m codeOk (bytesOf k 1))
      else .next (s.mailDone m codeBadArg)

/-- SET_DELETE: a defined set of whose tables no valid leaf entry remains (R127). -/
def execSetDelete (n : BitVec 2) (set : BitVec 4) (s : State) : Res :=
  asOwner n 0x24 s fun m =>
    let k := set.toNat
    if decide (k < 12) && bit (s.reg0 (offSet k)) 60 && (s.leaves (48 + k)).isEmpty then
      let s := (s.setReg0 (offSet k) 0#64).setReg0 (offSetroot k) 0#64
      .next (s.checkEmptyAll.mailReply m codeOk (bytesOf k 1))
    else .next (s.mailDone m codeBadArg)

/-- REDW_WRITE: the window's base is aligned to its size (R142). -/
def execRedwWrite (n : BitVec 2) (i : Nat) (v : BitVec 64) (s : State) : Res :=
  asOwner n 0x25 s fun m =>
    if 8 ≤ i ∨ fld v 0 44 % 2 ^ fld v 44 4 ≠ 0 then .next (s.mailDone m codeBadArg)
    else .next ((s.setReg0 (offRedw i) (w64 (fld v 0 55))).mailDone m codeOk)

def execPeerwinWrite (n : BitVec 2) (i : Nat) (v : BitVec 64) (s : State) : Res :=
  asOwner n 0x26 s fun m =>
    if 64 ≤ i then .next (s.mailDone m codeBadArg)
    else .next ((s.setReg0 (offPeerwin i) (w64 (fld v 0 22))).mailDone m codeOk)

def execStackRoot (n : BitVec 2) (k : Nat) (root : BitVec 36) (s : State) : Res :=
  asOwner n 0x2A s fun m =>
    if decide (k < 48) && rootOk root.toNat then
      .next ((s.modReg0 (offStk k) (setFld · 2 36 (root.toNat / 2 ^ 19))).checkEmptyAll.mailDone m codeOk)
    else .next (s.mailDone m codeBadArg)

def execSetRoot (n : BitVec 2) (k : Nat) (root : BitVec 36) (s : State) : Res :=
  asOwner n 0x2B s fun m =>
    if decide (k < 12) && bit (s.reg0 (offSet k)) 60 && rootOk root.toNat then
      .next ((s.setReg0 (offSetroot k) (w64 (root.toNat / 2 ^ 19))).checkEmptyAll.mailDone m codeOk)
    else .next (s.mailDone m codeBadArg)

/-! ### The map -/

/-- MAP_QUERY, for any link: site, state and generation as in MAP_QRES, here of the whole wafer (R44, R156). -/
def execMapQuery (n : BitVec 2) (lx ly : BitVec 7) (s : State) : Res :=
  onMail n 0x27 s fun m =>
    if 120 ≤ lx.toNat then .next (s.mailDone m codeBadArg)
    else
      let t := tileAt lx.toNat ly.toNat
      let gen := (s.field (ownerField t)).gen.toNat * 2 ^ 16
      let v := match (s.mapEntry t).site with
        | some site => site + gen
        | none => 2 ^ 14 + gen
      .next (s.mailReply m codeOk (bytesOf v 8))

/-- The attachment key of an agent of R434, none outside the stated ranges. -/
def agentCode (kind num : Nat) : Option Nat :=
  match kind with
  | 0 => if num < 48 then some num else none
  | 1 => if num < 96 then some (256 + num) else none
  | 2 => if num < 4 then some (512 + num) else none
  | 3 => if num = 0 then some 768 else none
  | 4 => if num < 64 then some (1024 + num) else none
  | 5 => if num = 0 then some 1280 else none
  | _ => none

/-- AGENT_QUERY, for any link: X and Y of the attachment. -/
def execAgentQuery (n : BitVec 2) (kind num : Nat) (s : State) : Res :=
  onMail n 0x2D s fun m =>
    match agentCode kind num with
    | none => .next (s.mailDone m codeBadArg)
    | some a =>
      let t := mget 0 s.attach a
      .next (s.mailReply m codeOk (bytesOf (tileX t) 1 ++ bytesOf (tileY t) 1))

/-! ### PHYS_COPY (R157) -/

/-- PHYS_COPY: BADARG outside the ranges of R157; FAILED for a stack that is disabled or FAILED. Otherwise the copy begins with its first
sector, and the command is answered after its last, or after a PCIe error. -/
def execPhysCopy (n : BitVec 2) (toHost : Bool) (ha : BitVec 50) (k : Nat) (pa : BitVec 36) (len : BitVec 26) (s : State) : Res :=
  asOwner n 0x2C s fun m =>
    let a := pa.toNat
    let l := len.toNat
    let c : PhysCopy := { toHost := toHost, ha := ha.toNat, stack := k, pa := a, left := l }
    if 48 ≤ k ∨ ha.toNat % 64 ≠ 0 ∨ a % 64 ≠ 0 ∨ l % 64 ≠ 0 ∨ l < 64 ∨ 2 ^ 24 < l ∨ stackBytes < a + l then .next (s.mailDone m codeBadArg)
    else 
      let H : HostSide := { s.host with goQ := s.host.goQ.filter (· != m) }
      .next ((({ s with host := H } : State).setCopy m (some c)).copySector m c)

/-! ### FW_STAGE (R160) -/

/-- FW_STAGE: a verified image goes into the bank that is not running, and runs from the next power-up. -/
def execFwStage (n : BitVec 2) (image : List Byte) (s : State) : Res :=
  asOwner n 0x30 s fun m =>
    if s.host.accepts image then
      let b := 1 - s.host.running
      let H : HostSide := if b = 0 then { s.host with bank0 := image, bootBank := b } else { s.host with bank1 := image, bootBank := b }
      .next (({ s with host := H } : State).mailDone m codeOk)
    else .next (s.mailDone m codeFailed)

end Sys2Proof.Machine
end

