-- ==== Sys2Proof/Machine/Control.lean ====
section
/-! DEFINITION. Branches, jumps, LOOPN, the capability words and control-register access (R334 to R347). -/

namespace Sys2Proof.Machine

open Host Sys2Proof

/-! ### Transfers (R334) -/

/-- pc + sext(off). -/
def State.target {n : Nat} (s : State) (off : BitVec n) : Int := (s.me.pc : Int) + off.toInt

/-- A target outside 0 to 10,921 (R334). -/
def badTarget (t : Int) : Bool := t < 0 || 10921 < t

/-- A taken transfer takes effect for the context's next packet (R202, R334). -/
def State.transfer (s : State) (t : Int) : State := s.modMe (fun c => { c with atEnd := .jump t.toNat })

/-- Take the transfer when `taken`: ILLEGAL with the word when its target is out of range, POISON when a
deciding register is poisoned; the lower code reports. -/
def branch (s : State) (taken poison : Bool) (t : Int) (k : State → State) : Res :=
  orTrap [cond (taken && badTarget t) 0x01 s.illegalInfo, poisonIf s poison] s fun s =>
    .next (k (if taken then s.transfer t else s))

/-- BR (R335). -/
def execBr (p : BitVec 3) (n : BitVec 1) (o : BitVec 21) (s : State) : Res :=
  branch s (xor (s.p p.toNat).isTrue (n == 1#1)) (s.p p.toNat).poison (s.target o) id

/-- BRM (R336): UNIFORM when the mask is neither all ones nor all zeros. On a mask that has not landed it goes either way and raises
nothing but ILLEGAL for its target (R334). -/
def execBrm (k : BitVec 3) (n : BitVec 1) (o : BitVec 21) (s : State) : Res :=
  let v := (s.k k.toNat).lo32
  if s.early (kKey k.toNat) then branch s (xor (v.getLsbD 0) (n == 1#1)) false (s.target o) id else
  let m := if n = 1#1 then ~~~v else v
  orTrap [cond (m == 0xFFFFFFFF#32 && badTarget (s.target o)) 0x01 s.illegalInfo,
      cond (m != 0xFFFFFFFF#32 && m != 0#32) 0x07 (w64 (v.toNat + k.toNat * 2 ^ 32)),
      poisonIf s (s.k k.toNat).poison] s fun s =>
    .next (if m = 0xFFFFFFFF#32 then s.transfer (s.target o) else s)

/-- JMP (R338). -/
def execJmp (o : BitVec 19) (s : State) : Res := branch s true false (s.target o) id

/-- The link g[d] := pc + 1, L = 1. -/
def State.link (s : State) (d : BitVec 6) : State := s.landG d.toNat (w64 (s.me.pc + 1)) false 1

/-- CALL (R338). -/
def execCall (d : BitVec 6) (o : BitVec 19) (s : State) : Res := branch s true false (s.target o) (·.link d)

/-- The target of JR, CALLR and RET: g[a] (R339). -/
def State.regTarget (s : State) (a : BitVec 6) : Int := ((s.gv a.toNat).toNat : Int)

def execJr (a : BitVec 6) (s : State) : Res := branch s true (s.gp a.toNat) (s.regTarget a) id
def execCallr (d a : BitVec 6) (s : State) : Res := branch s true (s.gp a.toNat) (s.regTarget a) (·.link d)
def execRet (a : BitVec 6) (s : State) : Res := branch s true (s.gp a.toNat) (s.regTarget a) id

/-- BRG (R337): CHECK when the duplicate predicates differ; otherwise taken when p[pa] = 1. On a predicate that has not landed it goes either
way, and CHECK tells nothing (R334). -/
def execBrg (a b : BitVec 3) (o : BitVec 19) (s : State) : Res :=
  let x := (s.p a.toNat).isTrue
  let y := (s.p b.toNat).isTrue
  let poison := (s.p a.toNat).poison || (s.p b.toNat).poison
  if s.early (pKey a.toNat) || s.early (pKey b.toNat) then
    branch s (if s.early (pKey a.toNat) then x else y) poison (s.target o) id else
  orTrap [cond (x == y && x && badTarget (s.target o)) 0x01 s.illegalInfo,
      cond (x != y) 0x08 (s.winfo (2 * 4)),
      poisonIf s poison] s fun s =>
    .next (if x then s.transfer (s.target o) else s)

/-! ### LOOPN (R340) -/

/-- LOOPN acts at issue: LB_NEST, LB_FLAGS, LB_IDX := 0 and LB_BODY. -/
def State.loopn (s : State) (a : BitVec 6) (len : BitVec 6) (flags : Nat → W64) : State :=
  s.modMe (fun c =>
    let c := (c.setCr 0x100 (setBit (s.gv a.toNat) 63 false)).setCr 0x101 0#64
    let c := c.setCr 0x102 (w64 ((c.pc + 1) % 2 ^ 14 + len.toNat * 2 ^ 14 + 2 ^ 20 + (if c.sMode then 2 ^ 21 else 0)))
    (List.range 6).foldl (fun c w => c.setCr (0x103 + w) (flags w)) c)

def execLoopn (a : BitVec 6) (sl : BitVec 10) (l : BitVec 6) (s : State) : Res :=
  let slot := sl.toNat
  let six := (List.range 6).map (fun w => s.rd (spKey (slot + w)))
  orTrap [cond (1023 < slot + 5) 0x01 s.illegalInfo,
      cond (!s.me.sMode && 1016 ≤ slot + 5) 0x02 (s.winfo (slot * 4)),
      poisonIf s (s.gp a.toNat || six.any (·.poison))] s fun s =>
    .next (s.loopn a l (fun w => (six.getD w {}).w))

/-- LOOPN.FZ: every flag zero. -/
def execLoopnFz (a : BitVec 6) (l : BitVec 6) (s : State) : Res :=
  orTrap [poisonIf s (s.gp a.toNat)] s fun s => .next (s.loopn a l (fun _ => 0#64))

/-! ### Capability words (R342 to R345) -/

/-- Land a capability in c[d], L = 1; the tag is kept only where R216 allows it. -/
def State.landCap (s : State) (d : Nat) (v : RVal) (tag : Bool) : State :=
  s.land (cKey d) { v with tag := tag && capSound v, poison := false } 1

/-- CNARW: the smallest exponent of R344. -/
def narrowExp (b0 n : Nat) : Option Nat :=
  (List.range 30).find? (fun e =>
    b0 % 2 ^ e == 0 && n % 2 ^ e == 0 && decide (n >>> e ≤ 2 ^ 28 - 1) &&
      decide (b0 + n ≤ (b0 >>> (e + 27) + 1) <<< (e + 27)))

/-- The result of CNARW (R344). -/
def narrow (v : RVal) (n : Nat) : RVal × Bool :=
  let b0 := capAddr v
  match narrowExp b0 n with
  | none => (v, false)
  | some e =>
    if v.tag && decide (capBase v ≤ b0) && decide (b0 + n ≤ capLimit v) then
      (mkCap b0 (capPerms v) (capSpace v) e ((b0 >>> e) % 2 ^ 27) (n >>> e) true false, true)
    else (v, false)

/-- The cursor moved to a' (R345). -/
def moveCursor (v : RVal) (a' : Nat) : RVal :=
  mkCap a' (capPerms v) (capSpace v) (capE v) (capB v) (capL v) v.tag false

def sameBlock (v : RVal) (a' : Nat) : Bool := a' >>> (capE v + 27) == capAddr v >>> (capE v + 27)

def execCnarw (d a : BitVec 4) (b : BitVec 6) (s : State) : Res :=
  let v := s.c a.toNat
  orTrap [poisonIf s (v.poison || s.gp b.toNat)] s fun s =>
    let r := narrow v (s.gv b.toNat).toNat
    .next (s.landCap d.toNat r.1 r.2)

/-- CADV and CADVI (R345): address + increment modulo 2^56. -/
def capAdvance (s : State) (d a : BitVec 4) (inc : Nat) : State :=
  let v := s.c a.toNat
  let a' := (capAddr v + inc) % 2 ^ 56
  s.landCap d.toNat (moveCursor v a') (v.tag && sameBlock v a')

def execCadv (d a : BitVec 4) (b : BitVec 6) (s : State) : Res :=
  orTrap [poisonIf s ((s.c a.toNat).poison || s.gp b.toNat)] s fun s =>
    .next (capAdvance s d a (s.gv b.toNat).toNat)

def execCadvi (d a : BitVec 4) (i : BitVec 13) (s : State) : Res :=
  orTrap [poisonIf s (s.c a.toNat).poison] s fun s => .next (capAdvance s d a (simm i).toNat)

def execCseek (d a : BitVec 4) (b : BitVec 6) (s : State) : Res :=
  orTrap [poisonIf s ((s.c a.toNat).poison || s.gp b.toNat)] s fun s =>
    let v := s.c a.toNat
    let x := (s.gv b.toNat).toNat
    .next (s.landCap d.toNat (moveCursor v (x % 2 ^ 56)) (v.tag && sameBlock v (x % 2 ^ 56) && x / 2 ^ 56 == 0))

def execCdrop (d a : BitVec 4) (b : BitVec 6) (s : State) : Res :=
  orTrap [poisonIf s ((s.c a.toNat).poison || s.gp b.toNat)] s fun s =>
    let v := s.c a.toNat
    .next (s.landCap d.toNat (mkCap (capAddr v) (capPerms v &&& ((s.gv b.toNat).toNat % 256)) (capSpace v)
      (capE v) (capB v) (capL v) v.tag false) v.tag)

def execCvoid (d a : BitVec 4) (s : State) : Res :=
  orTrap [poisonIf s (s.c a.toNat).poison] s fun s => .next (s.landCap d.toNat (s.c a.toNat) false)

/-- CCOPY copies the capability with its tag (R343). -/
def execCcopy (d a : BitVec 4) (s : State) : Res :=
  orTrap [poisonIf s (s.c a.toNat).poison] s fun s => .next (s.land (cKey d.toNat) (s.c a.toNat) 1)

/-- Read words: a general register receives a field of the capability (R343). -/
def capRead (d : BitVec 6) (a : BitVec 4) (f : RVal → Nat) (s : State) : Res :=
  orTrap [poisonIf s (s.c a.toNat).poison] s fun s => .next (s.landG d.toNat (w64 (f (s.c a.toNat))) false 1)

def execCrdlo (d : BitVec 6) (a : BitVec 4) (s : State) : Res := capRead d a capBase s
def execCrdsz (d : BitVec 6) (a : BitVec 4) (s : State) : Res := capRead d a (fun v => capLimit v - capBase v) s
def execCrdcu (d : BitVec 6) (a : BitVec 4) (s : State) : Res := capRead d a capAddr s
def execCrdpm (d : BitVec 6) (a : BitVec 4) (s : State) : Res := capRead d a capPerms s
def execCrdsp (d : BitVec 6) (a : BitVec 4) (s : State) : Res := capRead d a capSpace s
def execCrdvt (d : BitVec 6) (a : BitVec 4) (s : State) : Res := capRead d a (·.tag.toNat) s

/-- CDIST: sext(ca.address − cb.address, 57) (R343). -/
def execCdist (d : BitVec 6) (a b : BitVec 4) (s : State) : Res :=
  orTrap [poisonIf s ((s.c a.toNat).poison || (s.c b.toNat).poison)] s fun s =>
    let x : Int := (capAddr (s.c a.toNat) : Int) - capAddr (s.c b.toNat)
    .next (s.landG d.toNat (BitVec.ofInt 64 (sext (wrap x 57) 57)) false 1)

/-! ### Control registers (R346, R347) -/

/-- ILLEGAL for an unassigned index, PRIV where the register's rules forbid the access (R346). -/
def cregIllegal (s : State) (r : BitVec 12) : Option (Nat × W64) :=
  cond (!cregAssigned r.toNat) 0x01 s.illegalInfo

def cregPriv (s : State) (forbidden : Bool) (r : BitVec 12) : Option (Nat × W64) :=
  cond (!s.me.sMode && forbidden) 0x02 (s.winfo (r.toNat * 4))

/-- MFC: land(g[d], value at issue), L = 2; never poisoned. -/
def execMfc (g : BitVec 6) (r : BitVec 12) (s : State) : Res :=
  orTrap [cregIllegal s r, cregPriv s (cregReadPriv r.toNat) r] s fun s =>
    .next (s.landG g.toNat (s.mfcValue r.toNat) false 2)

/-- MTC, MSC, MCC: the write is queued and takes effect by R206. -/
def cregOp (op : Nat) (g : BitVec 6) (r : BitVec 12) (s : State) : Res :=
  orTrap [cregIllegal s r, cregPriv s (!cregWriteUser r.toNat) r, poisonIf s (s.gp g.toNat)] s fun s =>
    .next (s.queueCreg r.toNat op (s.gv g.toNat))

def execMtc (g : BitVec 6) (r : BitVec 12) (s : State) : Res := cregOp 0 g r s
def execMsc (g : BitVec 6) (r : BitVec 12) (s : State) : Res := cregOp 1 g r s
def execMcc (g : BitVec 6) (r : BitVec 12) (s : State) : Res := cregOp 2 g r s

end Sys2Proof.Machine
end

