-- ==== Sys2Proof/Machine/Misc.lean ====
section
/-! DEFINITION. The MISC words (R320 to R326). -/

namespace Sys2Proof.Machine

open Host Sys2Proof

/-- NOP has no effect (R320). -/
def execNop (s : State) : Res := .next s

/-- CTX_EINFO of BRKPT and SYSCALL: word, and bits [24:0] of the word in [26:2] (R230, R321). -/
def callInfo (s : State) : W64 := s.winfo (s.cur.raw.toNat % 2 ^ 25 * 4)

/-- BRKPT (R321). Its code stands in CTX_EINFO through the word itself. -/
def execBrkpt (_k : BitVec 18) (s : State) : Res := .next (s.raiseAfter 0x13 (callInfo s))

/-- SYSCALL (R321). -/
def execSyscall (_k : BitVec 18) (s : State) : Res := .next (s.raiseAfter 0x14 (callInfo s))

/-- ERET: PRIV in U mode; else the packet ends with the return of R228 (R322). -/
def execEret (s : State) : Res :=
  orTrap [cond (!s.me.sMode) 0x02 (s.winfo 0)] s fun s =>
    .next (s.modMe (fun c => { c with atEnd := .eret }))

/-- CKEQ (R323): CHECK on a mismatch, POISON on a poisoned operand; the lower code reports. -/
def execCkeq (a b : BitVec 6) (s : State) : Res :=
  orTrap [cond (s.gv a.toNat != s.gv b.toNat) 0x08 (s.winfo 0),
    poisonIf s (s.gp a.toNat || s.gp b.toNat)] s .next

/-- SLEEP: ILLEGAL in context 0 (R324). -/
def execSleep (s : State) : Res :=
  orTrap [cond (s.cur.ctx == 0) 0x01 s.illegalInfo] s fun s =>
    .next (s.modMe (fun c => { c with atEnd := .sleep }))

/-- CTXGO (R325): a release at scope TILE, then in cycle w + 2 the start of context g[b] at packet g[a], with a status. The context issues no
later word until the status has landed (R312). -/
def execCtxgo (d a b : BitVec 6) (s : State) : Res :=
  orTrap [poisonIf s (s.gp a.toNat || s.gp b.toNat)] s fun s =>
  scopeOr false true 1 s fun s =>
    let e := (s.gv a.toNat).toNat
    let k := (s.gv b.toNat).toNat
    let s := s.modHere Tile.release
    if !(1 ≤ k && k ≤ 3) || 10921 < e then .next (s.landHold (gKey d.toNat) (gval 2#64 false))
    else
      let g : CtxGo := { ctx := s.cur.ctx, reg := d.toNat, k := k, pc := e, due := s.here.cycle + 2, seed := s.seed }
      let s := (s.modHere (fun T => { T with goes := T.goes ++ [g] })).modMe (fun c => { c with hold := g.due })
      .next (s.modMe (·.flyGo s.here.cycle s.seed (gKey d.toNat)))

/-- HALT (R326). -/
def execHalt (s : State) : Res := .next (s.modMe (fun c => { c with atEnd := .halt }))

/-- YIELD (R326). -/
def execYield (s : State) : Res := .next (s.modMe (fun c => { c with atEnd := .yield }))

end Sys2Proof.Machine
end

