-- ==== Sys2Proof/Machine/Spdm.lean ====
section
/-! DEFINITION. The SPDM responder of the management controller (R161, R162): one connection for DOE of each PCIe function and one for
MCTP. The spec names SPDM 1.3 and gives no message layout: the codes, the order in which a connection proceeds, and the
fields are those of the SPDM standard (PRESUMED, log 45), as far as they go here. -/

namespace Sys2Proof.Machine

open Host Sys2Proof

/-! ### Messages -/

/-- Transfer size in bytes (R161). -/
def spdmTransfer : Nat := 4096

def State.conn (s : State) (v : Nat) : SpdmConn := mget {} s.host.spdm v

def State.modConn (s : State) (v : Nat) (g : SpdmConn → SpdmConn) : State :=
  { s with host := { s.host with spdm := mput s.host.spdm v (g (s.conn v)) } }

/-- A message leaves over the transport the request came by, in the version in use there. -/
def State.say (s : State) (v code : Nat) (body : List Byte) : State :=
  { s with host := { s.host with spdmSent := s.host.spdmSent ++ [{ via := v, ver := (s.conn v).ver, code := code, body := body }] } }

/-- ERROR: 0x01 InvalidRequest, 0x04 UnexpectedRequest, 0x05 Unspecified, 0x07 UnsupportedRequest, 0x0F LargeResponse, 0x41
VersionMismatch. -/
def State.sayError (s : State) (v e : Nat) : State := s.say v 0x7F [BitVec.ofNat 8 e]

/-- A response; one above the transfer size is fetched by CHUNK_GET. -/
def State.answerSpdm (s : State) (v code : Nat) (body : List Byte) : State :=
  if spdmTransfer < body.length then (s.modConn v (fun c => { c with resp := body })).sayError v 0x0F
  else s.say v code body

/-- The transport over which the step's request comes: DOE of function 0 to 3, or MCTP. It is a choice of the step (log 4). -/
def State.spdmVia (s : State) : Nat := s.chosen 964

/-- A request at a stage of its connection: nothing answers without power or over a transport that does not exist, every request is an
error when no firmware verified (R160), and a request out of order is unexpected. -/
def spdmAt (stage : Nat) (s : State) (k : Nat → State → State) : Res :=
  let v := s.spdmVia
  if s.module.step = 0 ∨ 5 ≤ v then .next s
  else if s.module.step = 2 then .next (s.sayError v 0x05)
  else if (s.conn v).stage < stage then .next (s.sayError v 0x04)
  else .next (k v s)

def State.setStage (s : State) (v n : Nat) : State := s.modConn v (fun c => { c with stage := n })

/-! ### Version, capabilities, algorithms -/

/-- GET_VERSION: versions 1.2 and 1.3; a connection begins, in the version 1.0 of GET_VERSION itself. -/
def execGetVersion (s : State) : Res :=
  spdmAt 0 s fun v s => (s.modConn v (fun _ => { stage := 1, ver := 0x10#8 })).answerSpdm v 0x04 [0x12#8, 0x13#8]

/-- GET_CAPABILITIES: the version it carries (a choice of the step), 1.2 or 1.3, is the connection's from now on; certificates, challenges, signed and unsigned
measurements, chunks; the transfer size. -/
def execGetCapabilities (s : State) : Res :=
  spdmAt 1 s fun v s =>
    let ver := BitVec.ofNat 8 (s.chosen 965)
    if ver = 0x12#8 ∨ ver = 0x13#8 then
      (s.modConn v (fun c => { c with stage := 2, ver := ver })).answerSpdm v 0x61 (bytesOf (2 + 4 + 16 + 2 ^ 17) 4 ++ bytesOf spdmTransfer 4)
    else s.sayError v 0x41

/-- NEGOTIATE_ALGORITHMS: ECDSA P-521 for signing, SHA-512 for hashing and measurements. -/
def execNegotiateAlgorithms (s : State) : Res :=
  spdmAt 2 s fun v s => (s.setStage v 3).answerSpdm v 0x63 (bytesOf 0x100 4 ++ bytesOf 4 4 ++ bytesOf 8 4)

/-! ### Certificates and challenges -/

def digestBytes (d : BitVec 512) : List Byte := bytesOf d.toNat 64

/-- GET_DIGESTS: slot 0. -/
def execGetDigests (s : State) : Res :=
  spdmAt 3 s fun v s => s.answerSpdm v 0x01 (1#8 :: digestBytes (Config.sha512 (Config.certChain 0)))

/-- GET_CERTIFICATE: a portion of slot 0's chain, its length and what remains. -/
def execGetCertificate (slot : BitVec 8) (off len : BitVec 16) (s : State) : Res :=
  spdmAt 3 s fun v s =>
    let chain := Config.certChain 0
    if slot ≠ 0#8 ∨ chain.length < off.toNat then s.sayError v 0x01
    else
      let part := (chain.drop off.toNat).take len.toNat
      s.answerSpdm v 0x02 (bytesOf part.length 2 ++ bytesOf (chain.length - off.toNat - part.length) 2 ++ part)

/-- The responder's nonce of this step. -/
def State.nonce (s : State) : List Byte := bytesOf (Config.freeNonce s.seed).toNat 32

/-- CHALLENGE: the chain's digest, a nonce, and a signature over both nonces and the digest. -/
def execChallenge (slot : BitVec 8) (nonce : BitVec 256) (s : State) : Res :=
  spdmAt 3 s fun v s =>
    if slot ≠ 0#8 then s.sayError v 0x01
    else
      let body := digestBytes (Config.sha512 (Config.certChain 0)) ++ s.nonce
      s.answerSpdm v 0x03 (body ++ Config.ecdsaSign (bytesOf nonce.toNat 32 ++ body) s.seed)

/-! ### Measurements -/

/-- What measurement 5 covers: the interleave sets, the reduction windows and the peer windows that are present (R162). -/
def State.covered (s : State) : List Byte :=
  let regs := (List.range 12).map offSet ++ (List.range 8).map offRedw ++ (List.range 64).map offPeerwin
  regs.flatMap (fun o => bytesOf (s.reg0 o).toNat 8)

/-- A measurement block: its index and its value; indices 1 to 3 are the digests taken at power-up, 4 is raw, 5 is of the present
registers (R162). -/
def State.measurement (s : State) (i : Nat) : List Byte :=
  BitVec.ofNat 8 i ::
    (if i = 4 then bytesOf s.host.version 8
     else digestBytes (if i = 5 then Config.sha512 s.covered else mget 0#512 s.host.digests i))

/-- GET_MEASUREMENTS: operation 0 asks for the number of blocks, 1 to 5 for one, 0xFF for all. -/
def execGetMeasurements (op : BitVec 8) (signed : Bool) (nonce : BitVec 256) (s : State) : Res :=
  spdmAt 3 s fun v s =>
    let o := op.toNat
    if 5 < o ∧ o ≠ 0xFF then s.sayError v 0x01
    else
      let body :=
        if o = 0 then [5#8]
        else if o = 0xFF then [1, 2, 3, 4, 5].flatMap s.measurement
        else s.measurement o
      s.answerSpdm v 0x60
        (if signed then body ++ s.nonce ++ Config.ecdsaSign (bytesOf nonce.toNat 32 ++ body ++ s.nonce) s.seed else body)

/-! ### Chunks -/

/-- CHUNK_SEND: one chunk of a large request. No request that the responder supports is larger than a transfer, so a completed
large request is an unsupported one. -/
def execChunkSend (last : Bool) (chunk : List Byte) (s : State) : Res :=
  spdmAt 3 s fun v s =>
    if spdmTransfer < chunk.length then s.sayError v 0x01
    else
      (s.modConn v (fun c => { c with req := if last then [] else c.req ++ chunk })).answerSpdm v 0x05
        (if last then [0x7F#8, 0x07#8] else [])

/-- CHUNK_GET: one chunk of the large response. -/
def execChunkGet (seq : BitVec 16) (s : State) : Res :=
  spdmAt 3 s fun v s =>
    let part := ((s.conn v).resp.drop (spdmTransfer * seq.toNat)).take spdmTransfer
    if part.isEmpty then s.sayError v 0x04 else s.answerSpdm v 0x06 part

/-- The request codes that the responder supports. -/
def spdmRequests : List Nat := [0x81, 0x82, 0x83, 0x84, 0x85, 0x86, 0xE0, 0xE1, 0xE3]

/-- SPDM_UNSUPPORTED: ERROR UnsupportedRequest to any request code that the responder does not support. -/
def execSpdmUnsupported (code : BitVec 8) (s : State) : Res :=
  if spdmRequests.contains code.toNat then .next s else spdmAt 0 s fun v s => s.sayError v 0x07

end Sys2Proof.Machine
end

