-- ==== Sys2Proof/Machine/Transc.lean ====
section
/-! DEFINITION. The transcendental functions of R378. The exact result y is enclosed between two dyadic
numbers that differ by less than 2^-120 of y's last place; the results that R378 admits are the FP32
values within its bound of y with y's sign; which of them the hardware returns is `Config.vxfPick`. -/

namespace Sys2Proof.Machine

open Host Sys2Proof

/-- Fraction bits of the fixed-point work. -/
def fx : Nat := 200

/-- ln 2 in units of 2^-200, from the series 2 × Σ 1 / ((2k+1) 3^(2k+1)). -/
def ln2Loop : Nat → Nat → Nat → Nat → Nat
  | 0, _, _, acc => acc
  | n + 1, k, p, acc => ln2Loop n (k + 1) (p / 9) (acc + p / (2 * k + 1))

def ln2 : Nat := 2 * ln2Loop 70 0 (2 ^ fx / 3) 0

/-- e^z for z in units of 2^-200, below 1: the Taylor series. -/
def expLoop : Nat → Nat → Nat → Nat → Nat → Nat
  | 0, _, _, _, acc => acc
  | n + 1, k, z, term, acc =>
    let term := term * z / 2 ^ fx / k
    expLoop n (k + 1) z term (acc + term)

def expFx (z : Nat) : Nat := expLoop 60 1 z (2 ^ fx) (2 ^ fx)

/-- 2^f for a fraction f in units of 2^-200. -/
def exp2Fx (f : Nat) : Nat := expFx (f * ln2 / 2 ^ fx)

/-- 2 × artanh(z) for z in units of 2^-200, z ≤ 1/3. -/
def artanhLoop : Nat → Nat → Nat → Nat → Nat → Nat
  | 0, _, _, _, acc => acc
  | n + 1, k, z2, p, acc => artanhLoop n (k + 1) z2 (p * z2 / 2 ^ fx) (acc + p / (2 * k + 1))

/-- ln m for m in units of 2^-200, 1 ≤ m < 2. -/
def lnFx (m : Nat) : Nat :=
  let z := (m - 2 ^ fx) * 2 ^ fx / (m + 2 ^ fx)
  2 * artanhLoop 70 0 (z * z / 2 ^ fx) z 0

/-- The integer square root, `n` result bits from the top. -/
def isqrtLoop (x : Nat) : Nat → Nat → Nat
  | 0, r => r
  | n + 1, r => isqrtLoop x n (if (r + 2 ^ n) * (r + 2 ^ n) ≤ x then r + 2 ^ n else r)

/-- A positive enclosure lo × 2^e ≤ y ≤ hi × 2^e. -/
structure Encl where
  lo : Nat
  hi : Nat
  e : Int

/-- A fixed-point value known to a few units, scaled by 2^n. -/
def around (v : Nat) (n : Int) : Encl := ⟨v - 2 ^ 40, v + 2 ^ 40, n - fx⟩

/-- t (sign, numerator in units of 2^-200 of t) as its floor and its fraction. -/
def floorFrac (neg : Bool) (t : Nat) : Int × Nat :=
  if neg then
    let up := (t + (2 ^ fx - 1)) / 2 ^ fx
    (-(up : Int), up * 2 ^ fx - t)
  else ((t / 2 ^ fx : Nat), t % 2 ^ fx)

/-- m × 2^e in units of 2^-200, rounded down. -/
def toFx (m : Nat) (e : Int) : Nat :=
  let k := e + fx
  if 0 ≤ k then m <<< k.toNat else m >>> (-k).toNat

/-- e^x or 2^x for x = ± t (units of 2^-200): mantissa in units of 2^-200 and exponent. -/
def exp2Of (neg : Bool) (t : Nat) : Nat × Int :=
  let (n, f) := floorFrac neg t
  (exp2Fx f, n)

/-- e^x for x = ± t. -/
def expOf (neg : Bool) (t : Nat) : Nat × Int := exp2Of neg (t * 2 ^ fx / ln2)

/-- The magnitude of y for a finite operand with no exact or special case, and its sign. -/
def vxfExact (fn : Nat) (s : Bool) (m : Nat) (e : Int) : Bool × Encl :=
  let top : Int := (Nat.log2 m : Int) + e
  if fn = 0 then
    let (v, n) := exp2Of s (toFx m e)
    (false, around v n)
  else if fn = 1 then
    -- log2 x = top + ln(m / 2^top) / ln 2
    let frac := lnFx (toFx m (e - top)) * 2 ^ fx / ln2
    if 0 ≤ top then (false, around (top.toNat * 2 ^ fx + frac) 0)
    else (true, around ((-top).toNat * 2 ^ fx - frac) 0)
  else if fn = 2 then
    let v := 2 ^ (2 * fx) / m
    (s, ⟨v, v + 1, -(2 * (fx : Int)) - e⟩)
  else if fn = 3 then
    -- 1/sqrt(m 2^e): with e even
    let (m, e) := if e % 2 = 0 then (m, e) else (2 * m, e - 1)
    let r := isqrtLoop (2 ^ (4 * fx) / m) 420 0
    (false, ⟨r, r + 2, -(2 * (fx : Int)) - e / 2⟩)
  else if fn = 4 then
    let (v, n) := expOf false (2 * toFx m e)
    let w := v <<< n.toNat
    let q := (w - 2 ^ fx) * 2 ^ fx / (w + 2 ^ fx)
    (s, around q 0)
  else
    -- below -200 the result lies under every FP32 value: the admissible results are the same
    let t := if toFx m e ≤ 200 * 2 ^ fx then toFx m e else 200 * 2 ^ fx
    if s then
      let (v, n) := expOf true t
      let w := toFx v (n - fx)
      (false, around (v * 2 ^ fx / (2 ^ fx + w)) n)
    else
      let (v, n) := expOf true t
      let w := toFx v (n - fx)
      (false, around (2 ^ fx * 2 ^ fx / (2 ^ fx + w)) 0)

/-- An FP32 code as its place in the order of values. -/
def codeIdx (code : Nat) : Int := if code / 2 ^ 31 = 1 then -((code % 2 ^ 31 : Nat) : Int) else (code : Int)

def num (x : Int) (e : Int) : Num := .fin (decide (x < 0)) x.natAbs e

/-- The results R378 admits for the enclosure: the FP32 values within `ulps` units in the last place (or
2^-24 when fn = 1 and |y| < 1) of y, of y's sign: lowest and highest magnitude code. -/
def vxfRange (fn ulps : Nat) (E : Encl) : Nat × Nat :=
  let top : Int := (Nat.log2 E.lo : Int) + E.e
  let ue : Int := (if top < -126 then -126 else top) - 23
  let bm : Nat := if fn = 1 ∧ top < 0 then 1 else ulps
  let be : Int := if fn = 1 ∧ top < 0 then -24 else ue
  let q := if be ≤ E.e then be else E.e
  let bound := scaled false bm be q
  let lo := scaled false E.lo E.e q - bound
  let hi := scaled false E.hi E.e q + bound
  let cl := if lo ≤ 0 then 0 else fp32.round .rup false false 0 (num lo q)
  let ch := fp32.round .rtz false false 0 (num hi q)
  (cl, if fp32.maxCode < ch then fp32.maxCode else ch)

/-- One lane of VEXP2, VLOG2, VRCP, VRSQ, VTANH, VSIG (fn 0 to 5) (R378). -/
def vxf (fn : Nat) (x : W32) : Nat :=
  let inf := fp32.infCode
  let nan := fp32.nanCode
  let sg := 2 ^ 31
  let one := 127 * 2 ^ 23
  let pick := fun (s : Bool) (E : Encl) (ulps : Nat) =>
    let (lo, hi) := vxfRange fn ulps E
    (if s then sg else 0) + lo + Config.vxfPick fn x % (hi - lo + 1)
  match fp32.decode x.toNat with
  | .nan => nan
  | .inf s =>
    if fn = 0 then (if s then 0 else inf)
    else if fn = 1 then (if s then nan else inf)
    else if fn = 2 then (if s then sg else 0)
    else if fn = 3 then (if s then nan else 0)
    else if fn = 4 then (if s then sg + one else one)
    else (if s then 0 else one)
  | .fin s m e =>
    let ge := fun (k : Int) => !(Num.fin false m e).lt (numOfInt k)      -- |x| ≥ k
    let isPow := m == 2 ^ Nat.log2 m
    let top : Int := (Nat.log2 m : Int) + e
    if m = 0 then
      if fn = 0 then one
      else if fn = 1 then sg + inf
      else if fn = 2 ∨ fn = 3 then (if s then sg + inf else inf)
      else if fn = 4 then (if s then sg else 0)
      else 126 * 2 ^ 23
    else if fn = 0 then
      if !s && ge 128 then inf
      else if s && ge 151 then 0
      else if m % 2 ^ (-e).toNat = 0 ∧ (!s || !(ge 150)) then
        -- an integer from -149 to 127
        let k := (toFx m e / 2 ^ fx : Nat)
        fp32.rne false (.fin false 1 (if s then -(k : Int) else k))
      else let (t, E) := vxfExact 0 s m e; pick t E 1
    else if fn = 1 then
      if s then nan
      else if isPow then fp32.rne false (numOfInt top)
      else let (t, E) := vxfExact 1 s m e; pick t E 1
    else if fn = 2 then
      if isPow && decide (-126 ≤ -top) && decide (-top ≤ 127) then fp32.rne false (.fin s 1 (-top))
      else
        let (t, E) := vxfExact 2 s m e
        -- above 2^128 no finite result lies within the bound; for 2^128 itself, the two largest do
        if (Num.fin false (2 ^ 128) 0).lt (.fin false E.lo E.e) then
          (if t then sg else 0) + (if Config.vxfPick fn x % 2 = 0 then inf else fp32.maxCode)
        else pick t E 1
    else if fn = 3 then
      if s then nan
      else if isPow && decide (top % 2 = 0) then fp32.rne false (.fin false 1 (-(top / 2)))
      else let (t, E) := vxfExact 3 s m e; pick t E 1
    else if fn = 4 then
      if (Num.fin false 1 (-12)).lt (.fin false m e) then
        if ge 9 then (if s then sg + one else one)
        else let (t, E) := vxfExact 4 s m e; pick t E 2
      else x.toNat
    else if !s && ge 17 then one
    else let (t, E) := vxfExact 5 s m e; pick t E 2

end Sys2Proof.Machine
end

