-- ==== Sys2Proof/Machine/Vector.lean ====
section
/-! DEFINITION. Vector words (R365 to R378): integer and floating-point lanes, compares into masks,
VMISC, reductions, conversions and the transcendental functions. -/

namespace Sys2Proof.Machine

open Host Sys2Proof

/-! ### Shared forms (R366, R367) -/

/-- Lane i of v[n] as 32 bits, and its poison. -/
def State.lv (s : State) (n : BitVec 5) (i : Nat) : W32 := (s.lane n.toNat i).lo32
def State.lp (s : State) (n : BitVec 5) (i : Nat) : Bool := (s.lane n.toNat i).poison

/-- A word under mask k: a poisoned mask is a consumption; the active lanes of v[d] receive `f i`. -/
def masked (d : BitVec 5) (k : BitVec 3) (lat : Nat) (f : Nat → RVal) (s : State) : Res :=
  orTrap [poisonIf s (s.k k.toNat).poison] s fun s =>
    .next (s.landLanes d.toNat ((s.active k.toNat).map (fun (i : Nat) => (i, f i))) lat)

/-- lane[i] := f x y. -/
def lane2 (d a b : BitVec 5) (k : BitVec 3) (lat : Nat) (f : W32 → W32 → W32) (s : State) : Res :=
  masked d k lat (fun i => lval (f (s.lv a i) (s.lv b i)) (s.lp a i || s.lp b i)) s

/-- lane[i] := f x. -/
def lane1 (d a : BitVec 5) (k : BitVec 3) (lat : Nat) (f : W32 → W32) (s : State) : Res :=
  masked d k lat (fun i => lval (f (s.lv a i)) (s.lp a i)) s

/-! ### VINT (R369), L = 3 -/

/-- The carry-less product of two 32-bit values. -/
def clmul (x y : Nat) : Nat :=
  (List.range 32).foldl (fun (acc : Nat) (j : Nat) => if y.testBit j then acc ^^^ (x <<< j) else acc) 0

def vmulhOf (z : BitVec 1) (x y : W32) : W32 :=
  if z = 1#1 then BitVec.ofNat 32 (x.toNat * y.toNat / 2 ^ 32) else BitVec.ofInt 32 (x.toInt * y.toInt / 2 ^ 32)

/-- Ones of a 32-bit value. -/
def popCount32 (x : W32) : Nat := (List.range 32).foldl (fun (n : Nat) (i : Nat) => if x.getLsbD i then n + 1 else n) 0

/-- Less than: unsigned when z = 1. -/
def ltZ (z : BitVec 1) (x y : W32) : Bool := if z = 1#1 then x.ult y else x.slt y

def execVadd (d a b : BitVec 5) (k : BitVec 3) (s : State) : Res := lane2 d a b k 3 (· + ·) s
def execVsub (d a b : BitVec 5) (k : BitVec 3) (s : State) : Res := lane2 d a b k 3 (· - ·) s
def execVmul (d a b : BitVec 5) (k : BitVec 3) (s : State) : Res := lane2 d a b k 3 (· * ·) s
def execVmulh (d a b : BitVec 5) (k : BitVec 3) (z : BitVec 1) (s : State) : Res := lane2 d a b k 3 (vmulhOf z) s
def execVmin (d a b : BitVec 5) (k : BitVec 3) (z : BitVec 1) (s : State) : Res :=
  lane2 d a b k 3 (fun x y => if ltZ z x y then x else y) s
def execVmax (d a b : BitVec 5) (k : BitVec 3) (z : BitVec 1) (s : State) : Res :=
  lane2 d a b k 3 (fun x y => if ltZ z x y then y else x) s
/-- |x|, with −2^31 giving −2^31. -/
def execVabs (d a : BitVec 5) (k : BitVec 3) (s : State) : Res := lane1 d a k 3 (fun x => if x.msb then -x else x) s
def execVneg (d a : BitVec 5) (k : BitVec 3) (s : State) : Res := lane1 d a k 3 (fun x => -x) s
def execVand (d a b : BitVec 5) (k : BitVec 3) (s : State) : Res :=
  lane2 d a b k 3 (· &&& ·) s
def execVor (d a b : BitVec 5) (k : BitVec 3) (s : State) : Res :=
  lane2 d a b k 3 (· ||| ·) s
def execVxor (d a b : BitVec 5) (k : BitVec 3) (s : State) : Res :=
  lane2 d a b k 3 (· ^^^ ·) s
def execVshl (d a b : BitVec 5) (k : BitVec 3) (s : State) : Res :=
  lane2 d a b k 3 (fun x y => x <<< (y.toNat % 32)) s
def execVshr (d a b : BitVec 5) (k : BitVec 3) (s : State) : Res :=
  lane2 d a b k 3 (fun x y => x >>> (y.toNat % 32)) s
def execVsha (d a b : BitVec 5) (k : BitVec 3) (s : State) : Res :=
  lane2 d a b k 3 (fun x y => x.sshiftRight (y.toNat % 32)) s
def execVclmul (d a b : BitVec 5) (k : BitVec 3) (s : State) : Res :=
  lane2 d a b k 3 (fun x y => BitVec.ofNat 32 (clmul x.toNat y.toNat)) s
def execVclmulh (d a b : BitVec 5) (k : BitVec 3) (s : State) : Res :=
  lane2 d a b k 3 (fun x y => BitVec.ofNat 32 (clmul x.toNat y.toNat / 2 ^ 32)) s
def execVpopc (d a : BitVec 5) (k : BitVec 3) (s : State) : Res :=
  lane1 d a k 3 (fun x => BitVec.ofNat 32 (popCount32 x)) s

/-! ### VFLT, VFLT2, VFMA (R370, R371) -/

/-- An operand of the named type with FZI applied, as an exact value (R244, R365). -/
def operand (t : BitVec 2) (fzi : BitVec 1) (x : W32) : Num :=
  let F := arithFmt t.toNat
  F.decode (F.flush (fzi == 1#1) x.toNat)

/-- A result rounded once, in RNE, with FZO applied, as a lane (R248, R365). -/
def result (t : BitVec 2) (fzo : BitVec 1) (x : Num) : W32 :=
  BitVec.ofNat 32 ((arithFmt t.toNat).rne (fzo == 1#1) x)

/-- FADD, FSUB, FMUL: lane[i] := rne(f x y), L = 4. -/
def flt2 (d a b : BitVec 5) (k : BitVec 3) (t : BitVec 2) (i u : BitVec 1) (f : Num → Num → Num) (s : State) : Res :=
  lane2 d a b k 4 (fun x y => result t u (f (operand t i x) (operand t i y))) s

def execFadd (d a b : BitVec 5) (k : BitVec 3) (t : BitVec 2) (i u : BitVec 1) (s : State) : Res :=
  flt2 d a b k t i u Num.add s
def execFsub (d a b : BitVec 5) (k : BitVec 3) (t : BitVec 2) (i u : BitVec 1) (s : State) : Res :=
  flt2 d a b k t i u (fun x y => x.add y.negate) s
def execFmul (d a b : BitVec 5) (k : BitVec 3) (t : BitVec 2) (i u : BitVec 1) (s : State) : Res :=
  flt2 d a b k t i u Num.mul s

/-- FMIN and FMAX on flushed operands. -/
def fltMinMax (mx : Bool) (d a b : BitVec 5) (k : BitVec 3) (t : BitVec 2) (i u : BitVec 1) (s : State) : Res :=
  let F := arithFmt t.toNat
  lane2 d a b k 4 (fun x y => BitVec.ofNat 32
    (F.minMax mx (u == 1#1) (F.flush (i == 1#1) x.toNat) (F.flush (i == 1#1) y.toNat))) s

def execFmin (d a b : BitVec 5) (k : BitVec 3) (t : BitVec 2) (i u : BitVec 1) (s : State) : Res :=
  fltMinMax false d a b k t i u s
def execFmax (d a b : BitVec 5) (k : BitVec 3) (t : BitVec 2) (i u : BitVec 1) (s : State) : Res :=
  fltMinMax true d a b k t i u s

/-- FABS, FNEG, FCLASS: a function of the element's code, L = 3 (R371). -/
def flt1 (d a : BitVec 5) (k : BitVec 3) (t : BitVec 2) (f : FFmt → Nat → Nat) (s : State) : Res :=
  let F := arithFmt t.toNat
  lane1 d a k 3 (fun x => BitVec.ofNat 32 (f F (x.toNat % 2 ^ F.width))) s

def execFabs (d a : BitVec 5) (k : BitVec 3) (t : BitVec 2) (s : State) : Res := flt1 d a k t (fun F e => F.mag e) s
def execFneg (d a : BitVec 5) (k : BitVec 3) (t : BitVec 2) (s : State) : Res :=
  flt1 d a k t (fun F e => e ^^^ F.sign) s
def execFclass (d a : BitVec 5) (k : BitVec 3) (t : BitVec 2) (s : State) : Res := flt1 d a k t FFmt.classify s

/-- The fused forms: the addend is the old lane of v[d], L = 6 (R370). -/
def fused (d a b : BitVec 5) (k : BitVec 3) (t : BitVec 2) (fi u : BitVec 1) (f : Num → Num → Num) (s : State) : Res :=
  masked d k 6 (fun i =>
    let x := operand t fi (s.lv a i)
    let y := operand t fi (s.lv b i)
    let w := operand t fi (s.lv d i)
    lval (result t u (f (x.mul y) w)) (s.lp a i || s.lp b i || s.lp d i)) s

def execVfma (d a b : BitVec 5) (k : BitVec 3) (t : BitVec 2) (i u : BitVec 1) (s : State) : Res :=
  fused d a b k t i u Num.add s
def execVfms (d a b : BitVec 5) (k : BitVec 3) (t : BitVec 2) (i u : BitVec 1) (s : State) : Res :=
  fused d a b k t i u (fun p w => p.add w.negate) s
def execVfnma (d a b : BitVec 5) (k : BitVec 3) (t : BitVec 2) (i u : BitVec 1) (s : State) : Res :=
  fused d a b k t i u (fun p w => p.negate.add w) s

/-! ### VCMP (R372) -/

/-- The exact value of a lane in a VCMP float type: 2 F32, 3 F16, 4 BF16. -/
def vcmpNum (t : BitVec 3) (x : W32) : Num :=
  let F := arithFmt (t.toNat - 2)
  F.decode (x.toNat % 2 ^ F.width)

def vcmpEq (t : BitVec 3) (x y : W32) : Bool :=
  if 2 ≤ t.toNat then (vcmpNum t x).eqv (vcmpNum t y) else x == y
def vcmpLt (t : BitVec 3) (x y : W32) : Bool :=
  if t.toNat = 0 then x.slt y else if t.toNat = 1 then x.ult y else (vcmpNum t x).lt (vcmpNum t y)
def vcmpUnord (t : BitVec 3) (x y : W32) : Bool := vcmpNum t x == .nan || vcmpNum t y == .nan

/-- The whole mask is written: 0 for lanes that are not active. -/
def vcmp (d : BitVec 3) (a b : BitVec 5) (k : BitVec 3) (f : W32 → W32 → Bool) (s : State) : Res :=
  orTrap [poisonIf s (s.k k.toNat).poison] s fun s =>
    let A := s.active k.toNat
    .next (s.landK d.toNat (maskOf (fun i => A.contains i && f (s.lv a i) (s.lv b i)))
      (A.any (fun i => s.lp a i || s.lp b i)) 3)

def execVcmpEq (d : BitVec 3) (a b : BitVec 5) (k t : BitVec 3) (s : State) : Res := vcmp d a b k (vcmpEq t) s
def execVcmpNe (d : BitVec 3) (a b : BitVec 5) (k t : BitVec 3) (s : State) : Res :=
  vcmp d a b k (fun x y => !vcmpEq t x y) s
def execVcmpLt (d : BitVec 3) (a b : BitVec 5) (k t : BitVec 3) (s : State) : Res := vcmp d a b k (vcmpLt t) s
def execVcmpLe (d : BitVec 3) (a b : BitVec 5) (k t : BitVec 3) (s : State) : Res :=
  vcmp d a b k (fun x y => vcmpLt t x y || vcmpEq t x y) s
def execVcmpUnord (d : BitVec 3) (a b : BitVec 5) (k t : BitVec 3) (s : State) : Res := vcmp d a b k (vcmpUnord t) s

/-! ### VMISC (R373), L = 3 -/

/-- VSEL: every lane; the mask is the selector. -/
def execVsel (d a b : BitVec 5) (k : BitVec 3) (s : State) : Res :=
  orTrap [poisonIf s (s.k k.toNat).poison] s fun s =>
    let m := (s.k k.toNat).bits
    .next (s.landLanes d.toNat ((List.range 32).map (fun (i : Nat) =>
      (i, lval (if m.getLsbD i then s.lv a i else s.lv b i) (s.lp a i || s.lp b i)))) 3)

/-- The lane number in the low five bits of an index. -/
def laneNo (x : W32) : Nat := x.toNat % 32

def execVperm (d a b : BitVec 5) (k : BitVec 3) (s : State) : Res :=
  orTrap [poisonIf s ((s.active k.toNat).any (fun i => s.lp b i))] s fun s =>
    masked d k 3 (fun i => lval (s.lv a (laneNo (s.lv b i))) (s.lp a (laneNo (s.lv b i)))) s

def execVbcast (d a : BitVec 5) (k : BitVec 3) (s : State) : Res :=
  masked d k 3 (fun _ => lval ((s.gv a.toNat).setWidth 32) (s.gp a.toNat)) s

def execVext (d a b : BitVec 5) (s : State) : Res :=
  orTrap [poisonIf s (s.gp b.toNat)] s fun s =>
    let i := (s.gv b.toNat).toNat % 32
    .next (s.landG d.toNat ((s.lv a i).setWidth 64) (s.lp a i) 3)

def execVins (d a b : BitVec 5) (s : State) : Res :=
  orTrap [poisonIf s (s.gp b.toNat)] s fun s =>
    let i := (s.gv b.toNat).toNat % 32
    .next (s.landLanes d.toNat [(i, lval ((s.gv a.toNat).setWidth 32) (s.gp a.toNat))] 3)

def execViota (d : BitVec 5) (k : BitVec 3) (s : State) : Res :=
  masked d k 3 (fun i => lval (BitVec.ofNat 32 ((s.active k.toNat).filter (· < i)).length) false) s

/-- k[d] := f k[a] k[b]. -/
def mask2 (d a b : BitVec 3) (f : W32 → W32 → W32) (s : State) : Res :=
  .next (s.landK d.toNat (f (s.k a.toNat).lo32 (s.k b.toNat).lo32) ((s.k a.toNat).poison || (s.k b.toNat).poison) 3)

def execKand (d a b : BitVec 3) (s : State) : Res := mask2 d a b (· &&& ·) s
def execKor (d a b : BitVec 3) (s : State) : Res := mask2 d a b (· ||| ·) s
def execKxor (d a b : BitVec 3) (s : State) : Res := mask2 d a b (· ^^^ ·) s
def execKnot (d a : BitVec 3) (s : State) : Res :=
  .next (s.landK d.toNat (~~~(s.k a.toNat).lo32) (s.k a.toNat).poison 3)
def execKpop (d : BitVec 5) (a : BitVec 3) (s : State) : Res :=
  .next (s.landG d.toNat (w64 (popCount32 (s.k a.toNat).lo32)) (s.k a.toNat).poison 3)
def execKfromg (d : BitVec 3) (a : BitVec 5) (s : State) : Res :=
  .next (s.landK d.toNat ((s.gv a.toNat).setWidth 32) (s.gp a.toNat) 3)

/-! ### VRED (R249, R375) -/

/-- The tree over the active lanes; an F32 NaN is canonical; S32 is sign-extended into g[d]. -/
def vred (d a : BitVec 5) (t : BitVec 2) (k : BitVec 3) (op : W32 → W32 → W32) (ident : W32) (s : State) : Res :=
  orTrap [poisonIf s (s.k k.toNat).poison] s fun s =>
    let A := s.active k.toNat
    let xs := (List.range 32).map (fun (i : Nat) => if A.contains i then some (s.lv a i) else none)
    let r := (treeReduce op xs).getD ident
    let r := if t = 2#2 ∧ fp32.isNan r.toNat then BitVec.ofNat 32 fp32.nanCode else r
    .next (s.landG d.toNat (if t = 0#2 then r.signExtend 64 else r.setWidth 64) (A.any (fun i => s.lp a i))
      (if t = 2#2 then 12 else 6))

def execVredAdd (d a : BitVec 5) (t : BitVec 2) (k : BitVec 3) (s : State) : Res :=
  vred d a t k (fun x y => if t = 2#2 then result 0#2 0#1 ((operand 0#2 0#1 x).add (operand 0#2 0#1 y)) else x + y) 0#32 s

/-- MIN and MAX by type: 0 signed, 1 unsigned, 2 F32. -/
def redMinMax (mx : Bool) (t : BitVec 2) (x y : W32) : W32 :=
  if t = 2#2 then BitVec.ofNat 32 (fp32.minMax mx false x.toNat y.toNat)
  else if ltZ (t.setWidth 1) x y then (if mx then y else x) else (if mx then x else y)

def execVredMin (d a : BitVec 5) (t : BitVec 2) (k : BitVec 3) (s : State) : Res :=
  vred d a t k (redMinMax false t) (if t = 0#2 then 0x7FFFFFFF#32 else if t = 1#2 then 0xFFFFFFFF#32 else 0x7F800000#32) s
def execVredMax (d a : BitVec 5) (t : BitVec 2) (k : BitVec 3) (s : State) : Res :=
  vred d a t k (redMinMax true t) (if t = 0#2 then 0x80000000#32 else if t = 1#2 then 0#32 else 0xFF800000#32) s
def execVredAnd (d a : BitVec 5) (t : BitVec 2) (k : BitVec 3) (s : State) : Res :=
  vred d a t k (· &&& ·) 0xFFFFFFFF#32 s
def execVredOr (d a : BitVec 5) (t : BitVec 2) (k : BitVec 3) (s : State) : Res := vred d a t k (· ||| ·) 0#32 s
def execVredXor (d a : BitVec 5) (t : BitVec 2) (k : BitVec 3) (s : State) : Res := vred d a t k (· ^^^ ·) 0#32 s

/-! ### VCVT (R376, R377) -/

/-- The random word of an issue group that rounds with .SR: one word serves the group, popped from the
queue's head; an empty queue stalls the group, and RNG_CTL.stalls counts the cycle (R246). -/
def popRandom (s : State) (k : BitVec 1024 → State → Res) : Res :=
  match s.cur.popped with
  | some w => k w s
  | none =>
    match s.here.rngq with
    | [] => .next ((s.modHere (·.modCr 0x541 (incFld · 8 24 1))).waitFor 7)
    | w :: l => k w { s.modHere (fun T => { T with rngq := l }) with cur := { s.cur with popped := some w } }

/-- Lane i of a random word. -/
def rngU (w : BitVec 1024) (i : Nat) : Nat := (w.extractLsb' (32 * i) 32).toNat

def cvtLanes (d a : BitVec 5) (t st : BitVec 4) (r : BitVec 3) (x i u : BitVec 1) (w : BitVec 1024) (s : State) : Res :=
  .next (s.landLanes d.toNat ((List.range 32).map (fun (n : Nat) =>
    (n, lval (BitVec.ofNat 32 (convert t.toNat st.toNat (rmOf r.toNat) (x == 1#1) (i == 1#1) (u == 1#1)
      (rngU w n) (s.lv a n).toNat)) (s.lp a n)))) 4)

def execVcvt (d a : BitVec 5) (t st : BitVec 4) (r : BitVec 3) (x i u : BitVec 1) (s : State) : Res :=
  if r = 4#3 then popRandom s (cvtLanes d a t st r x i u) else cvtLanes d a t st r x i u 0 s

/-! ### VXF (R378), L = 14 -/

def execVexp2 (d a : BitVec 5) (k : BitVec 3) (s : State) : Res := lane1 d a k 14 (fun x => BitVec.ofNat 32 (vxf 0 x)) s
def execVlog2 (d a : BitVec 5) (k : BitVec 3) (s : State) : Res := lane1 d a k 14 (fun x => BitVec.ofNat 32 (vxf 1 x)) s
def execVrcp (d a : BitVec 5) (k : BitVec 3) (s : State) : Res := lane1 d a k 14 (fun x => BitVec.ofNat 32 (vxf 2 x)) s
def execVrsq (d a : BitVec 5) (k : BitVec 3) (s : State) : Res := lane1 d a k 14 (fun x => BitVec.ofNat 32 (vxf 3 x)) s
def execVtanh (d a : BitVec 5) (k : BitVec 3) (s : State) : Res := lane1 d a k 14 (fun x => BitVec.ofNat 32 (vxf 4 x)) s
def execVsig (d a : BitVec 5) (k : BitVec 3) (s : State) : Res := lane1 d a k 14 (fun x => BitVec.ofNat 32 (vxf 5 x)) s

end Sys2Proof.Machine
end

