-- ==== Sys2Proof/Machine/Dispatch.lean ====
section
/-! DEFINITION. The meaning of every instruction: one arm for each constructor of `Instr`. -/

namespace Sys2Proof.Machine

open Host Sys2Proof

/-- The meaning of instruction `i` in state `s`. -/
def exec (i : Instr) (s : State) : Host.Outcome State Fault Refusal :=
  match i with
  | .nop => Sys2Proof.Machine.execNop s
  | .brkpt k => Sys2Proof.Machine.execBrkpt k s
  | .syscall k => Sys2Proof.Machine.execSyscall k s
  | .eret => Sys2Proof.Machine.execEret s
  | .ckeq a b => Sys2Proof.Machine.execCkeq a b s
  | .sleep => Sys2Proof.Machine.execSleep s
  | .ctxgo d a b => Sys2Proof.Machine.execCtxgo d a b s
  | .halt => Sys2Proof.Machine.execHalt s
  | .yield => Sys2Proof.Machine.execYield s
  | .add d a b => Sys2Proof.Machine.execAdd d a b s
  | .sub d a b => Sys2Proof.Machine.execSub d a b s
  | .and d a b => Sys2Proof.Machine.execAnd d a b s
  | .or d a b => Sys2Proof.Machine.execOr d a b s
  | .xor d a b => Sys2Proof.Machine.execXor d a b s
  | .andn d a b => Sys2Proof.Machine.execAndn d a b s
  | .orn d a b => Sys2Proof.Machine.execOrn d a b s
  | .shl d a b => Sys2Proof.Machine.execShl d a b s
  | .shr d a b => Sys2Proof.Machine.execShr d a b s
  | .sha d a b => Sys2Proof.Machine.execSha d a b s
  | .rol d a b => Sys2Proof.Machine.execRol d a b s
  | .min d a b => Sys2Proof.Machine.execMin d a b s
  | .max d a b => Sys2Proof.Machine.execMax d a b s
  | .minz d a b => Sys2Proof.Machine.execMinz d a b s
  | .maxz d a b => Sys2Proof.Machine.execMaxz d a b s
  | .mul d a b => Sys2Proof.Machine.execMul d a b s
  | .mulh d a b => Sys2Proof.Machine.execMulh d a b s
  | .mulhz d a b => Sys2Proof.Machine.execMulhz d a b s
  | .div d a b => Sys2Proof.Machine.execDiv d a b s
  | .divz d a b => Sys2Proof.Machine.execDivz d a b s
  | .rem d a b => Sys2Proof.Machine.execRem d a b s
  | .remz d a b => Sys2Proof.Machine.execRemz d a b s
  | .clz d a => Sys2Proof.Machine.execClz d a s
  | .ctz d a => Sys2Proof.Machine.execCtz d a s
  | .popc d a => Sys2Proof.Machine.execPopc d a s
  | .sextB d a => Sys2Proof.Machine.execSextB d a s
  | .sextH d a => Sys2Proof.Machine.execSextH d a s
  | .sextW d a => Sys2Proof.Machine.execSextW d a s
  | .zextB d a => Sys2Proof.Machine.execZextB d a s
  | .zextH d a => Sys2Proof.Machine.execZextH d a s
  | .zextW d a => Sys2Proof.Machine.execZextW d a s
  | .bext d a b => Sys2Proof.Machine.execBext d a b s
  | .bins d a b => Sys2Proof.Machine.execBins d a b s
  | .addi d a im => Sys2Proof.Machine.execAddi d a im s
  | .andi d a im => Sys2Proof.Machine.execAndi d a im s
  | .ori d a im => Sys2Proof.Machine.execOri d a im s
  | .xori d a im => Sys2Proof.Machine.execXori d a im s
  | .shli d a sc => Sys2Proof.Machine.execShli d a sc s
  | .shri d a sc => Sys2Proof.Machine.execShri d a sc s
  | .shai d a sc => Sys2Proof.Machine.execShai d a sc s
  | .roli d a sc => Sys2Proof.Machine.execRoli d a sc s
  | .limm d im => Sys2Proof.Machine.execLimm d im s
  | .lsh19 d im => Sys2Proof.Machine.execLsh19 d im s
  | .cmpEq p m a b => Sys2Proof.Machine.execCmpEq p m a b s
  | .cmpNe p m a b => Sys2Proof.Machine.execCmpNe p m a b s
  | .cmpLt p m a b => Sys2Proof.Machine.execCmpLt p m a b s
  | .cmpLtz p m a b => Sys2Proof.Machine.execCmpLtz p m a b s
  | .cmpLe p m a b => Sys2Proof.Machine.execCmpLe p m a b s
  | .cmpLez p m a b => Sys2Proof.Machine.execCmpLez p m a b s
  | .cmpiEq p m a im => Sys2Proof.Machine.execCmpiEq p m a im s
  | .cmpiNe p m a im => Sys2Proof.Machine.execCmpiNe p m a im s
  | .cmpiLt p m a im => Sys2Proof.Machine.execCmpiLt p m a im s
  | .cmpiLtz p m a im => Sys2Proof.Machine.execCmpiLtz p m a im s
  | .cmpiLe p m a im => Sys2Proof.Machine.execCmpiLe p m a im s
  | .cmpiLez p m a im => Sys2Proof.Machine.execCmpiLez p m a im s
  | .pand d a b y x => Sys2Proof.Machine.execPand d a b y x s
  | .por d a b y x => Sys2Proof.Machine.execPor d a b y x s
  | .pxor d a b y x => Sys2Proof.Machine.execPxor d a b y x s
  | .pnot d a => Sys2Proof.Machine.execPnot d a s
  | .pmov d a => Sys2Proof.Machine.execPmov d a s
  | .sel d a b q => Sys2Proof.Machine.execSel d a b q s
  | .ptog d a => Sys2Proof.Machine.execPtog d a s
  | .pfromg d a => Sys2Proof.Machine.execPfromg d a s
  | .br p n o => Sys2Proof.Machine.execBr p n o s
  | .brm k n o => Sys2Proof.Machine.execBrm k n o s
  | .jmp o => Sys2Proof.Machine.execJmp o s
  | .call d o => Sys2Proof.Machine.execCall d o s
  | .jr a => Sys2Proof.Machine.execJr a s
  | .callr d a => Sys2Proof.Machine.execCallr d a s
  | .ret a => Sys2Proof.Machine.execRet a s
  | .loopn a sc l => Sys2Proof.Machine.execLoopn a sc l s
  | .loopnFz a l => Sys2Proof.Machine.execLoopnFz a l s
  | .brg a b o => Sys2Proof.Machine.execBrg a b o s
  | .cnarw d a b => Sys2Proof.Machine.execCnarw d a b s
  | .cadv d a b => Sys2Proof.Machine.execCadv d a b s
  | .cseek d a b => Sys2Proof.Machine.execCseek d a b s
  | .cdrop d a b => Sys2Proof.Machine.execCdrop d a b s
  | .cvoid d a => Sys2Proof.Machine.execCvoid d a s
  | .ccopy d a => Sys2Proof.Machine.execCcopy d a s
  | .crdlo d a => Sys2Proof.Machine.execCrdlo d a s
  | .crdsz d a => Sys2Proof.Machine.execCrdsz d a s
  | .crdcu d a => Sys2Proof.Machine.execCrdcu d a s
  | .crdpm d a => Sys2Proof.Machine.execCrdpm d a s
  | .crdsp d a => Sys2Proof.Machine.execCrdsp d a s
  | .crdvt d a => Sys2Proof.Machine.execCrdvt d a s
  | .cdist d a b => Sys2Proof.Machine.execCdist d a b s
  | .cadvi d a im => Sys2Proof.Machine.execCadvi d a im s
  | .mfc g r => Sys2Proof.Machine.execMfc g r s
  | .mtc g r => Sys2Proof.Machine.execMtc g r s
  | .msc g r => Sys2Proof.Machine.execMsc g r s
  | .mcc g r => Sys2Proof.Machine.execMcc g r s
  | .spl g sc => Sys2Proof.Machine.execSpl g sc s
  | .sps g sc => Sys2Proof.Machine.execSps g sc s
  | .splv v sc => Sys2Proof.Machine.execSplv v sc s
  | .spsv v sc => Sys2Proof.Machine.execSpsv v sc s
  | .splc x sc => Sys2Proof.Machine.execSplc x sc s
  | .spsc x sc => Sys2Proof.Machine.execSpsc x sc s
  | .vadd d a b k => Sys2Proof.Machine.execVadd d a b k s
  | .vsub d a b k => Sys2Proof.Machine.execVsub d a b k s
  | .vmul d a b k => Sys2Proof.Machine.execVmul d a b k s
  | .vmulh d a b k z => Sys2Proof.Machine.execVmulh d a b k z s
  | .vmin d a b k z => Sys2Proof.Machine.execVmin d a b k z s
  | .vmax d a b k z => Sys2Proof.Machine.execVmax d a b k z s
  | .vabs d a k => Sys2Proof.Machine.execVabs d a k s
  | .vneg d a k => Sys2Proof.Machine.execVneg d a k s
  | .vand d a b k => Sys2Proof.Machine.execVand d a b k s
  | .vor d a b k => Sys2Proof.Machine.execVor d a b k s
  | .vxor d a b k => Sys2Proof.Machine.execVxor d a b k s
  | .vshl d a b k => Sys2Proof.Machine.execVshl d a b k s
  | .vshr d a b k => Sys2Proof.Machine.execVshr d a b k s
  | .vsha d a b k => Sys2Proof.Machine.execVsha d a b k s
  | .vclmul d a b k => Sys2Proof.Machine.execVclmul d a b k s
  | .vclmulh d a b k => Sys2Proof.Machine.execVclmulh d a b k s
  | .vpopc d a k => Sys2Proof.Machine.execVpopc d a k s
  | .fadd d a b k t im u => Sys2Proof.Machine.execFadd d a b k t im u s
  | .fsub d a b k t im u => Sys2Proof.Machine.execFsub d a b k t im u s
  | .fmul d a b k t im u => Sys2Proof.Machine.execFmul d a b k t im u s
  | .fmin d a b k t im u => Sys2Proof.Machine.execFmin d a b k t im u s
  | .fmax d a b k t im u => Sys2Proof.Machine.execFmax d a b k t im u s
  | .fabs d a k t => Sys2Proof.Machine.execFabs d a k t s
  | .fneg d a k t => Sys2Proof.Machine.execFneg d a k t s
  | .fclass d a k t => Sys2Proof.Machine.execFclass d a k t s
  | .vfma d a b k t im u => Sys2Proof.Machine.execVfma d a b k t im u s
  | .vfms d a b k t im u => Sys2Proof.Machine.execVfms d a b k t im u s
  | .vfnma d a b k t im u => Sys2Proof.Machine.execVfnma d a b k t im u s
  | .vcmpEq d a b k t => Sys2Proof.Machine.execVcmpEq d a b k t s
  | .vcmpNe d a b k t => Sys2Proof.Machine.execVcmpNe d a b k t s
  | .vcmpLt d a b k t => Sys2Proof.Machine.execVcmpLt d a b k t s
  | .vcmpLe d a b k t => Sys2Proof.Machine.execVcmpLe d a b k t s
  | .vcmpUnord d a b k t => Sys2Proof.Machine.execVcmpUnord d a b k t s
  | .vsel d a b k => Sys2Proof.Machine.execVsel d a b k s
  | .vperm d a b k => Sys2Proof.Machine.execVperm d a b k s
  | .vbcast d a k => Sys2Proof.Machine.execVbcast d a k s
  | .vext d a b => Sys2Proof.Machine.execVext d a b s
  | .vins d a b => Sys2Proof.Machine.execVins d a b s
  | .vredAdd d a t k => Sys2Proof.Machine.execVredAdd d a t k s
  | .vredMin d a t k => Sys2Proof.Machine.execVredMin d a t k s
  | .vredMax d a t k => Sys2Proof.Machine.execVredMax d a t k s
  | .vredAnd d a t k => Sys2Proof.Machine.execVredAnd d a t k s
  | .vredOr d a t k => Sys2Proof.Machine.execVredOr d a t k s
  | .vredXor d a t k => Sys2Proof.Machine.execVredXor d a t k s
  | .viota d k => Sys2Proof.Machine.execViota d k s
  | .kand d a b => Sys2Proof.Machine.execKand d a b s
  | .kor d a b => Sys2Proof.Machine.execKor d a b s
  | .kxor d a b => Sys2Proof.Machine.execKxor d a b s
  | .knot d a => Sys2Proof.Machine.execKnot d a s
  | .kpop d a => Sys2Proof.Machine.execKpop d a s
  | .kfromg d a => Sys2Proof.Machine.execKfromg d a s
  | .vcvt d a t sc r x im u => Sys2Proof.Machine.execVcvt d a t sc r x im u s
  | .vexp2 d a k => Sys2Proof.Machine.execVexp2 d a k s
  | .vlog2 d a k => Sys2Proof.Machine.execVlog2 d a k s
  | .vrcp d a k => Sys2Proof.Machine.execVrcp d a k s
  | .vrsq d a k => Sys2Proof.Machine.execVrsq d a k s
  | .vtanh d a k => Sys2Proof.Machine.execVtanh d a k s
  | .vsig d a k => Sys2Proof.Machine.execVsig d a k s
  | .ldS8 g c o => Sys2Proof.Machine.execLdS8 g c o s
  | .ldS16 g c o => Sys2Proof.Machine.execLdS16 g c o s
  | .ldS32 g c o => Sys2Proof.Machine.execLdS32 g c o s
  | .ldS64 g c o => Sys2Proof.Machine.execLdS64 g c o s
  | .ldZ8 g c o => Sys2Proof.Machine.execLdZ8 g c o s
  | .ldZ16 g c o => Sys2Proof.Machine.execLdZ16 g c o s
  | .ldZ32 g c o => Sys2Proof.Machine.execLdZ32 g c o s
  | .ldAcq g c sc w o => Sys2Proof.Machine.execLdAcq g c sc w o s
  | .stS8 g c o => Sys2Proof.Machine.execStS8 g c o s
  | .stS16 g c o => Sys2Proof.Machine.execStS16 g c o s
  | .stS32 g c o => Sys2Proof.Machine.execStS32 g c o s
  | .stS64 g c o => Sys2Proof.Machine.execStS64 g c o s
  | .stRel g c sc w o => Sys2Proof.Machine.execStRel g c sc w o s
  | .ldv v c k o => Sys2Proof.Machine.execLdv v c k o s
  | .stv v c k o => Sys2Proof.Machine.execStv v c k o s
  | .ldvg d c a k sc => Sys2Proof.Machine.execLdvg d c a k sc s
  | .stvs d c a k sc => Sys2Proof.Machine.execStvs d c a k sc s
  | .ldc d c o => Sys2Proof.Machine.execLdc d c o s
  | .stc d c o => Sys2Proof.Machine.execStc d c o s
  | .aadd d c b w a l sc => Sys2Proof.Machine.execAadd d c b w a l sc s
  | .aand d c b w a l sc => Sys2Proof.Machine.execAand d c b w a l sc s
  | .aor d c b w a l sc => Sys2Proof.Machine.execAor d c b w a l sc s
  | .axor d c b w a l sc => Sys2Proof.Machine.execAxor d c b w a l sc s
  | .amin d c b w a l sc => Sys2Proof.Machine.execAmin d c b w a l sc s
  | .amax d c b w a l sc => Sys2Proof.Machine.execAmax d c b w a l sc s
  | .aminz d c b w a l sc => Sys2Proof.Machine.execAminz d c b w a l sc s
  | .amaxz d c b w a l sc => Sys2Proof.Machine.execAmaxz d c b w a l sc s
  | .aswp d c b w a l sc => Sys2Proof.Machine.execAswp d c b w a l sc s
  | .acas d c b w a l sc => Sys2Proof.Machine.execAcas d c b w a l sc s
  | .tld t c r a l sc => Sys2Proof.Machine.execTld t c r a l sc s
  | .tst t c r a l sc => Sys2Proof.Machine.execTst t c r a l sc s
  | .tzero t => Sys2Proof.Machine.execTzero t s
  | .tzeroInv t => Sys2Proof.Machine.execTzeroInv t s
  | .tmov t sc => Sys2Proof.Machine.execTmov t sc s
  | .tldv t v r b => Sys2Proof.Machine.execTldv t v r b s
  | .tstv t v r b => Sys2Proof.Machine.execTstv t v r b s
  | .tstat t g => Sys2Proof.Machine.execTstat t g s
  | .mma t c f r sc b z l => Sys2Proof.Machine.execMma t c f r sc b z l s
  | .mmas t c f r sc b z l => Sys2Proof.Machine.execMmas t c f r sc b z l s
  | .mldb c f b im => Sys2Proof.Machine.execMldb c f b im s
  | .mgo sc => Sys2Proof.Machine.execMgo sc s
  | .mgoCo sc => Sys2Proof.Machine.execMgoCo sc s
  | .mpause => Sys2Proof.Machine.execMpause s
  | .mresume => Sys2Proof.Machine.execMresume s
  | .mwait => Sys2Proof.Machine.execMwait s
  | .mwaitNest sc => Sys2Proof.Machine.execMwaitNest sc s
  | .mwake b => Sys2Proof.Machine.execMwake b s
  | .mshape b => Sys2Proof.Machine.execMshape b s
  | .mfid l r => Sys2Proof.Machine.execMfid l r s
  | .mrep n a b d => Sys2Proof.Machine.execMrep n a b d s
  | .scacc d c p r im u => Sys2Proof.Machine.execScacc d c p r im u s
  | .send g h c a l sc => Sys2Proof.Machine.execSend g h c a l sc s
  | .sendt g h a l sc => Sys2Proof.Machine.execSendt g h a l sc s
  | .recv g h => Sys2Proof.Machine.execRecv g h s
  | .chwait h => Sys2Proof.Machine.execChwait h s
  | .charm g h => Sys2Proof.Machine.execCharm g h s
  | .chstat g h => Sys2Proof.Machine.execChstat g h s
  | .xld t c slot a l sc p => Sys2Proof.Machine.execXld t c slot a l sc p s
  | .xst t c slot a l sc => Sys2Proof.Machine.execXst t c slot a l sc s
  | .xred t c slot a l sc o n m => Sys2Proof.Machine.execXred t c slot a l sc o n m s
  | .xatom t c slot a l sc f w => Sys2Proof.Machine.execXatom t c slot a l sc f w s
  | .xpf t c slot a sc => Sys2Proof.Machine.execXpf t c slot a sc s
  | .xwait t => Sys2Proof.Machine.execXwait t s
  | .xtest t d => Sys2Proof.Machine.execXtest t d s
  | .barr g w => Sys2Proof.Machine.execBarr g w s
  | .bwait g p w => Sys2Proof.Machine.execBwait g p w s
  | .btest g p w => Sys2Proof.Machine.execBtest g p w s
  | .wkpost c w => Sys2Proof.Machine.execWkpost c w s
  | .wknext p w => Sys2Proof.Machine.execWknext p w s
  | .hwin g => Sys2Proof.Machine.execHwin g s
  | .swap => Sys2Proof.Machine.execSwap s
  | .pwrq k => Sys2Proof.Machine.execPwrq k s
  | .pwrrel => Sys2Proof.Machine.execPwrrel s
  | .stg a c b sc o => Sys2Proof.Machine.execStg a c b sc o s
  | .powerUp => Sys2Proof.Machine.execPowerUp s
  | .powerDown => Sys2Proof.Machine.execPowerDown s
  | .converterFail => Sys2Proof.Machine.execConverterFail s
  | .flowLow => Sys2Proof.Machine.execFlowLow s
  | .flowRestored => Sys2Proof.Machine.execFlowRestored s
  | .thermalStepUp f => Sys2Proof.Machine.execThermalStepUp f s
  | .thermalStepDown f => Sys2Proof.Machine.execThermalStepDown f s
  | .fieldTrip f => Sys2Proof.Machine.execFieldTrip f s
  | .droopAlarm f => Sys2Proof.Machine.execDroopAlarm f s
  | .droopEnd f => Sys2Proof.Machine.execDroopEnd f s
  | .measurementUpdate m => Sys2Proof.Machine.execMeasurementUpdate m s
  | .graftRequest t => Sys2Proof.Machine.execGraftRequest t s
  | .graftQueuedStart f => Sys2Proof.Machine.execGraftQueuedStart f s
  | .graftTileStopped f => Sys2Proof.Machine.execGraftTileStopped f s
  | .graftDrained f => Sys2Proof.Machine.execGraftDrained f s
  | .graftCopyDone f ok => Sys2Proof.Machine.execGraftCopyDone f ok s
  | .graftMapSwitch f => Sys2Proof.Machine.execGraftMapSwitch f s
  | .fullRemap => Sys2Proof.Machine.execFullRemap s
  | .linkFail site l => Sys2Proof.Machine.execLinkFail site l s
  | .routerForward j => Sys2Proof.Machine.execRouterForward j s
  | .linkFlitReceive p flit => Sys2Proof.Machine.execLinkFlitReceive p flit s
  | .nakReceive p q => Sys2Proof.Machine.execNakReceive p q s
  | .idleSend p => Sys2Proof.Machine.execIdleSend p s
  | .allowReceive p cls units => Sys2Proof.Machine.execAllowReceive p cls units s
  | .wavelengthFail p w also => Sys2Proof.Machine.execWavelengthFail p w also s
  | .narrowReceive p mask => Sys2Proof.Machine.execNarrowReceive p mask s
  | .narrowRestriped p => Sys2Proof.Machine.execNarrowRestriped p s
  | .resumeReceive p ack => Sys2Proof.Machine.execResumeReceive p ack s
  | .narrowTimeout p => Sys2Proof.Machine.execNarrowTimeout p s
  | .laserWindow p pct => Sys2Proof.Machine.execLaserWindow p pct s
  | .portDarkTimeout p => Sys2Proof.Machine.execPortDarkTimeout p s
  | .portWake p => Sys2Proof.Machine.execPortWake p s
  | .bringupDone p ok far farSlow bad farMask => Sys2Proof.Machine.execBringupDone p ok far farSlow bad farMask s
  | .peerRequestArrival p cls => Sys2Proof.Machine.execPeerRequestArrival p cls s
  | .peerAnswerReturn p cls tag status => Sys2Proof.Machine.execPeerAnswerReturn p cls tag status s
  | .reconfDrained p => Sys2Proof.Machine.execReconfDrained p s
  | .reconfDrainTimeout p => Sys2Proof.Machine.execReconfDrainTimeout p s
  | .reconfRelock p far farSlow => Sys2Proof.Machine.execReconfRelock p far farSlow s
  | .lightTimeout p => Sys2Proof.Machine.execLightTimeout p s
  | .heldPacketTimeout p => Sys2Proof.Machine.execHeldPacketTimeout p s
  | .blockIssue f => Sys2Proof.Machine.execBlockIssue f s
  | .ticketIdleReturn a => Sys2Proof.Machine.execTicketIdleReturn a s
  | .sequencerRecall f a => Sys2Proof.Machine.execSequencerRecall f a s
  | .recallAnswer a => Sys2Proof.Machine.execRecallAnswer a s
  | .ackFlitSend a => Sys2Proof.Machine.execAckFlitSend a s
  | .ackReceive f => Sys2Proof.Machine.execAckReceive f s
  | .stablePost f => Sys2Proof.Machine.execStablePost f s
  | .trellisBroadcast => Sys2Proof.Machine.execTrellisBroadcast s
  | .gUpdate a => Sys2Proof.Machine.execGUpdate a s
  | .overflowReturn f => Sys2Proof.Machine.execOverflowReturn f s
  | .causalStall f => Sys2Proof.Machine.execCausalStall f s
  | .fieldRemoval f => Sys2Proof.Machine.execFieldRemoval f s
  | .vintageResync => Sys2Proof.Machine.execVintageResync s
  | .channelPayloadArrival j => Sys2Proof.Machine.execChannelPayloadArrival j s
  | .payloadFullyWritten t ch => Sys2Proof.Machine.execPayloadFullyWritten t ch s
  | .windowReturnSend t ch => Sys2Proof.Machine.execWindowReturnSend t ch s
  | .windowReturnReceive j => Sys2Proof.Machine.execWindowReturnReceive j s
  | .cellarRequest k => Sys2Proof.Machine.execCellarRequest k s
  | .tlbHomeQuery k => Sys2Proof.Machine.execTlbHomeQuery k s
  | .walkDone k => Sys2Proof.Machine.execWalkDone k s
  | .forwardResponse k => Sys2Proof.Machine.execForwardResponse k s
  | .externalResponse j => Sys2Proof.Machine.execExternalResponse j s
  | .lineRequestEmit t => Sys2Proof.Machine.execLineRequestEmit t s
  | .stampWaitRelease t => Sys2Proof.Machine.execStampWaitRelease t s
  | .cqEntry t => Sys2Proof.Machine.execCqEntry t s
  | .counterWriteback k => Sys2Proof.Machine.execCounterWriteback k s
  | .counterDecay k => Sys2Proof.Machine.execCounterDecay k s
  | .rackCommand k leaf => Sys2Proof.Machine.execRackCommand k leaf s
  | .rackCopyDone k va => Sys2Proof.Machine.execRackCopyDone k va s
  | .rackSwitchDone k va => Sys2Proof.Machine.execRackSwitchDone k va s
  | .rackAbort k va => Sys2Proof.Machine.execRackAbort k va s
  | .memRackdoneRead r => Sys2Proof.Machine.execMemRackdoneRead r s
  | .shootdown k v => Sys2Proof.Machine.execShootdown k v s
  | .shootdownInvalidate k m => Sys2Proof.Machine.execShootdownInvalidate k m s
  | .shootdownAck k m => Sys2Proof.Machine.execShootdownAck k m s
  | .stackRetire k => Sys2Proof.Machine.execStackRetire k s
  | .registerWrite a dword v => Sys2Proof.Machine.execRegisterWrite a dword v s
  | .bar2Write n off data poison => Sys2Proof.Machine.execBar2Write n off data poison s
  | .bar2Read n off len => Sys2Proof.Machine.execBar2Read n off len s
  | .bar2Atomicop n => Sys2Proof.Machine.execBar2Atomicop n s
  | .hostIngressEntry n => Sys2Proof.Machine.execHostIngressEntry n s
  | .postedQueueTimeout n => Sys2Proof.Machine.execPostedQueueTimeout n s
  | .bar4Read n off len => Sys2Proof.Machine.execBar4Read n off len s
  | .bar4Write n off data poison => Sys2Proof.Machine.execBar4Write n off data poison s
  | .bar4Atomicop n off op w64 a c => Sys2Proof.Machine.execBar4Atomicop n off op w64 a c s
  | .hostCompletion n cpl => Sys2Proof.Machine.execHostCompletion n cpl s
  | .hostCompletionTimeout n => Sys2Proof.Machine.execHostCompletionTimeout n s
  | .ctrlAccess => Sys2Proof.Machine.execCtrlAccess s
  | .linkTrain n gen width => Sys2Proof.Machine.execLinkTrain n gen width s
  | .linkDown n => Sys2Proof.Machine.execLinkDown n s
  | .claim n => Sys2Proof.Machine.execClaim n s
  | .unclaim n => Sys2Proof.Machine.execUnclaim n s
  | .plotCreate n w h align nowrap x0 y0 => Sys2Proof.Machine.execPlotCreate n w h align nowrap x0 y0 s
  | .plotLoad n plot img test => Sys2Proof.Machine.execPlotLoad n plot img test s
  | .plotStart n plot => Sys2Proof.Machine.execPlotStart n plot s
  | .plotStatus n plot => Sys2Proof.Machine.execPlotStatus n plot s
  | .plotRetire n plot => Sys2Proof.Machine.execPlotRetire n plot s
  | .remap n => Sys2Proof.Machine.execRemap n s
  | .resync n => Sys2Proof.Machine.execResync n s
  | .fieldClear n f cool => Sys2Proof.Machine.execFieldClear n f cool s
  | .portRestart n p => Sys2Proof.Machine.execPortRestart n p s
  | .switchReconf n ports table => Sys2Proof.Machine.execSwitchReconf n ports table s
  | .switchReconfSecond n ports table => Sys2Proof.Machine.execSwitchReconfSecond n ports table s
  | .setCreate n members tstk root => Sys2Proof.Machine.execSetCreate n members tstk root s
  | .setDelete n sc => Sys2Proof.Machine.execSetDelete n sc s
  | .redwWrite n im v => Sys2Proof.Machine.execRedwWrite n im v s
  | .peerwinWrite n im v => Sys2Proof.Machine.execPeerwinWrite n im v s
  | .mapQuery n lx ly => Sys2Proof.Machine.execMapQuery n lx ly s
  | .waferId n id => Sys2Proof.Machine.execWaferId n id s
  | .peerWrite n im v => Sys2Proof.Machine.execPeerWrite n im v s
  | .stackRoot n k root => Sys2Proof.Machine.execStackRoot n k root s
  | .setRoot n k root => Sys2Proof.Machine.execSetRoot n k root s
  | .physCopy n toHost ha k pa len => Sys2Proof.Machine.execPhysCopy n toHost ha k pa len s
  | .agentQuery n kind num => Sys2Proof.Machine.execAgentQuery n kind num s
  | .fwStage n image => Sys2Proof.Machine.execFwStage n image s
  | .badMailboxCommand n code => Sys2Proof.Machine.execBadMailboxCommand n code s
  | .getVersion => Sys2Proof.Machine.execGetVersion s
  | .getCapabilities => Sys2Proof.Machine.execGetCapabilities s
  | .negotiateAlgorithms => Sys2Proof.Machine.execNegotiateAlgorithms s
  | .getDigests => Sys2Proof.Machine.execGetDigests s
  | .getCertificate slot off len => Sys2Proof.Machine.execGetCertificate slot off len s
  | .challenge slot nonce => Sys2Proof.Machine.execChallenge slot nonce s
  | .getMeasurements op signed nonce => Sys2Proof.Machine.execGetMeasurements op signed nonce s
  | .chunkSend last chunk => Sys2Proof.Machine.execChunkSend last chunk s
  | .chunkGet seq => Sys2Proof.Machine.execChunkGet seq s
  | .spdmUnsupported code => Sys2Proof.Machine.execSpdmUnsupported code s
  | .sliceExpiry plot => Sys2Proof.Machine.execSliceExpiry plot s
  | .preemption plot => Sys2Proof.Machine.execPreemption plot s
  | .restore plot => Sys2Proof.Machine.execRestore plot s
  | .plotCompletion plot => Sys2Proof.Machine.execPlotCompletion plot s
  | .barrierComplete plot g => Sys2Proof.Machine.execBarrierComplete plot g s
  | .walkerHandoff plot w => Sys2Proof.Machine.execWalkerHandoff plot w s
  | .fieldGrantServe f => Sys2Proof.Machine.execFieldGrantServe f s
  | .powerGrant t => Sys2Proof.Machine.execPowerGrant t s
  | .monitorOverrun t est => Sys2Proof.Machine.execMonitorOverrun t est s
  | .throttleEnd t => Sys2Proof.Machine.execThrottleEnd t s
  | .bandGate t bd => Sys2Proof.Machine.execBandGate t bd s
  | .bandWakeAdmit f => Sys2Proof.Machine.execBandWakeAdmit f s
  | .bandWakeDone t bd => Sys2Proof.Machine.execBandWakeDone t bd s
  | .ballast f on => Sys2Proof.Machine.execBallast f on s
  | .sliceRailFault f sl => Sys2Proof.Machine.execSliceRailFault f sl s
  | .timingReplay t => Sys2Proof.Machine.execTimingReplay t s
  | .rasWindowExpiry t => Sys2Proof.Machine.execRasWindowExpiry t s
  | .scrub t => Sys2Proof.Machine.execScrub t s
  | .imemUncorrectable t word => Sys2Proof.Machine.execImemUncorrectable t word s
  | .trapEntry t x cause info => Sys2Proof.Machine.execTrapEntry t x cause info s
  | .asyncTrapTake t x => Sys2Proof.Machine.execAsyncTrapTake t x s
  | .timerExpiry t x => Sys2Proof.Machine.execTimerExpiry t x s
  | .loopBack t x => Sys2Proof.Machine.execLoopBack t x s
  | .rngAppend t => Sys2Proof.Machine.execRngAppend t s
  | .poisonRollback t => Sys2Proof.Machine.execPoisonRollback t s
  | .rngSeedWrite t v => Sys2Proof.Machine.execRngSeedWrite t v s
  | .chnCfgWrite t ch v => Sys2Proof.Machine.execChnCfgWrite t ch v s
  | .cauVecWrite t f v => Sys2Proof.Machine.execCauVecWrite t f v s
  | .passCfgWrite t v => Sys2Proof.Machine.execPassCfgWrite t v s
  | .rasThreshWrite t v => Sys2Proof.Machine.execRasThreshWrite t v s
  | .matFinjWrite t v => Sys2Proof.Machine.execMatFinjWrite t v s
  | .matFidWrite t x v => Sys2Proof.Machine.execMatFidWrite t x v s
  | .matNestWrite t sl j v => Sys2Proof.Machine.execMatNestWrite t sl j v s
  | .matrixOpStart t => Sys2Proof.Machine.execMatrixOpStart t s
  | .matrixRowEnd t => Sys2Proof.Machine.execMatrixRowEnd t s
  | .matrixOpComplete t => Sys2Proof.Machine.execMatrixOpComplete t s
  | .mldbComplete t => Sys2Proof.Machine.execMldbComplete t s
  | .transferComplete t => Sys2Proof.Machine.execTransferComplete t s
  | .illegalWord t x => Sys2Proof.Machine.execIllegalWord t x s
  | .packetFetchFault t x => Sys2Proof.Machine.execPacketFetchFault t x s
  | .sliceRailFaultEnd f sl => Sys2Proof.Machine.execSliceRailFaultEnd f sl s
  | .atomicopRequesterEnable n on => Sys2Proof.Machine.execAtomicopRequesterEnable n on s

end Sys2Proof.Machine
end

