-- ==== Sys2Proof/Machine/Step.lean ====
section
/-! DEFINITION. One step of the module: the next move of the schedule, an event of the opcode table or one
issue cycle of a tile's core; with no move scheduled, the core of the tile in focus (R434 names the agents
that act). -/

namespace Sys2Proof.Machine

open Host Sys2Proof

/-- One step. The model's counter of free values advances, and the issue record is cleared. An entry of the
schedule that is a word of the core, not an event, does nothing. -/
def step (s : State) : Outcome State Fault Refusal :=
  let s := { s with seed := s.seed + 1, cur := {}, choices := [] }
  match s.schedule with
  | [] => coreStep exec s.focus s
  | .core t c :: l => coreStep exec t { s with schedule := l, focus := t, choices := c }
  | .event i c :: l =>
    if (encode 0#1 i).isSome then .next { s with schedule := l } else exec i { s with schedule := l, choices := c }

/-- The lowest position in which the word is allowed. -/
def lowestPos (w : W32) : Nat := if allowedAt w 0 then 0 else if allowedAt w 1 then 1 else if allowedAt w 2 then 2 else 0

/-- Tile 0 as the loader leaves it when it places a program: packet 0 of the instruction memory holds the word
at its lowest allowed position and NOP elsewhere, CORE_SVBASE is 10,880 (R226), and context 0 is about to issue
that word. -/
def Tile.placeWord (T : Tile) (w : W32) : Tile :=
  let k := lowestPos w
  let imem := writeBytes (writeBytes T.imem 0 12 0) (4 * k) 4 w.toNat
  let T := ({ T with imem := imem, released := true, stopped := false, frozen := false, active := some 0 }).setCr 0x003 (w64 10880)
  T.modCtx 0 (fun c =>
    let c := (c.setSt running 0).modCr 0x102 (setBit · 20 false)
    { c with pc := 0, first := k, midPacket := true, atEnd := .next, rep := none, hold := 0 })

/-- The word `w` stored where `step` fetches its next instruction: packet 0 of tile 0, context 0, with nothing
scheduled before it. -/
def State.withFetchWord (s : State) (nbits w : Nat) : State :=
  { s.modTile 0 (·.placeWord (BitVec.ofNat 32 (w % 2 ^ nbits))) with focus := 0, schedule := [] }

end Sys2Proof.Machine
end

