-- ==== Sys2Proof/Safety.lean ====
section
/-! DEFINITION. The terms in which the statements speak of one word of the core: what a register holds once its
result has landed (R203), what a word leaves as it was, where it traps and where it waits; and what a good state
is: the canonical form of every memory. -/

namespace Sys2Proof.Machine

open Host Sys2Proof

/-! ### Registers of the issuing context -/

/-- What a read of register `key` of the issuing context finds `n` cycles from now, if nothing else is written to it
before (R203). -/
def State.later (s : State) (n key : Nat) : RVal :=
  (s.me.settleUpTo (s.here.cycle + n)).read (s.here.cycle + n) s.seed key

/-- No result for register `key` is in flight. -/
def State.quiet (s : State) (key : Nat) : Prop := ∀ f ∈ s.me.flights, f.reg ≠ key

/-- What register `key` holds after a write of `v`: a fixed register keeps its constant (R209). -/
def heldBy (key : Nat) (v : RVal) : RVal := (fixedReg key).getD v

/-- From `s` to `t` nothing has changed but registers of the issuing context, and of these none but `keys`: no byte of
memory, no control register, no flag or mode, no other context, tile or unit. (A context that no table lists yet is the
same as one listed at its reset; `modMe id` lists it on both sides.) -/
def State.onlyRegs (s t : State) (keys : List Nat) : Prop :=
  t.modMe id = s.modMe (fun c => { c with regs := t.me.regs, flights := t.me.flights }) ∧
  ∀ key, key ∉ keys → ∀ n, t.later n key = s.later n key

/-- Instruction `i` completes in `s`: it writes the named registers, each result is there from `lat` cycles on, and it
changes nothing else. -/
def Writes (i : Instr) (s : State) (results : List (Nat × RVal)) (lat : Nat) : Prop :=
  ∃ t, exec i s = .next t ∧ s.onlyRegs t (results.map (·.1)) ∧
    ∀ e ∈ results, ∀ n, lat ≤ n → t.later n e.1 = heldBy e.1 e.2

/-! ### Traps and waits of a word -/

/-- The word raises the synchronous trap `cause`, with `info` for CTX_EINFO (R227, R230). (A look at whether a waiting group would go on
makes no checks, R348: `s` is no such look.) -/
def Traps (i : Instr) (s : State) (cause : Nat) (info : W64) : Prop :=
  s.cur.trial = false → ∃ t, exec i s = .next t ∧ t.cur.ended = .trapped ∧ t.cur.cause = cause ∧ t.cur.info = info

/-- The word waits with a reason code of R168: its context is WAITING, its registers are as they were, and the word has
done nothing. -/
def Waits (i : Instr) (s : State) (reason : Nat) : Prop :=
  ∃ t, exec i s = .next t ∧ t.cur.ended = .waits ∧ t.me.st = waiting ∧ fld (t.me.cr 0x010) 3 3 = reason ∧
    t.me.regs = s.me.regs ∧ t.me.flights = s.me.flights ∧ t.here.pad = s.here.pad

/-- R228 and R205: context `c` has entered the trap and is `c'`, at the packet `vec` that CTX_EVEC names. The status of a CTXGO that has not
committed is still on its way (R325); every other result has landed. -/
structure TrapEntered (c c' : Ctx) (vec pc resume cause : Nat) (info : W64) : Prop where
  epc : c'.cr 0x011 = BitVec.ofNat 64 (pc % 2 ^ 14 + resume * 2 ^ 14)
  why : c'.cr 0x012 = BitVec.ofNat 64 cause
  einfo : c'.cr 0x013 = info
  sMode : c'.sMode = true
  ps : (c'.cr 0x015).getLsbD 1 = c.sMode
  ntrap : (c'.cr 0x015).getLsbD 2 = ((c.cr 0x015).getLsbD 2 || c.sMode)
  apend : ∀ b, 3 ≤ b → (c'.cr 0x015).getLsbD b = (c.cr 0x015).getLsbD b
  state : c'.st = trapped
  handler : c'.pc = vec ∧ c'.first = 0
  landed : (∀ f ∈ c'.flights, ∃ g ∈ c.flights, g.go = true ∧ f.reg = g.reg) ∧
    (∀ key, (∀ f ∈ c.flights, f.go = false → f.reg ≠ key) → mget {} c'.regs key = mget {} c.regs key) ∧
    (∀ f ∈ c.flights, f.go = false → (∀ g ∈ c.flights, g.reg = f.reg → g = f) → mget {} c'.regs f.reg = f.val)
  others : ∀ i, i ∉ [0x010, 0x011, 0x012, 0x013, 0x015] → c'.cr i = c.cr i
  arrivals : c'.arrivals = c.arrivals ∧ c'.obs = c.obs ∧ c'.start = c.start ∧ c'.rep = c.rep

/-! ### Numbers -/

/-- The number that a finite exact value is. -/
def Num.val : Num → Rat
  | .fin s m e => (if s then -1 else 1) * ((m : Rat) * (2 : Rat) ^ e)
  | _ => 0

/-- R240, R241: a magnitude `x` between the adjacent representable magnitudes `lo` < `x` < `hi` is rounded to `hi`; `odd` says that the code of
`lo` has bit 0 = 1, `neg` is the sign and `u` the random value of SR. -/
def TakesUpper (rm : Rm) (neg odd : Bool) (lo x hi : Rat) (u : Nat) : Prop :=
  match rm with
  | .rne => lo + hi < 2 * x ∨ (2 * x = lo + hi ∧ odd = true)
  | .rtz => False
  | .rdn => neg = true
  | .rup => neg = false
  | .sr => ((u : Rat) + 1) * (hi - lo) ≤ (x - lo) * 2 ^ 32

/-- R243: the code of an overflowing result of sign `s`. -/
def FFmt.overflowed (F : FFmt) (rm : Rm) (sat s : Bool) : Nat :=
  let sg := if s then F.sign else 0
  let toInf := match rm with
    | .rtz => false
    | .rdn => s
    | .rup => !s
    | _ => true
  if sat || !toInf then sg + F.maxCode else if F.e4m3 then F.nanCode else sg + F.infCode

/-! ### Capabilities -/

/-- R216: what a tagged capability must meet. -/
def CapMeetsR216 (w : RVal) : Prop :=
  capE w ≤ 29 ∧ 1 ≤ capSpace w ∧ capSpace w ≤ 5 ∧ capLimit w ≤ 2 ^ 56 ∧
    capLimit w ≤ (capAddr w / 2 ^ (capE w + 27) + 1) * 2 ^ (capE w + 27)

/-! ### Pad words -/

/-- A pad access of `n` bytes through capability register `cr` at cursor + `off` passes every check of R348: the
capability is clean, tagged, of space PAD, has the permissions, may be used in this mode and bounds the bytes (R217), the
address is aligned, no in-flight tracker entry conflicts (R280), and the line tags show no race (R282). -/
structure PadAllows (s : State) (cr : Nat) (off : Int) (n need align : Nat) (writes lines : Bool) : Prop where
  clean : (s.c cr).poison = false
  tagged : (s.c cr).tag = true
  pad : capSpace (s.c cr) = 1
  perms : capPerms (s.c cr) &&& need = need
  mode : capPerms (s.c cr) &&& 128 = 128 → s.me.sMode = true
  low : (capBase (s.c cr) : Int) ≤ capAddr (s.c cr) + off
  high : (capAddr (s.c cr) : Int) + off + n ≤ capLimit (s.c cr)
  top : (capAddr (s.c cr) : Int) + off + n ≤ 2 ^ 22
  aligned : ((capAddr (s.c cr) : Int) + off) % (align : Int) = 0
  tracker : ∀ e ∈ s.rivals, (e.writes || writes) = true →
    (e.hi : Int) ≤ capAddr (s.c cr) + off ∨ (capAddr (s.c cr) : Int) + off + n ≤ e.lo
  tags : lines = true → s.here.lineRace s.cur.ctx (s.padAddr cr off) (s.padAddr cr off + n) = none

/-- From `T` to `T'` the context `x` has written `n` bytes at pad address `a`: they hold the low bytes of `v`; poisoned data
poison every 64-bit word they touch, clean data clear those they cover (R292); their capability tags are clear (R218);
their lines are tagged (x, RC) (R281); every other byte, poison bit and tag is as it was, and so is the rest of the
tile. -/
structure PadWritten (T T' : Tile) (x a n v : Nat) (poison : Bool) : Prop where
  bytes : readBytes T'.pad a n = v % 2 ^ (8 * n)
  others : ∀ b, (b < a ∨ a + n ≤ b) → mget 0#8 T'.pad b = mget 0#8 T.pad b
  poisons : ∀ w, mget false T'.padPoison w =
    (if a < 8 * w + 8 ∧ 8 * w < a + n then
      (if poison then true else if a ≤ 8 * w ∧ 8 * w + 8 ≤ a + n then false else mget false T.padPoison w)
    else mget false T.padPoison w)
  caps : ∀ g, mget false T'.capTags g = (if a < 16 * g + 16 ∧ 16 * g < a + n then false else mget false T.capTags g)
  lines : ∀ l, mget {} T'.lineTags l =
    (if a < 64 * l + 64 ∧ 64 * l < a + n then ⟨BitVec.ofNat 2 x, T.rc⟩ else mget {} T.lineTags l)
  rest : { T' with pad := T.pad, padPoison := T.padPoison, capTags := T.capTags, lineTags := T.lineTags } = T

/-- Instruction `i` completes in `s` with one pad write by the issuing context, and changes nothing else. -/
def PadStores (i : Instr) (s : State) (a n v : Nat) (poison : Bool) : Prop :=
  ∃ T, exec i s = .next (s.setTile s.cur.tile T) ∧ PadWritten s.here T s.cur.ctx a n v poison

/-- Instruction `i` completes in `s` with one pad write by the issuing context and one result in register `key`, there
from `lat` cycles on, and changes nothing else. -/
def PadUpdates (i : Instr) (s : State) (key : Nat) (result : RVal) (lat a n v : Nat) (poison : Bool) : Prop :=
  ∃ t, exec i s = .next t ∧ (∀ k, lat ≤ k → t.later k key = heldBy key result) ∧
    (∀ j, j ≠ key → ∀ k, t.later k j = s.later k j) ∧
    t.me = { s.me with regs := t.me.regs, flights := t.me.flights } ∧
    PadWritten (s.modMe id).here (t.modMe (fun _ => s.me)).here s.cur.ctx a n v poison ∧
    t.setTile s.cur.tile s.here = s.setTile s.cur.tile s.here

/-! ### Queues, tile registers and the region tracker -/

/-- R222: from `T` to `T'` one entry has joined the region tracker, at the lowest free number of the 28 general ones; it stands at its
command's place in the tile's issue order. -/
def EntersTracker (T T' : Tile) (kind : TrkKind) (writes : Bool) (lo hi : Nat) : Prop :=
  ∃ n, n < 28 ∧ (∀ e ∈ T.trk, e.n ≠ n) ∧ (∀ m, m < n → ∃ e ∈ T.trk, e.n = m) ∧
    T'.trk = T.trk ++ [{ n := n, kind := kind, writes := writes, lo := lo, hi := hi, seq := T.opSeq }] ∧ ∀ i, i ≠ 0x004 → T'.cr i = T.cr i

/-- R212: the context owns tile register `i`: it owns it, or it is free. -/
def State.mayUse (s : State) (i : Nat) : Prop := s.here.tfree i = true ∨ (s.here.treg i).owner = some s.cur.ctx

/-- R267: no nest of another context is running. -/
def State.unitFree (s : State) : Prop := ∀ o, s.here.runningNest = some o → o.ctx = s.cur.ctx

/-- R212, R382: the free ones among the named registers have become the context's; every other register is as it was. -/
def Claimed (T T' : Tile) (x : Nat) (named : List Nat) : Prop :=
  ∀ i, T'.treg i = if i ∈ named ∧ T.tfree i = true then ({ owner := some x } : TReg) else T.treg i

/-! ### Rows of the array -/

/-- R233: the value of element `k` of an A row of an integer format: INT4, INT8 or UINT8. -/
def intElement (f : Nat) (bytes : Nat → Byte) (k : Nat) : Int :=
  if f = 0 then
    let v := (bytes (k / 2)).toNat / 16 ^ (k % 2) % 16
    if v < 8 then (v : Int) else (v : Int) - 16
  else if f = 1 then (bytes k).toInt
  else ((bytes k).toNat : Int)

/-- R239, R251: segment `i` of an A row of a float-like format, aligned to its largest exponent. -/
def floatSegment (f : Nat) (fzi : Bool) (bytes : Nat → Byte) (i : Nat) : Int × List Int :=
  alignSeg ((List.range 32).map (fun k =>
    let e := 32 * i + k
    wifOf f fzi (if f = 7 then (bytes (2 * e)).toNat + 256 * (bytes (2 * e + 1)).toNat else (bytes e).toNat)))

/-- R254 to R256: an element of column `c` that starts at `acc`, once the segments `segs` of an A row have been added with the cells of
`M`, no slice undervolted: integer classes add exact sums, wrapping or clamped each time; the float-like class adds rounded parts. -/
def rowElement (f : Nat) (fl : Bool) (M : MacroSet) (bytes : Nat → Byte) (c : Nat) (segs : List Nat) (acc : W32) : W32 :=
  let cell := fun (k : Nat) => (mget 0#9 M.cells (k * 256 + c)).toInt
  if f < 3 then
    segs.foldl (fun (acc : W32) (i : Nat) =>
      let v := acc.toInt + ((List.range 32).map (fun k => intElement f bytes (32 * i + k) * cell (32 * i + k))).sum
      BitVec.ofInt 32 (if fl = true then max (-(2 ^ 31)) (min (2 ^ 31 - 1) v) else v)) acc
  else
    segs.foldl (fun (acc : W32) (i : Nat) =>
      let a := floatSegment f fl bytes i
      let b := (mget 0#9 M.eb (i * 256 + c)).toInt
      let seg := ((List.range 32).map (fun k => a.2.getD k 0 * cell (32 * i + k))).sum
      let part := if a.1 = -256 ∨ b = -256 then fp32.nanCode else if seg = 0 then 0
        else fp32.rne fl (.fin (decide (seg < 0)) seg.natAbs (a.1 + b - 14))
      BitVec.ofNat 32 (fp32.rne fl ((fp32.decode acc.toNat).add (fp32.decode part)))) acc

/-! ### Engine commands -/

/-- R410, R411, R412: the command `m` that names external capability `cr` and descriptor slot `slot` passes every check: a
token of 0 to 7 not in use, both sides' capabilities and bounding ranges, the alignment of XRED and XATOM, the tracker,
the element sizes and counts, and no operation that the host side lacks. -/
structure EngineAllows (s : State) (m : Cmd) (cr slot : Nat) : Prop where
  token : m.token < 8 ∧ ∀ e ∈ s.here.cmds, e.ctx = m.ctx → e.token ≠ m.token
  pads : m.op ≠ 4 →
    let pn := fld (s.me.desc slot 1) 12 4
    let r := spanOf m.pad m.cnt m.pstride m.elem
    capCheck (s.c pn) pn s.cur.word s.me.sMode r.1 (r.2 - r.1).toNat [1] (padPerm m.op) 1 = none ∧
      (s.c pn).poison = false ∧ s.trkCheck r.1.toNat r.2.toNat (m.op == 0 || m.op == 3) true = none ∧ s.here.trkFull = false
  outer : let r := spanOf m.ext m.cnt m.xstride m.xlen
    capCheck (s.c cr) cr s.cur.word s.me.sMode r.1 (r.2 - r.1).toNat (extSpaces m.op) (extPerm m.op (capSpace (s.c cr))) 1 = none ∧
      (s.c cr).poison = false
  aligned : s.engineAlign m (capAddr (s.c (fld (s.me.desc slot 1) 12 4))) = none
  count : m.elems ≤ 2 ^ 32
  atom : m.op = 3 → m.elem = (if atomFn m.arg = 9 then 2 else 1) * atomWidth m.arg ∧
    (capSpace (s.c cr) = 4 → (s.here.cr 0x481).getLsbD 36 = true)
  host : hostAtom m.op m.arg (capSpace (s.c cr)) = false

/-! ### The outbox of a pass -/

/-- R297, R298: the packets that the pass held have joined the order of emission `after`, each at the place of its issue. -/
structure OutboxReleased (T : Tile) (after : List Emission) : Prop where
  all : after.length = T.pass.held.length + T.emitq.length
  order : T.emitq.Pairwise (fun a b => a.seq ≤ b.seq) → after.Pairwise (fun a b => a.seq ≤ b.seq)
  each : (∀ m ∈ T.pass.heldCmds, m.box = none) → after.Perm (T.pass.held.map (fun e => { e with box := none }) ++ T.emitq)

/-! ### The mailboxes -/

/-- R155: from `s` to `u` the command in mailbox `n` has been answered: the response buffer holds the status, the length of
the result, the seq of the command and the result; busy has cleared; MSI-X vector 0 has been signalled. -/
structure Answered (s u : State) (n status : Nat) (data : List Byte) : Prop where
  status : readBytes u.host.mbx (offMbxBuf n + 0x1000) 2 = status
  len : readBytes u.host.mbx (offMbxBuf n + 0x1002) 2 = data.length
  seq : readBytes u.host.mbx (offMbxBuf n + 0x1004) 4 = readBytes s.host.mbx (offMbxBuf n + 4) 4
  result : ∀ i, i < data.length → mget 0#8 u.host.mbx (offMbxBuf n + 0x1008 + i) = data.getD i 0#8
  busy : (u.reg0 (offMbx n)).getLsbD 1 = false
  begun : n ∉ u.host.goQ
  signal : (n, 0) ∈ u.host.msix

/-! ### Steps -/

/-- The step of `s` is the core of tile `t`'s: nothing is scheduled and the focus is on the tile, or the schedule names it;
`b` is the state from which the core begins. -/
def State.coreMove (s b : State) (t : Nat) : Prop :=
  (s.schedule = [] ∧ s.focus = t ∧
    b = { s with seed := s.seed + 1, cur := { tile := t }, choices := [] }.storageErrors t) ∨
  ∃ l c, s.schedule = .core t c :: l ∧
    b = { s with seed := s.seed + 1, cur := { tile := t }, choices := c, schedule := l, focus := t }.storageErrors t

/-- The active context x of tile t stands at word `w` of its packet, which passes every check of R199, R200 and R226; no
context waits, no wait of R312 holds it back, and the tile runs. -/
structure State.atWord (s : State) (t x w : Nat) : Prop where
  tile : t < 15360
  runs : (s.tile t).released = true ∧ (s.tile t).stopped = false
  active : (s.tile t).active = some x
  quiet : ∀ y, y < 4 → (s.ctx t y).st ≠ waiting
  held : (s.ctx t x).hold ≤ (s.tile t).cycle
  at' : (s.ctx t x).first = w ∧ w < 3
  inside : (s.ctx t x).pc ≤ 10921
  user : (s.ctx t x).sMode = true ∨ (s.ctx t x).pc < fld ((s.tile t).cr 0x003) 0 14
  legal : ∀ k, k < 3 → (decodeAt ((s.tile t).imemWord (s.ctx t x).pc k) k).isSome = true
  rep : (s.ctx t x).rep = none

/-- The instruction of word `w` of the packet of context x, where the loop buffer does not suppress it (R224). -/
def State.wordAt (s : State) (t x w : Nat) : Option Instr :=
  if lbSuppressed (s.ctx t x) w then none else decodeAt ((s.tile t).imemWord (s.ctx t x).pc w) w

/-- Word `w` of the group `first` to `last` issues: the issue record. -/
def State.issuing (s : State) (t x w first last : Nat) (raw : W32) : State :=
  { s with cur := { tile := t, ctx := x, word := w, first := first, last := last, raw := raw } }

/-- The registers that a word would write in the state `b`, results of spill words apart: what the words before it in its group may
not rely on (R202, R203). -/
def State.writes (b : State) (t x w first last : Nat) (raw : W32) (j : Instr) : List Nat :=
  match exec j (b.issuing t x w first last raw) with
  | .next z => ((z.ctx t x).flights.filter (fun f => f.issued == (b.tile t).cycle && !f.exact)).map (·.reg)
  | _ => []

/-- A cycle of tile t has passed: results that are due have landed, the counters have counted and the monitor has looked, control-register
writes that are due have been performed, held data whose ACQ is over have been copied (R194, R203, R206, R214, R295). -/
abbrev State.ticked (s : State) (t : Nat) : State := s.tick t

/-- The packet goes on after word `last`: to its next group, or to its end. -/
def State.pastGroup (s : State) (t x last : Nat) : State :=
  let s := s.wentOn t x
  if last < 2 then s.modTile t (fun T => { T with active := some x }.modCtx x (fun c => { c with first := last + 1 }))
  else s.endPacket t x

/-! ### Memory -/

/-- The canonical form of a byte memory. -/
abbrev memWf (m : AMap Byte) : Prop := mwf 0#8 m = true

/-- Both memories of a tile are in their canonical form. -/
def Tile.memoriesWf (T : Tile) : Prop := memWf T.imem ∧ memWf T.pad

/-- Every memory of the machine is in its canonical form. -/
structure State.memoriesWf (s : State) : Prop where
  tiles : ∀ t, (s.tile t).memoriesWf
  saved : ∀ p, ∀ e ∈ (s.plot p).saved, e.2.rest.memoriesWf
  stack : ∀ k, memWf (s.stack k).mem
  mailboxes : memWf s.host.mbx
  ring : memWf s.host.ring
  flash : memWf s.module.flash

end Sys2Proof.Machine
end

