-- ==== Sys2Proof/Certificates/Slice0/Obligations.lean ====
section
/-! DEFINITION. The statements for the provers. Each says what an instruction or the machine does, for every state and
all operands; `Writes`, `Traps`, `Waits` and the other terms stand in Safety.lean. -/

open Host Sys2Proof Sys2Proof.Machine

/-! ### The scalar words -/

/-- R327: what each register-register minor puts into g[d] with L = 1 (R311), for every state and operands; a write to
g0 is discarded (R209), a poisoned source poisons the result (R319), and nothing else changes. No result for g[d] may be
in flight (R204).
R327 and R328: the multiplies, with L = 3, and the divides, with L = 24 (R311). -/
def Obligations.ArithmeticWordsWriteTheirResult : Prop :=
    (∀ (s : State) (d a b : BitVec 6), s.quiet (gKey d.toNat) →
      let x := s.gv a.toNat
      let y := s.gv b.toNat
      let n := y.toNat % 64
      let gives := fun (i : Instr) (v : W64) => Writes i s [(gKey d.toNat, gval v (s.gp a.toNat || s.gp b.toNat))] 1
      gives (.add d a b) (BitVec.ofNat 64 (x.toNat + y.toNat)) ∧
      gives (.sub d a b) (BitVec.ofInt 64 (x.toInt - y.toInt)) ∧
      gives (.and d a b) (x &&& y) ∧
      gives (.or d a b) (x ||| y) ∧
      gives (.xor d a b) (x ^^^ y) ∧
      gives (.andn d a b) (x &&& ~~~y) ∧
      gives (.orn d a b) (x ||| ~~~y) ∧
      gives (.shl d a b) (BitVec.ofNat 64 (x.toNat * 2 ^ n)) ∧
      gives (.shr d a b) (BitVec.ofNat 64 (x.toNat / 2 ^ n)) ∧
      gives (.sha d a b) (BitVec.ofInt 64 (x.toInt / 2 ^ n)) ∧
      gives (.rol d a b) (x <<< n ||| x >>> (64 - n)) ∧
      gives (.min d a b) (if x.toInt ≤ y.toInt then x else y) ∧
      gives (.max d a b) (if x.toInt ≤ y.toInt then y else x) ∧
      gives (.minz d a b) (if x.toNat ≤ y.toNat then x else y) ∧
      gives (.maxz d a b) (if x.toNat ≤ y.toNat then y else x)) ∧
    (∀ (s : State) (d a b : BitVec 6), s.quiet (gKey d.toNat) →
      let x := s.gv a.toNat
      let y := s.gv b.toNat
      let gives := fun (i : Instr) (lat : Nat) (v : W64) =>
        Writes i s [(gKey d.toNat, gval v (s.gp a.toNat || s.gp b.toNat))] lat
      gives (.mul d a b) 3 (BitVec.ofNat 64 (x.toNat * y.toNat)) ∧
      gives (.mulh d a b) 3 (BitVec.ofInt 64 (x.toInt * y.toInt / 2 ^ 64)) ∧
      gives (.mulhz d a b) 3 (BitVec.ofNat 64 (x.toNat * y.toNat / 2 ^ 64)) ∧
      gives (.div d a b) 24 (if y = 0 then 0xFFFFFFFFFFFFFFFF#64 else BitVec.ofInt 64 (x.toInt.tdiv y.toInt)) ∧
      gives (.divz d a b) 24 (if y = 0 then 0xFFFFFFFFFFFFFFFF#64 else BitVec.ofNat 64 (x.toNat / y.toNat)) ∧
      gives (.rem d a b) 24 (if y = 0 then x else BitVec.ofInt 64 (x.toInt.tmod y.toInt)) ∧
      gives (.remz d a b) 24 (if y = 0 then x else BitVec.ofNat 64 (x.toNat % y.toNat)))

/-- R327, R329: the one-operand minors and the bit-field words, L = 1. CLZ and CTZ of 0 give 64. BEXT and BINS take pos = g[b][5:0] and
n = min(g[b][12:6], 64 − pos).
R330, R331: the immediate forms, L = 1. LSH19 reads g[d]. -/
def Obligations.BitAndImmediateWordsWriteTheirResult : Prop :=
    (∀ (s : State) (d a b : BitVec 6), s.quiet (gKey d.toNat) →
      let x := s.gv a.toNat
      let y := s.gv b.toNat
      let pos := y.toNat % 64
      let n := Nat.min (y.toNat / 64 % 128) (64 - pos)
      let m := BitVec.ofNat 64 ((2 ^ n - 1) * 2 ^ pos)
      let gives := fun (i : Instr) (v : W64) => Writes i s [(gKey d.toNat, gval v (s.gp a.toNat))] 1
      (∃ z, gives (.clz d a) (BitVec.ofNat 64 z) ∧ z ≤ 64 ∧ x.toNat < 2 ^ (64 - z) ∧ (x ≠ 0 → 2 ^ (63 - z) ≤ x.toNat ∧ z < 64) ∧ (x = 0 → z = 64)) ∧
      (∃ z, gives (.ctz d a) (BitVec.ofNat 64 z) ∧ z ≤ 64 ∧ x.toNat % 2 ^ z = 0 ∧ (x ≠ 0 → x.toNat.testBit z = true) ∧ (x = 0 → z = 64)) ∧
      gives (.popc d a) (BitVec.ofNat 64 ((List.range 64).filter (fun i => x.getLsbD i)).length) ∧
      gives (.sextB d a) ((x.setWidth 8).signExtend 64) ∧
      gives (.sextH d a) ((x.setWidth 16).signExtend 64) ∧
      gives (.sextW d a) ((x.setWidth 32).signExtend 64) ∧
      gives (.zextB d a) (BitVec.ofNat 64 (x.toNat % 2 ^ 8)) ∧
      gives (.zextH d a) (BitVec.ofNat 64 (x.toNat % 2 ^ 16)) ∧
      gives (.zextW d a) (BitVec.ofNat 64 (x.toNat % 2 ^ 32)) ∧
      Writes (.bext d a b) s [(gKey d.toNat, gval (BitVec.ofNat 64 (x.toNat / 2 ^ pos % 2 ^ n)) (s.gp a.toNat || s.gp b.toNat))] 1 ∧
      Writes (.bins d a b) s [(gKey d.toNat, gval ((s.gv d.toNat &&& ~~~m) ||| (BitVec.ofNat 64 (x.toNat * 2 ^ pos) &&& m))
        (s.gp d.toNat || s.gp a.toNat || s.gp b.toNat))] 1) ∧
    (∀ (s : State) (d a : BitVec 6) (imm : BitVec 13) (sh : BitVec 6) (imm19 : BitVec 19), s.quiet (gKey d.toNat) →
      let x := s.gv a.toNat
      let y := BitVec.ofInt 64 imm.toInt
      let n := sh.toNat
      let gives := fun (i : Instr) (v : W64) => Writes i s [(gKey d.toNat, gval v (s.gp a.toNat))] 1
      gives (.addi d a imm) (BitVec.ofInt 64 (x.toInt + imm.toInt)) ∧
      gives (.andi d a imm) (x &&& y) ∧
      gives (.ori d a imm) (x ||| y) ∧
      gives (.xori d a imm) (x ^^^ y) ∧
      gives (.shli d a sh) (BitVec.ofNat 64 (x.toNat * 2 ^ n)) ∧
      gives (.shri d a sh) (BitVec.ofNat 64 (x.toNat / 2 ^ n)) ∧
      gives (.shai d a sh) (BitVec.ofInt 64 (x.toInt / 2 ^ n)) ∧
      gives (.roli d a sh) (x <<< n ||| x >>> (64 - n)) ∧
      Writes (.limm d imm19) s [(gKey d.toNat, gval (BitVec.ofInt 64 imm19.toInt) false)] 1 ∧
      Writes (.lsh19 d imm19) s
        [(gKey d.toNat, gval (BitVec.ofNat 64 ((s.gv d.toNat).toNat * 2 ^ 19 + imm19.toNat)) (s.gp d.toNat))] 1)

/-- R332: CMP and CMPI write p[pd] := c, old and c, or old or c for modes SET, AND and OR, L = 1; the old predicate is a
source in the last two. A write to p0 is discarded.
R333: the predicate words, L = 1. q[0] inverts the first predicate source, q[1] the second. -/
def Obligations.ComparesAndPredicatesWriteTheirResult : Prop :=
    (∀ (s : State) (p : BitVec 3) (a b : BitVec 6) (imm : BitVec 10), s.quiet (pKey p.toNat) →
      let x := s.gv a.toNat
      let y := s.gv b.toNat
      let k := imm.toInt
      let old := s.p p.toNat
      let gives := fun (i : BitVec 2 → Instr) (c : Bool) (poison : Bool) =>
        Writes (i 0) s [(pKey p.toNat, pval c poison)] 1 ∧
        Writes (i 1) s [(pKey p.toNat, pval (old.isTrue && c) (poison || old.poison))] 1 ∧
        Writes (i 2) s [(pKey p.toNat, pval (old.isTrue || c) (poison || old.poison))] 1
      let q := s.gp a.toNat || s.gp b.toNat
      gives (fun m => .cmpEq p m a b) (x.toNat = y.toNat) q ∧
      gives (fun m => .cmpNe p m a b) (x.toNat ≠ y.toNat) q ∧
      gives (fun m => .cmpLt p m a b) (x.toInt < y.toInt) q ∧
      gives (fun m => .cmpLtz p m a b) (x.toNat < y.toNat) q ∧
      gives (fun m => .cmpLe p m a b) (x.toInt ≤ y.toInt) q ∧
      gives (fun m => .cmpLez p m a b) (x.toNat ≤ y.toNat) q ∧
      gives (fun m => .cmpiEq p m a imm) (x.toInt = k) (s.gp a.toNat) ∧
      gives (fun m => .cmpiNe p m a imm) (x.toInt ≠ k) (s.gp a.toNat) ∧
      gives (fun m => .cmpiLt p m a imm) (x.toInt < k) (s.gp a.toNat) ∧
      gives (fun m => .cmpiLtz p m a imm) (x.toNat < (BitVec.ofInt 64 k).toNat) (s.gp a.toNat) ∧
      gives (fun m => .cmpiLe p m a imm) (x.toInt ≤ k) (s.gp a.toNat) ∧
      gives (fun m => .cmpiLez p m a imm) (x.toNat ≤ (BitVec.ofInt 64 k).toNat) (s.gp a.toNat)) ∧
    (∀ (s : State) (d a b : BitVec 3) (q1 q0 : BitVec 1) (gd ga gb : BitVec 6),
      let x := s.p a.toNat
      let y := s.p b.toNat
      let u := Bool.xor x.isTrue (q0 == 1#1)
      let v := Bool.xor y.isTrue (q1 == 1#1)
      let P := fun (i : Instr) (r poison : Bool) => Writes i s [(pKey d.toNat, pval r poison)] 1
      (s.quiet (pKey d.toNat) →
        P (.pand d a b q1 q0) (u && v) (x.poison || y.poison) ∧
        P (.por d a b q1 q0) (u || v) (x.poison || y.poison) ∧
        P (.pxor d a b q1 q0) (u != v) (x.poison || y.poison) ∧
        P (.pnot d a) (!x.isTrue) x.poison ∧
        P (.pmov d a) x.isTrue x.poison ∧
        P (.pfromg d ga) (s.gv ga.toNat != 0) (s.gp ga.toNat)) ∧
      (s.quiet (gKey gd.toNat) →
        Writes (.sel gd ga gb a) s [(gKey gd.toNat, gval (if x.isTrue then s.gv ga.toNat else s.gv gb.toNat)
          (x.poison || s.gp ga.toNat || s.gp gb.toNat))] 1 ∧
        Writes (.ptog gd a) s [(gKey gd.toNat, gval (if x.isTrue then 1 else 0) x.poison)] 1))

/-! ### Control transfers and the loop buffer -/

/-- R334 to R339: where the packet of the issuing context leads once its words have issued (R202). A transfer that is
taken, with its target inside 0 to 10,921 and its deciding register clean, leads to the target; CALL and CALLR put
pc + 1 into g[d] with L = 1; the word changes nothing else.
R334 to R337: a transfer that is not taken changes nothing, and its target is not checked; a taken one whose target
lies outside 0 to 10,921 raises ILLEGAL with the word; a mask that is neither all ones nor all zeros raises UNIFORM with
the mask; duplicate predicates that differ raise CHECK with EINFO[3:2] = 2; a poisoned deciding register of BR, BRM, BRG, JR, RET and
CALLR raises POISON where no lower code arises. On a mask or a predicate that has not landed yet UNIFORM, CHECK and POISON tell
nothing (R334). -/
def Obligations.TransfersLeadToTheirTarget : Prop :=
    (∀ (s : State) (p k : BitVec 3) (neg : BitVec 1) (o21 : BitVec 21) (o19 : BitVec 19) (d a : BitVec 6) (pb : BitVec 3)
      (target : Nat), target ≤ 10921 →
      let leads := fun (t : State) => ((t.endPacket t.cur.tile t.cur.ctx).ctx t.cur.tile t.cur.ctx).pc = target ∧
        t.me.atEnd = .jump target
      let far := fun (i : Instr) => ∃ t, exec i s = .next t ∧ leads t ∧
        t.modMe (fun c => { c with atEnd := s.me.atEnd }) = s.modMe id
      let linked := fun (i : Instr) => ∃ t, exec i s = .next t ∧ leads t ∧
        (s.modMe (fun c => { c with atEnd := .jump target })).onlyRegs t [gKey d.toNat] ∧
        ∀ n, 1 ≤ n → t.later n (gKey d.toNat) = heldBy (gKey d.toNat) (gval (BitVec.ofNat 64 (s.me.pc + 1)) false)
      let at21 := (s.me.pc : Int) + o21.toInt = target
      let at19 := (s.me.pc : Int) + o19.toInt = target
      let atReg := (s.gv a.toNat).toNat = target ∧ s.gp a.toNat = false
      (at21 → (s.p p.toNat).poison = false → ((s.p p.toNat).isTrue = true ↔ neg = 0) → far (.br p neg o21)) ∧
      (at21 → (s.k k.toNat).poison = false →
        (s.k k.toNat).lo32 = (if neg = 0 then 0xFFFFFFFF#32 else 0#32) → far (.brm k neg o21)) ∧
      (at19 → (s.p p.toNat).isTrue = true → (s.p pb.toNat).isTrue = true → (s.p p.toNat).poison = false →
        (s.p pb.toNat).poison = false → far (.brg p pb o19)) ∧
      (at19 → far (.jmp o19)) ∧
      (at19 → s.quiet (gKey d.toNat) → linked (.call d o19)) ∧
      (atReg → far (.jr a) ∧ far (.ret a)) ∧
      (atReg → s.quiet (gKey d.toNat) → linked (.callr d a))) ∧
    (∀ (s : State) (p k : BitVec 3) (neg : BitVec 1) (o21 : BitVec 21) (o19 : BitVec 19) (a d : BitVec 6) (pb : BitVec 3),
      let illegal := BitVec.ofNat 64 (s.cur.word + s.cur.raw.toNat * 4)
      let word := BitVec.ofNat 64 s.cur.word
      let out := fun (x : Int) => x < 0 ∨ 10921 < x
      let t21 := (s.me.pc : Int) + o21.toInt
      let t19 := (s.me.pc : Int) + o19.toInt
      let m := (s.k k.toNat).lo32
      let taken := (s.p p.toNat).isTrue = true ↔ neg = 0
      (¬ taken → (s.p p.toNat).poison = false → exec (.br p neg o21) s = .next s) ∧
      (taken → out t21 → Traps (.br p neg o21) s 0x01 illegal) ∧
      ((¬ taken ∨ ¬ out t21) → (s.p p.toNat).poison = true → Traps (.br p neg o21) s 0x0B word) ∧
      (m = (if neg = 0 then 0#32 else 0xFFFFFFFF#32) → (s.k k.toNat).poison = false → exec (.brm k neg o21) s = .next s) ∧
      (m = (if neg = 0 then 0xFFFFFFFF#32 else 0#32) → out t21 → Traps (.brm k neg o21) s 0x01 illegal) ∧
      (s.early (kKey k.toNat) = false →
        (m ≠ 0 → m ≠ 0xFFFFFFFF#32 → Traps (.brm k neg o21) s 0x07 (BitVec.ofNat 64 (m.toNat + k.toNat * 2 ^ 32))) ∧
        (m = 0 ∨ m = 0xFFFFFFFF#32 → (m = (if neg = 0 then 0xFFFFFFFF#32 else 0#32) → ¬ out t21) → (s.k k.toNat).poison = true →
          Traps (.brm k neg o21) s 0x0B word)) ∧
      ((s.p p.toNat).isTrue = false → (s.p pb.toNat).isTrue = false → (s.p p.toNat).poison = false →
        (s.p pb.toNat).poison = false → exec (.brg p pb o19) s = .next s) ∧
      ((s.p p.toNat).isTrue = true → (s.p pb.toNat).isTrue = true → out t19 → Traps (.brg p pb o19) s 0x01 illegal) ∧
      (s.early (pKey p.toNat) = false → s.early (pKey pb.toNat) = false →
        ((s.p p.toNat).isTrue ≠ (s.p pb.toNat).isTrue →
          Traps (.brg p pb o19) s 0x08 (BitVec.ofNat 64 (s.cur.word + 2 * 4))) ∧
        ((s.p p.toNat).isTrue = (s.p pb.toNat).isTrue → ((s.p p.toNat).isTrue = true → ¬ out t19) →
          ((s.p p.toNat).poison = true ∨ (s.p pb.toNat).poison = true) → Traps (.brg p pb o19) s 0x0B word)) ∧
      (out t19 → Traps (.jmp o19) s 0x01 illegal ∧ Traps (.call d o19) s 0x01 illegal) ∧
      (10921 < (s.gv a.toNat).toNat → Traps (.jr a) s 0x01 illegal ∧ Traps (.ret a) s 0x01 illegal ∧
        Traps (.callr d a) s 0x01 illegal) ∧
      ((s.gv a.toNat).toNat ≤ 10921 → s.gp a.toNat = true → Traps (.jr a) s 0x0B word ∧ Traps (.ret a) s 0x0B word ∧
        Traps (.callr d a) s 0x0B word))

/-- R340: LOOPN and LOOPN.FZ set up the nest: LB_NEST is g[a] with bit 63 cleared, LB_IDX is 0, LB_BODY names the packet
after this one, the length, act = 1 and the mode, the flags are the six spill slots (or 0), and nothing else changes. Slots above
1,023 raise ILLEGAL, supervisor slots in U mode PRIV with the slot, a poisoned g[a] or slot POISON, the lowest code first.
R341: what follows the end of a packet of context x whose word 0 was no taken transfer. At packet start + len of a
nest that acts, the indices step as a counter whose level 0 varies fastest, and the context goes back to start; with every
index at its count the nest ends and the next packet is the one after the body. Elsewhere the next packet is pc + 1. -/
def Obligations.TheLoopBufferRunsItsNest : Prop :=
    (∀ (s : State) (a l : BitVec 6) (slot : BitVec 10),
      let body := BitVec.ofNat 64 ((s.me.pc + 1) % 2 ^ 14 + l.toNat * 2 ^ 14 + 2 ^ 20 + (if s.me.sMode then 2 ^ 21 else 0))
      let done := fun (i : Instr) (flags : Nat → W64) => ∃ t, exec i s = .next t ∧
        t.me.cr 0x100 = s.gv a.toNat &&& 0x7FFFFFFFFFFFFFFF#64 ∧ t.me.cr 0x101 = 0 ∧ t.me.cr 0x102 = body ∧
        (∀ w, w < 6 → t.me.cr (0x103 + w) = flags w) ∧
        (∀ i, (i < 0x100 ∨ 0x108 < i) → t.me.cr i = s.me.cr i) ∧
        t.modMe (fun c => { c with creg := [] }) = s.modMe (fun c => { c with creg := [] })
      s.gp a.toNat = false →
        done (.loopnFz a l) (fun _ => 0) ∧
        (slot.toNat + 5 ≤ 1023 → (s.me.sMode = true ∨ slot.toNat + 5 < 1016) →
          (∀ w, w < 6 → (s.rd (spKey (slot.toNat + w))).poison = false) →
          done (.loopn a slot l) (fun w => (s.rd (spKey (slot.toNat + w))).w))) ∧
    (∀ (s : State) (a l : BitVec 6) (slot : BitVec 10),
      let word := BitVec.ofNat 64 s.cur.word
      let priv := s.me.sMode = false ∧ 1016 ≤ slot.toNat + 5
      (1023 < slot.toNat + 5 → Traps (.loopn a slot l) s 0x01 (BitVec.ofNat 64 (s.cur.word + s.cur.raw.toNat * 4))) ∧
      (slot.toNat + 5 ≤ 1023 → priv → Traps (.loopn a slot l) s 0x02 (BitVec.ofNat 64 (s.cur.word + slot.toNat * 4))) ∧
      (slot.toNat + 5 ≤ 1023 → ¬ priv → (s.gp a.toNat = true ∨ ∃ w, w < 6 ∧ (s.rd (spKey (slot.toNat + w))).poison = true) →
        Traps (.loopn a slot l) s 0x0B word) ∧
      (s.gp a.toNat = true → Traps (.loopnFz a l) s 0x0B word)) ∧
    (∀ (c : Ctx),
      let start := fld (c.cr 0x102) 0 14
      let last := start + fld (c.cr 0x102) 14 6
      let acts := (c.cr 0x102).getLsbD 20 = true ∧ (c.cr 0x102).getLsbD 21 = c.sMode
      let cnt := fun j => fld (c.cr 0x100) (10 * j) 10
      let idx := fun (c : Ctx) j => fld (c.cr 0x101) (10 * j) 10
      (¬ (acts ∧ c.pc = last) → c.advance = { c with pc := c.pc + 1 }) ∧
      (acts → c.pc = last → (∀ j, j < 6 → idx c j = cnt j) →
        c.advance.pc = last + 1 ∧ (c.advance.cr 0x102).getLsbD 20 = false ∧ c.advance.cr 0x101 = c.cr 0x101) ∧
      (∀ j, j < 6 → acts → c.pc = last → (∀ i, i < j → idx c i = cnt i) → idx c j ≠ cnt j →
        c.advance.pc = start ∧ c.advance.cr 0x102 = c.cr 0x102 ∧
        (∀ i, i < 6 → idx c.advance i = if i < j then 0 else if i = j then (idx c j + 1) % 1024 else idx c i)))

/-! ### Capabilities and control registers -/

/-- R343, R345, R216: the words that move a cursor or drop permissions or the tag, L = 1, with clean sources. The cursor
is (address + increment) mod 2^56, or g[b][55:0] for CSEEK; the other fields are copied; the tag is kept only where R345
and R216 allow it. CCOPY copies the capability with its tag.
R343: the words that read a capability into a general register, tagged or not, L = 1, with a clean source. -/
def Obligations.CapabilityWords : Prop :=
    (∀ (s : State) (d a : BitVec 4) (b : BitVec 6) (imm : BitVec 13), s.quiet (cKey d.toNat) →
      (s.c a.toNat).poison = false →
      let v := s.c a.toNat
      let y := (s.gv b.toNat).toNat
      let block := fun (x : Nat) => x / 2 ^ (capE v + 27)
      let kept := fun (w : RVal) => capSpace w = capSpace v ∧ capE w = capE v ∧ capB w = capB v ∧ capL w = capL v ∧
        w.poison = false
      let moved := fun (i : Instr) (x : Nat) (extra : Prop) => ∃ w, Writes i s [(cKey d.toNat, w)] 1 ∧ kept w ∧
        capPerms w = capPerms v ∧ capAddr w = x ∧
        (w.tag = true ↔ v.tag = true ∧ block x = block (capAddr v) ∧ extra ∧ CapMeetsR216 w)
      moved (.cadvi d a imm) ((capAddr v + (BitVec.ofInt 64 imm.toInt).toNat) % 2 ^ 56) True ∧
      (∃ w, Writes (.cvoid d a) s [(cKey d.toNat, w)] 1 ∧ w.bits = v.bits ∧ w.tag = false ∧ w.poison = false) ∧
      Writes (.ccopy d a) s [(cKey d.toNat, v)] 1 ∧
      (s.gp b.toNat = false →
        moved (.cadv d a b) ((capAddr v + y) % 2 ^ 56) True ∧
        moved (.cseek d a b) (y % 2 ^ 56) (y < 2 ^ 56) ∧
        (∃ w, Writes (.cdrop d a b) s [(cKey d.toNat, w)] 1 ∧ kept w ∧ capPerms w = capPerms v &&& (y % 256) ∧
          capAddr w = capAddr v ∧ (w.tag = true ↔ v.tag = true ∧ CapMeetsR216 w)))) ∧
    (∀ (s : State) (d : BitVec 6) (a b : BitVec 4), s.quiet (gKey d.toNat) → (s.c a.toNat).poison = false →
      let v := s.c a.toNat
      let gives := fun (i : Instr) (x : Nat) => Writes i s [(gKey d.toNat, gval (BitVec.ofNat 64 x) false)] 1
      gives (.crdlo d a) (capBase v) ∧
      gives (.crdsz d a) (capLimit v - capBase v) ∧
      gives (.crdcu d a) (v.bits.toNat % 2 ^ 56) ∧
      gives (.crdpm d a) (v.bits.toNat / 2 ^ 56 % 2 ^ 8) ∧
      gives (.crdsp d a) (v.bits.toNat / 2 ^ 64 % 2 ^ 3) ∧
      gives (.crdvt d a) (if v.tag then 1 else 0) ∧
      ((s.c b.toNat).poison = false → Writes (.cdist d a b) s
        [(gKey d.toNat, gval (BitVec.ofInt 64 ((capAddr v : Int) - capAddr (s.c b.toNat))) false)] 1))

/-- R344: CNARW takes the smallest exponent from 0 to 29 that represents [address, address + g[b]) exactly; the result
is tagged only if the source is and holds the range, and otherwise it is the source with its tag clear. -/
def Obligations.CnarwTakesTheSmallestExponent : Prop :=
  ∀ (s : State) (d a : BitVec 4) (b : BitVec 6), s.quiet (cKey d.toNat) → (s.c a.toNat).poison = false →
    s.gp b.toNat = false →
    let v := s.c a.toNat
    let b0 := capAddr v
    let n := (s.gv b.toNat).toNat
    let fits := fun e => b0 % 2 ^ e = 0 ∧ n % 2 ^ e = 0 ∧ n / 2 ^ e ≤ 2 ^ 28 - 1 ∧
      b0 + n ≤ (b0 / 2 ^ (e + 27) + 1) * 2 ^ (e + 27)
    let inside := v.tag = true ∧ capBase v ≤ b0 ∧ b0 + n ≤ capLimit v
    (∀ e, e ≤ 29 → fits e → (∀ e', e' < e → ¬ fits e') → inside →
      ∃ w, Writes (.cnarw d a b) s [(cKey d.toNat, w)] 1 ∧ capE w = e ∧ capBase w = b0 ∧ capLimit w = b0 + n ∧
        capAddr w = b0 ∧ capPerms w = capPerms v ∧ capSpace w = capSpace v ∧ w.poison = false ∧
        (w.tag = true ↔ CapMeetsR216 w)) ∧
    ((¬ inside ∨ ∀ e, e ≤ 29 → ¬ fits e) →
      Writes (.cnarw d a b) s [(cKey d.toNat, { v with tag := false })] 1)

/-- R346, R213: the accesses to control registers complete or trap as the index, the mode and the poison say. MFC puts the
value at issue into g[d] with L = 2, never poisoned; a write enters the tile's queue of writes, to take effect at the
context's packet after next or in the third packet slot (R206), performed no sooner than issue + 2 (R208), and changes nothing else.
R347: what a write of a register whose fields are all RW leaves: MTC the value, MSC the OR, MCC the AND NOT; a bit
outside the register's RW fields, its counters and its W1C bits keeps its value, whatever is written. -/
def Obligations.ControlRegisterWords : Prop :=
    (∀ (s : State) (g : BitVec 6) (r : BitVec 12),
      let i := r.toNat
      let illegal := BitVec.ofNat 64 (s.cur.word + s.cur.raw.toNat * 4)
      let priv := BitVec.ofNat 64 (s.cur.word + i * 4)
      let queued := fun (op : Nat) (t : State) => t = s.modHere (fun T => { T with cpend := T.cpend ++
        [{ ctx := s.cur.ctx, idx := i, val := s.gv g.toNat, op := op, packetDue := s.me.packets + 2,
           slotDue := T.slots + 3, performAt := T.cycle + 2 : CregWrite }] })
      (cregAssigned i = false → Traps (.mfc g r) s 0x01 illegal ∧ Traps (.mtc g r) s 0x01 illegal ∧
        Traps (.msc g r) s 0x01 illegal ∧ Traps (.mcc g r) s 0x01 illegal) ∧
      (cregAssigned i = true →
        (s.me.sMode = false → cregReadPriv i = true → Traps (.mfc g r) s 0x02 priv) ∧
        ((s.me.sMode = true ∨ cregReadPriv i = false) → s.quiet (gKey g.toNat) →
          Writes (.mfc g r) s [(gKey g.toNat, gval (s.mfcValue i) false)] 2) ∧
        (s.me.sMode = false → cregWriteUser i = false → Traps (.mtc g r) s 0x02 priv ∧ Traps (.msc g r) s 0x02 priv ∧
          Traps (.mcc g r) s 0x02 priv) ∧
        ((s.me.sMode = true ∨ cregWriteUser i = true) →
          (s.gp g.toNat = true → Traps (.mtc g r) s 0x0B (BitVec.ofNat 64 s.cur.word)) ∧
          (s.gp g.toNat = false →
            (∃ t, exec (.mtc g r) s = .next t ∧ queued 0 t) ∧ (∃ t, exec (.msc g r) s = .next t ∧ queued 1 t) ∧
            (∃ t, exec (.mcc g r) s = .next t ∧ queued 2 t))))) ∧
    (∀ (i : Nat) (old g : W64),
      (i ≠ 0x011 → i ≠ 0x401 → i ≠ 0x015 → cntFields i = [] →
        ∀ b, b < 64 →
          (written i 0 old g).getLsbD b = (if (rwMask i).testBit b then g.getLsbD b else old.getLsbD b) ∧
          (written i 1 old g).getLsbD b = (if (rwMask i).testBit b then old.getLsbD b || g.getLsbD b else old.getLsbD b) ∧
          (written i 2 old g).getLsbD b = (if (rwMask i).testBit b then old.getLsbD b && !g.getLsbD b else old.getLsbD b)) ∧
      -- CTX_MODE: ps is written, ntrap is cleared by a 1, the mode and the pending causes cannot be written (R214)
      (∀ b, b < 64 → (written 0x015 0 old g).getLsbD b =
        (if b = 1 then g.getLsbD 1 else if b = 2 then old.getLsbD 2 && !g.getLsbD 2 else old.getLsbD b)) ∧
      -- CTX_EPC: a write of 3 to resume is ignored (R214)
      (fld (written 0x011 0 old g) 14 2 = if fld g 14 2 = 3 then fld old 14 2 else fld g 14 2) ∧
      -- CORE_RTRK.high: a write of 0 clears it, other values are ignored (R222)
      (fld (written 0x004 0 old g) 6 6 = if fld g 6 6 = 0 then 0 else fld old 6 6))

/-! ### Spill memory and the pad -/

/-- R350 to R352: the spill words, in S mode or off the supervisor slots, with the slot placed as R350 requires. Loads and
stores land in exactly issue + 1 and carry poison; a data store clears the pair tag, SPSC sets it from the capability.
R351: a U-mode access to a supervisor slot raises PRIV with the lowest such slot, and a misplaced slot raises ALIGN
with the slot; PRIV reports when both hold. -/
def Obligations.SpillWords : Prop :=
    (∀ (s : State) (g : BitVec 6) (v : BitVec 5) (x : BitVec 4) (sl : BitVec 10),
      let k := sl.toNat
      let slot := fun n => s.rd (spKey (k + n))
      let allowed := fun n => s.me.sMode = true ∨ k + n ≤ 1016
      let lane := fun (i : Nat) => BitVec.ofNat 32 ((slot (i / 2)).w.toNat / 2 ^ (32 * (i % 2)))
      let pair := fun (j : Nat) => (s.lane v.toNat (2 * j)).lo32.toNat + (s.lane v.toNat (2 * j + 1)).lo32.toNat * 2 ^ 32
      (allowed 1 → s.quiet (gKey g.toNat) → Writes (.spl g sl) s [(gKey g.toNat, gval (slot 0).w (slot 0).poison)] 1) ∧
      (allowed 1 → s.quiet (spKey k) → s.quiet (spTagKey k) →
        Writes (.sps g sl) s [(spKey k, gval (s.gv g.toNat) (s.gp g.toNat)), (spTagKey k, {})] 1) ∧
      (allowed 16 → k % 16 = 0 → (∀ i, i < 32 → s.quiet (vKey v.toNat i)) →
        Writes (.splv v sl) s ((List.range 32).map (fun i => (vKey v.toNat i, lval (lane i) (slot (i / 2)).poison))) 1) ∧
      (allowed 16 → k % 16 = 0 → (∀ j, j < 16 → s.quiet (spKey (k + j)) ∧ s.quiet (spTagKey (k + j))) →
        Writes (.spsv v sl) s ((List.range 16).map (fun j => (spKey (k + j), gval (BitVec.ofNat 64 (pair j))
            ((s.lane v.toNat (2 * j)).poison || (s.lane v.toNat (2 * j + 1)).poison))) ++
          (List.range 16).map (fun j => (spTagKey (k + j), ({} : RVal)))) 1) ∧
      (allowed 2 → k % 2 = 0 → s.quiet (cKey x.toNat) →
        Writes (.splc x sl) s [(cKey x.toNat, RVal.mk (BitVec.ofNat 128 ((slot 0).w.toNat + (slot 1).w.toNat * 2 ^ 64))
          (s.rd (spTagKey k)).tag ((slot 0).poison || (slot 1).poison))] 1) ∧
      (allowed 2 → k % 2 = 0 → s.quiet (spKey k) → s.quiet (spKey (k + 1)) → s.quiet (spTagKey k) →
        Writes (.spsc x sl) s [(spKey k, gval (BitVec.ofNat 64 ((s.c x.toNat).bits.toNat % 2 ^ 64)) (s.c x.toNat).poison),
          (spKey (k + 1), gval (BitVec.ofNat 64 ((s.c x.toNat).bits.toNat / 2 ^ 64)) (s.c x.toNat).poison),
          (spTagKey k, { tag := (s.c x.toNat).tag })] 1)) ∧
    (∀ (s : State) (g : BitVec 6) (v : BitVec 5) (x : BitVec 4) (sl : BitVec 10),
      let k := sl.toNat
      let priv := BitVec.ofNat 64 (s.cur.word + (max k 1016) * 4)
      let align := BitVec.ofNat 64 (s.cur.word + k * 256)
      (s.me.sMode = false → 1016 < k + 1 → Traps (.spl g sl) s 0x02 priv ∧ Traps (.sps g sl) s 0x02 priv) ∧
      (s.me.sMode = false → 1016 < k + 16 → Traps (.splv v sl) s 0x02 priv ∧ Traps (.spsv v sl) s 0x02 priv) ∧
      (s.me.sMode = false → 1016 < k + 2 → Traps (.splc x sl) s 0x02 priv ∧ Traps (.spsc x sl) s 0x02 priv) ∧
      ((s.me.sMode = true ∨ k + 16 ≤ 1016) → k % 16 ≠ 0 → Traps (.splv v sl) s 0x04 align ∧ Traps (.spsv v sl) s 0x04 align) ∧
      ((s.me.sMode = true ∨ k + 2 ≤ 1016) → k % 2 ≠ 0 → Traps (.splc x sl) s 0x04 align ∧ Traps (.spsc x sl) s 0x04 align))

/-- R353, R354: the plain loads. An access that passes its checks puts the sign- or zero-extended bytes, little-endian,
into g[d] with L = 6, poisoned when a 64-bit pad word of the access is, and changes nothing else. -/
def Obligations.PlainLoadsReturnThePadBytes : Prop :=
  ∀ (s : State) (d : BitVec 6) (c : BitVec 4) (o : BitVec 12), s.quiet (gKey d.toNat) →
    let loads := fun (i : Instr) (n : Nat) (ext : Nat → W64) =>
      PadAllows s c.toNat (o.toInt * n) n 1 n false true →
      let a := (capAddr (s.c c.toNat) + o.toInt * n).toNat
      Writes i s [(gKey d.toNat, gval (ext (readBytes s.here.pad a n)) (mget false s.here.padPoison (a / 8)))] 6
    loads (.ldS8 d c o) 1 (fun v => (BitVec.ofNat 8 v).signExtend 64) ∧
    loads (.ldS16 d c o) 2 (fun v => (BitVec.ofNat 16 v).signExtend 64) ∧
    loads (.ldS32 d c o) 4 (fun v => (BitVec.ofNat 32 v).signExtend 64) ∧
    loads (.ldS64 d c o) 8 (fun v => BitVec.ofNat 64 v) ∧
    loads (.ldZ8 d c o) 1 (fun v => (BitVec.ofNat 8 v).setWidth 64) ∧
    loads (.ldZ16 d c o) 2 (fun v => (BitVec.ofNat 16 v).setWidth 64) ∧
    loads (.ldZ32 d c o) 4 (fun v => (BitVec.ofNat 32 v).setWidth 64)

/-- R353, R354, R363: the plain stores and the guarded stores. An access that passes its checks writes the low n bytes at
cursor + offset, with their poison and tags (R292, R218, R281), and leaves every other byte and all else as it was. A
guarded store asks for equal, clean duplicates. -/
def Obligations.StoresWriteTheirBytesAndNoOthers : Prop :=
  ∀ (s : State) (g : BitVec 6) (c : BitVec 4) (o : BitVec 12) (a b : BitVec 6) (sz : BitVec 2) (o7 : BitVec 7),
    let stores := fun (i : Instr) (n : Nat) =>
      PadAllows s c.toNat (o.toInt * n) n 2 n true true →
      PadStores i s (capAddr (s.c c.toNat) + o.toInt * n).toNat n (s.gv g.toNat).toNat (s.gp g.toNat)
    stores (.stS8 g c o) 1 ∧ stores (.stS16 g c o) 2 ∧ stores (.stS32 g c o) 4 ∧ stores (.stS64 g c o) 8 ∧
    (let n : Nat := 2 ^ sz.toNat
     PadAllows s c.toNat (o7.toInt * n) n 2 n true true → s.gv a.toNat = s.gv b.toNat → s.gp a.toNat = false →
      s.gp b.toNat = false →
      PadStores (.stg a c b sz o7) s (capAddr (s.c c.toNat) + o7.toInt * n).toNat n (s.gv a.toNat).toNat false)

/-- R217, R348, R280, R282: the checks of a plain load or store, in their order, with what CTX_EINFO names (R230): of the tracker entries
that conflict the lowest-numbered, with the lowest byte of the access that it holds; a line whose tag another context wrote since
the last release that this context has observed, with bit 30.
R353, R355, R276, R281: the ordered forms. With nothing outstanding that their scope orders, LD.ACQ returns the bytes as
LD does, the context issuing nothing before they have landed (R312), and takes the line's count into o[X] at TILE or
wider; it changes nothing else. ST.REL writes as ST does, RC having been incremented at TILE or wider. At SYS the flushing reads of R276
that are due go out first (`flushFor`). Where something is outstanding the word waits with reason 6. (A release of context 0 at GRP or
wider inside an open pass also ends its protection, R297; that form is left to `PassesLoseProtection`.) (The model's choice, no rule of the
spec: what a scope orders, read literally from the table of R276, log 17.) -/
def Obligations.PadAccessesTrapOrWait : Prop :=
    (∀ (s : State) (g : BitVec 6) (c : BitVec 4) (o : BitVec 12),
      let v := s.c c.toNat
      let at' := fun (n : Nat) => (capAddr v : Int) + o.toInt * n
      let info := fun (reason n : Nat) => BitVec.ofNat 64 (s.cur.word + c.toNat * 4 + reason * 64 + (at' n % 2 ^ 56).toNat * 256)
      let forms : List (Instr × Nat × Nat) := [(.ldS8 g c o, 1, 1), (.ldS16 g c o, 2, 1), (.ldS32 g c o, 4, 1),
        (.ldS64 g c o, 8, 1), (.ldZ8 g c o, 1, 1), (.ldZ16 g c o, 2, 1), (.ldZ32 g c o, 4, 1), (.stS8 g c o, 1, 2),
        (.stS16 g c o, 2, 2), (.stS32 g c o, 4, 2), (.stS64 g c o, 8, 2)]
      ∀ f ∈ forms,
        let i := f.1
        let n := f.2.1
        let need := f.2.2
        let perms := capPerms v &&& need = need ∧ (capPerms v &&& 128 = 128 → s.me.sMode = true)
        let bounds := (capBase v : Int) ≤ at' n ∧ at' n + n ≤ capLimit v ∧ at' n + n ≤ 2 ^ 22
        (v.tag = false → Traps i s 0x03 (info 0 n)) ∧
        (v.tag = true → capSpace v ≠ 1 → Traps i s 0x03 (info 3 n)) ∧
        (v.tag = true → capSpace v = 1 → ¬ perms → Traps i s 0x03 (info 2 n)) ∧
        (v.tag = true → capSpace v = 1 → perms → ¬ bounds → Traps i s 0x03 (info 1 n)) ∧
        (v.tag = true → capSpace v = 1 → perms → bounds → at' n % n ≠ 0 →
          Traps i s 0x04 (BitVec.ofNat 64 (s.cur.word + (at' n).toNat * 256))) ∧
        (v.tag = true → capSpace v = 1 → perms → bounds → at' n % n = 0 →
          let meets := fun (e : TrkEntry) => (e.writes || need == 2) = true ∧ (e.lo : Int) < at' n + n ∧ at' n < e.hi
          ∀ e ∈ s.rivals, meets e → (∀ e' ∈ s.rivals, meets e' → e' ≠ e → e.n < e'.n) →
            Traps i s 0x05 (BitVec.ofNat 64 (s.cur.word + e.n % 32 * 4 + max (at' n).toNat e.lo % 2 ^ 22 * 256))) ∧
        (v.tag = true → capSpace v = 1 → perms → bounds → at' n % n = 0 →
          (∀ e ∈ s.rivals, (e.writes || need == 2) = true → (e.hi : Int) ≤ at' n ∨ at' n + n ≤ e.lo) →
          let tag : LineTag := mget {} s.here.lineTags ((at' n).toNat / 64)
          tag.ctx.toNat ≠ s.cur.ctx → (s.here.rc - tag.cnt).toNat ≤ 127 →
          ¬ (1 ≤ (s.me.obs - tag.cnt).toNat ∧ (s.me.obs - tag.cnt).toNat ≤ 127) →
          Traps i s 0x05 (BitVec.ofNat 64 (s.cur.word + (at' n).toNat % 2 ^ 22 * 256 + 2 ^ 30))) ∧
        (v.tag = true → capSpace v = 1 → perms → bounds → at' n % n = 0 → v.poison = true →
          (∀ e ∈ s.rivals, (e.writes || need == 2) = true → (e.hi : Int) ≤ at' n ∨ at' n + n ≤ e.lo) →
          s.here.lineRace s.cur.ctx (s.padAddr c.toNat (o.toInt * n)) (s.padAddr c.toNat (o.toInt * n) + n) = none →
          Traps i s 0x0B (BitVec.ofNat 64 s.cur.word))) ∧
    (∀ (s : State) (g : BitVec 6) (c : BitVec 4) (sc : BitVec 3) (w : BitVec 1) (o : BitVec 7),
      let n := if w = 1 then 8 else 4
      let off := o.toInt * (n : Nat)
      let a := (capAddr (s.c c.toNat) + off).toNat
      let rc' := if 1 ≤ sc.toNat then s.here.rc + 1 else s.here.rc
      let cnt := (mget {} s.here.lineTags (a / 64) : LineTag).cnt
      let seen := 1 ≤ sc.toNat ∧ 1 ≤ (cnt - s.me.obs).toNat ∧ (cnt - s.me.obs).toNat ≤ 127
      let sent := fun (acq : Bool) => s.flushFor acq (!acq) s.cur.tile s.cur.ctx sc.toNat s.myPlace
      (PadAllows s c.toNat off n 1 n false false → s.quiet (gKey g.toNat) →
        (s.acquirable s.cur.tile s.cur.ctx sc.toNat s.myPlace = true →
          ∃ t, exec (.ldAcq g c sc w o) s = .next t ∧
            t.modMe id = (sent true).modMe (fun c =>
              { c with regs := t.me.regs, flights := t.me.flights, hold := s.here.cycle + 6, obs := if seen then cnt else s.me.obs }) ∧
            (∀ k, 6 ≤ k → t.later k (gKey g.toNat) = heldBy (gKey g.toNat)
              (gval (BitVec.ofNat 64 (readBytes s.here.pad a n)) (mget false s.here.padPoison (a / 8)))) ∧
            (∀ key, key ≠ gKey g.toNat → ∀ k, t.later k key = s.later k key)) ∧
        (s.acquirable s.cur.tile s.cur.ctx sc.toNat s.myPlace = false → Waits (.ldAcq g c sc w o) s 6)) ∧
      (PadAllows s c.toNat off n 2 n true false → (sc.toNat ≤ 1 ∨ s.cur.ctx ≠ 0 ∨ s.here.passOpen = false) →
        (s.released s.cur.tile s.cur.ctx sc.toNat s.myPlace = true →
          ∃ T : Tile, exec (.stRel g c sc w o) s = .next ((sent false).setTile s.cur.tile T) ∧
            PadWritten { (sent false).here with rc := rc' } T s.cur.ctx a n (s.gv g.toNat).toNat (s.gp g.toNat)) ∧
        (s.released s.cur.tile s.cur.ctx sc.toNat s.myPlace = false → Waits (.stRel g c sc w o) s 6)))

/-- R356: LDV and STV under mask k[k], with the 128 bytes aligned and every active lane's access allowed. LDV puts each
active lane's four bytes into its lane with L = 6, and no other register changes; STV writes the active lanes' bytes and
no others. With no active lane nothing is accessed, and nothing but the alignment is checked.
R357, R358: gather and scatter of one element of e = 2^esz bytes per active lane, lane i at cursor + v[a].lane[i].
LDVG zero-extends each element into its lane with L = 8; STVS writes in increasing lane order, so that of lanes with one
address the highest remains. The core is frozen for m − 2 cycles, m the most distinct lines in one bank. -/
def Obligations.VectorAccessesMoveActiveLanes : Prop :=
    (∀ (s : State) (v : BitVec 5) (c : BitVec 4) (k : BitVec 3) (o : BitVec 12),
      let base := (capAddr (s.c c.toNat) : Int) + o.toInt * 128
      let A := (List.range 32).filter (fun i => (s.k k.toNat).bits.getLsbD i)
      let at' := fun (i : Nat) => (base + 4 * i).toNat
      let allowed := fun (need : Nat) (writes : Bool) => base % 128 = 0 ∧ ((s.k k.toNat).poison = false ∨ A = []) ∧
        ∀ i ∈ A, PadAllows s c.toNat (o.toInt * 128 + 4 * i) 4 need 4 writes true
      (allowed 1 false → (∀ i ∈ A, s.quiet (vKey v.toNat i)) →
        Writes (.ldv v c k o) s (A.map (fun i => (vKey v.toNat i,
          lval (BitVec.ofNat 32 (readBytes s.here.pad (at' i) 4)) (mget false s.here.padPoison (at' i / 8))))) 6) ∧
      (allowed 2 true →
        ∃ T : Tile, exec (.stv v c k o) s = .next (s.setTile s.cur.tile T) ∧
          (∀ i ∈ A, readBytes T.pad (at' i) 4 = (s.lane v.toNat i).lo32.toNat) ∧
          (∀ b, (∀ i ∈ A, b < at' i ∨ at' i + 4 ≤ b) → mget 0#8 T.pad b = mget 0#8 s.here.pad b) ∧
          (∀ i ∈ A, (s.lane v.toNat i).poison = true → mget false T.padPoison (at' i / 8) = true) ∧
          (∀ j, 2 * j ∈ A → 2 * j + 1 ∈ A → (s.lane v.toNat (2 * j)).poison = false →
            (s.lane v.toNat (2 * j + 1)).poison = false → mget false T.padPoison (at' (2 * j) / 8) = false) ∧
          (∀ i ∈ A, mget {} T.lineTags (at' i / 64) = ⟨BitVec.ofNat 2 s.cur.ctx, s.here.rc⟩ ∧
            mget false T.capTags (at' i / 16) = false) ∧
          { T with pad := s.here.pad, padPoison := s.here.padPoison, capTags := s.here.capTags,
                   lineTags := s.here.lineTags } = s.here) ∧
      (base % 128 ≠ 0 → A = [] →
        Traps (.ldv v c k o) s 0x04 (BitVec.ofNat 64 (s.cur.word + (base % 2 ^ 56).toNat * 256)) ∧
        Traps (.stv v c k o) s 0x04 (BitVec.ofNat 64 (s.cur.word + (base % 2 ^ 56).toNat * 256)))) ∧
    (∀ (s : State) (v a : BitVec 5) (c : BitVec 4) (k : BitVec 3) (sz : BitVec 2), sz ≠ 3 →
      let e : Nat := 2 ^ sz.toNat
      let off := fun (i : Nat) => ((s.lane a.toNat i).lo32.toNat : Int)
      let A := (List.range 32).filter (fun i => (s.k k.toNat).bits.getLsbD i)
      let at' := fun (i : Nat) => (capAddr (s.c c.toNat) + off i).toNat
      let clean := (s.c c.toNat).poison = false ∧ (s.k k.toNat).poison = false ∧ ∀ i ∈ A, (s.lane a.toNat i).poison = false
      let allowed := fun (need : Nat) (writes : Bool) => clean ∧ ∀ i ∈ A, PadAllows s c.toNat (off i) e need e writes true
      -- at most two distinct lines of any bank: no freeze
      (allowed 1 false → (∀ i ∈ A, s.quiet (vKey v.toNat i)) → gatherFreeze (A.map at') = 0 →
        Writes (.ldvg v c a k sz) s (A.map (fun i => (vKey v.toNat i,
          lval (BitVec.ofNat 32 (readBytes s.here.pad (at' i) e)) (mget false s.here.padPoison (at' i / 8))))) 8) ∧
      (allowed 1 false → (∀ i ∈ A, s.quiet (vKey v.toNat i)) →
        ∃ t, exec (.ldvg v c a k sz) s = .next t ∧ t.here.cycle = s.here.cycle ∧
          t.here.clock = s.here.clock + BitVec.ofNat 64 (gatherFreeze (A.map at')) ∧ t.here.pad = s.here.pad ∧
          (∀ i ∈ A, ∀ n, 8 ≤ n → t.later n (vKey v.toNat i) =
            lval (BitVec.ofNat 32 (readBytes s.here.pad (at' i) e)) (mget false s.here.padPoison (at' i / 8))) ∧
          (∀ key, (∀ i ∈ A, key ≠ vKey v.toNat i) → ∀ n, t.later n key = s.later n key)) ∧
      (allowed 2 true →
        ∃ T : Tile, exec (.stvs v c a k sz) s = .next (s.setTile s.cur.tile (T.freeze s.seed s.cur.tile (gatherFreeze (A.map at')))) ∧
          (∀ i ∈ A, (∀ j ∈ A, i < j → at' j ≠ at' i) → readBytes T.pad (at' i) e = (s.lane v.toNat i).lo32.toNat % 2 ^ (8 * e)) ∧
          (∀ b, (∀ i ∈ A, b < at' i ∨ at' i + e ≤ b) → mget 0#8 T.pad b = mget 0#8 s.here.pad b) ∧
          { T with pad := s.here.pad, padPoison := s.here.padPoison, capTags := s.here.capTags,
                   lineTags := s.here.lineTags } = s.here))

/-- R359: LDC loads a clean granule with its tag, L = 6; STC stores a capability with its tag, a tagged one only with SH,
and a poisoned one with its tag left clear. A poisoned granule raises POISON with its address, and a tagged capability
without SH raises CAPFAULT. -/
def Obligations.CapabilityLoadsAndStoresKeepTheTag : Prop :=
  ∀ (s : State) (d c : BitVec 4) (o : BitVec 12),
    let off := o.toInt * 16
    let a := (capAddr (s.c c.toNat) + off).toNat
    let v := s.c d.toNat
    let bad := mget false s.here.padPoison (a / 8) || mget false s.here.padPoison (a / 8 + 1)
    (PadAllows s c.toNat off 16 17 16 false true →
      (bad = false → s.quiet (cKey d.toNat) → Writes (.ldc d c o) s
        [(cKey d.toNat, RVal.mk (BitVec.ofNat 128 (readBytes s.here.pad a 16)) (mget false s.here.capTags (a / 16)) false)] 6) ∧
      (bad = true → Traps (.ldc d c o) s 0x0B (BitVec.ofNat 64 (s.cur.word + a * 4)))) ∧
    (PadAllows s c.toNat off 16 34 16 true true →
      (v.tag = true → capPerms v &&& 64 = 0 → Traps (.stc d c o) s 0x03
        (BitVec.ofNat 64 (s.cur.word + d.toNat * 4 + 2 * 64 + a * 256))) ∧
      ((v.tag = true → capPerms v &&& 64 = 64) →
        ∃ T : Tile, exec (.stc d c o) s = .next (s.setTile s.cur.tile T) ∧
          mget false T.capTags (a / 16) = (v.tag && !v.poison) ∧
          (∀ g, g ≠ a / 16 → mget false T.capTags g = mget false s.here.capTags g) ∧
          PadWritten s.here { T with capTags := mset false T.capTags (a / 16) false } s.cur.ctx a 16 v.bits.toNat v.poison))

/-- R360, R361: the pad atomics without ACQ and REL. The old value, sign-extended, lands in g[d] with L = 8, clean; the new
value is written with the poison of g[b] (and of g[d] for ACAS); an ACAS whose compare fails writes nothing.
R361, R281, R312: with ACQ, REL or both, and nothing outstanding that their scope orders, the same holds; REL increments RC before the
write, ACQ takes the line's count into o[X], a failed ACAS's too, and the context issues nothing before the old value has landed; at
SYS the flushing reads that are due go out (`flushFor`); nothing else changes. A pad atomic on a poisoned pad word raises POISON with its
address; one with ACQ or REL whose scope still has something outstanding waits with reason 6. (A release of context 0 at GRP or wider inside an
open pass also ends its protection: `PassesLoseProtection`.) (The model's choice, no rule of the spec: what a scope orders, read literally
from the table of R276, log 17.) -/
def Obligations.PadAtomics : Prop :=
    (∀ (s : State) (d b : BitVec 6) (c : BitVec 4) (w : BitVec 1), s.quiet (gKey d.toNat) →
      let n : Nat := if w = 1 then 8 else 4
      let a := capAddr (s.c c.toNat)
      PadAllows s c.toNat 0 n 7 n true false →
      let old := readBytes s.here.pad a n
      let y := (s.gv b.toNat).toNat % 2 ^ (8 * n)
      let x := (s.gv d.toNat).toNat % 2 ^ (8 * n)
      let signed := fun (z : Nat) => if z < 2 ^ (8 * n - 1) then (z : Int) else (z : Int) - 2 ^ (8 * n)
      let result := gval (BitVec.ofInt 64 (signed old)) false
      let writes := fun (i : Instr) (v : Nat) (poison : Bool) => PadUpdates i s (gKey d.toNat) result 8 a n v poison
      let p := s.gp b.toNat
      mget false s.here.padPoison (a / 8) = false →
        writes (.aadd d c b w 0 0 0) (old + y) p ∧
        writes (.aand d c b w 0 0 0) (old &&& y) p ∧
        writes (.aor d c b w 0 0 0) (old ||| y) p ∧
        writes (.axor d c b w 0 0 0) (old ^^^ y) p ∧
        writes (.amin d c b w 0 0 0) (if signed old ≤ signed y then old else y) p ∧
        writes (.amax d c b w 0 0 0) (if signed old ≤ signed y then y else old) p ∧
        writes (.aminz d c b w 0 0 0) (min old y) p ∧
        writes (.amaxz d c b w 0 0 0) (max old y) p ∧
        writes (.aswp d c b w 0 0 0) y p ∧
        (old = x → writes (.acas d c b w 0 0 0) y (p || s.gp d.toNat)) ∧
        (old ≠ x → Writes (.acas d c b w 0 0 0) s [(gKey d.toNat, result)] 8)) ∧
    (∀ (s : State) (d b : BitVec 6) (c : BitVec 4) (w acq rel : BitVec 1) (sc : BitVec 2),
      let n : Nat := if w = 1 then 8 else 4
      let a := capAddr (s.c c.toNat)
      let all : List Instr := [.aadd d c b w acq rel sc, .aand d c b w acq rel sc, .aor d c b w acq rel sc,
        .axor d c b w acq rel sc, .amin d c b w acq rel sc, .amax d c b w acq rel sc, .aminz d c b w acq rel sc,
        .amaxz d c b w acq rel sc, .aswp d c b w acq rel sc, .acas d c b w acq rel sc]
      let old := readBytes s.here.pad a n
      let y := (s.gv b.toNat).toNat % 2 ^ (8 * n)
      let x := (s.gv d.toNat).toNat % 2 ^ (8 * n)
      let signed := fun (z : Nat) => if z < 2 ^ (8 * n - 1) then (z : Int) else (z : Int) - 2 ^ (8 * n)
      let cnt := (mget {} s.here.lineTags (a / 64) : LineTag).cnt
      let obs' := if acq = 1 ∧ 1 ≤ (cnt - s.me.obs).toNat ∧ (cnt - s.me.obs).toNat ≤ 127 then cnt else s.me.obs
      let rc' := if rel = 1 then s.here.rc + 1 else s.here.rc
      let sent := s.flushFor (acq == 1) (rel == 1) s.cur.tile s.cur.ctx (sc.toNat + 1) s.myPlace
      let begun : Tile := { (sent.modMe id).here with rc := rc' }
      let done := fun (i : Instr) (post : Tile → Prop) => ∃ t, exec i s = .next t ∧
        (∀ k, 8 ≤ k → t.later k (gKey d.toNat) = heldBy (gKey d.toNat) (gval (BitVec.ofInt 64 (signed old)) false)) ∧
        (∀ key, key ≠ gKey d.toNat → ∀ k, t.later k key = s.later k key) ∧
        t.me = { s.me with regs := t.me.regs, flights := t.me.flights, hold := s.here.cycle + 8, obs := obs' } ∧
        post (t.modMe (fun _ => s.me)).here ∧ t.setTile s.cur.tile s.here = sent.setTile s.cur.tile s.here
      let writes := fun (i : Instr) (v : Nat) (poison : Bool) => done i (fun T => PadWritten begun T s.cur.ctx a n v poison)
      let p := s.gp b.toNat
      PadAllows s c.toNat 0 n 7 n true false → (rel = 1 → sc = 0 ∨ s.cur.ctx ≠ 0 ∨ s.here.passOpen = false) →
      (mget false s.here.padPoison (a / 8) = false → (acq = 1 ∨ rel = 1) → s.quiet (gKey d.toNat) →
        (acq = 1 → s.acquirable s.cur.tile s.cur.ctx (sc.toNat + 1) s.myPlace = true) →
        (rel = 1 → s.released s.cur.tile s.cur.ctx (sc.toNat + 1) s.myPlace = true) →
        writes (.aadd d c b w acq rel sc) (old + y) p ∧
        writes (.aand d c b w acq rel sc) (old &&& y) p ∧
        writes (.aor d c b w acq rel sc) (old ||| y) p ∧
        writes (.axor d c b w acq rel sc) (old ^^^ y) p ∧
        writes (.amin d c b w acq rel sc) (if signed old ≤ signed y then old else y) p ∧
        writes (.amax d c b w acq rel sc) (if signed old ≤ signed y then y else old) p ∧
        writes (.aminz d c b w acq rel sc) (min old y) p ∧
        writes (.amaxz d c b w acq rel sc) (max old y) p ∧
        writes (.aswp d c b w acq rel sc) y p ∧
        (old = x → writes (.acas d c b w acq rel sc) y (p || s.gp d.toNat)) ∧
        (old ≠ x → done (.acas d c b w acq rel sc) (fun T => T = begun))) ∧
      ∀ i ∈ all,
        (mget false s.here.padPoison (a / 8) = true → Traps i s 0x0B (BitVec.ofNat 64 (s.cur.word + a * 4))) ∧
        (mget false s.here.padPoison (a / 8) = false →
          ((acq = 1 ∧ s.acquirable s.cur.tile s.cur.ctx (sc.toNat + 1) s.myPlace = false) ∨
            (rel = 1 ∧ s.released s.cur.tile s.cur.ctx (sc.toNat + 1) s.myPlace = false)) → Waits i s 6))

/-! ### Vector words -/

/-- R366, R369: the integer lanes, L = 3. Every active lane of v[d] receives the operation on the lanes of v[a] and v[b]
as they stand at issue, wrapped to 32 bits and poisoned when a source lane is; every other lane, register and all else
keep their values. -/
def Obligations.VectorIntegerWordsWriteActiveLanes : Prop :=
  ∀ (s : State) (d a b : BitVec 5) (k : BitVec 3),
    let A := (List.range 32).filter (fun i => (s.k k.toNat).bits.getLsbD i)
    let x := fun (i : Nat) => (s.lane a.toNat i).lo32
    let y := fun (i : Nat) => (s.lane b.toNat i).lo32
    let px := fun (i : Nat) => (s.lane a.toNat i).poison
    let n := fun (i : Nat) => (y i).toNat % 32
    let bin := fun (w : Instr) (f : Nat → W32) => Writes w s
      (A.map (fun i => (vKey d.toNat i, lval (f i) (px i || (s.lane b.toNat i).poison)))) 3
    let un := fun (w : Instr) (f : Nat → W32) => Writes w s (A.map (fun i => (vKey d.toNat i, lval (f i) (px i)))) 3
    (s.k k.toNat).poison = false → (∀ i ∈ A, s.quiet (vKey d.toNat i)) →
      bin (.vadd d a b k) (fun i => BitVec.ofNat 32 ((x i).toNat + (y i).toNat)) ∧
      bin (.vsub d a b k) (fun i => BitVec.ofInt 32 ((x i).toInt - (y i).toInt)) ∧
      bin (.vmul d a b k) (fun i => BitVec.ofNat 32 ((x i).toNat * (y i).toNat)) ∧
      bin (.vmulh d a b k 0) (fun i => BitVec.ofInt 32 ((x i).toInt * (y i).toInt / 2 ^ 32)) ∧
      bin (.vmulh d a b k 1) (fun i => BitVec.ofNat 32 ((x i).toNat * (y i).toNat / 2 ^ 32)) ∧
      bin (.vmin d a b k 0) (fun i => if (x i).toInt ≤ (y i).toInt then x i else y i) ∧
      bin (.vmin d a b k 1) (fun i => if (x i).toNat ≤ (y i).toNat then x i else y i) ∧
      bin (.vmax d a b k 0) (fun i => if (x i).toInt ≤ (y i).toInt then y i else x i) ∧
      bin (.vmax d a b k 1) (fun i => if (x i).toNat ≤ (y i).toNat then y i else x i) ∧
      un (.vabs d a k) (fun i => BitVec.ofNat 32 (x i).toInt.natAbs) ∧
      un (.vneg d a k) (fun i => BitVec.ofInt 32 (-(x i).toInt)) ∧
      bin (.vand d a b k) (fun i => x i &&& y i) ∧
      bin (.vor d a b k) (fun i => x i ||| y i) ∧
      bin (.vxor d a b k) (fun i => x i ^^^ y i) ∧
      bin (.vshl d a b k) (fun i => BitVec.ofNat 32 ((x i).toNat * 2 ^ n i)) ∧
      bin (.vshr d a b k) (fun i => BitVec.ofNat 32 ((x i).toNat / 2 ^ n i)) ∧
      bin (.vsha d a b k) (fun i => BitVec.ofInt 32 ((x i).toInt / 2 ^ n i)) ∧
      (∃ p : Nat → Nat, (∀ i j, j < 64 → (p i).testBit j =
          (((List.range 32).filter (fun m => m ≤ j && (y i).getLsbD m && (x i).toNat.testBit (j - m))).length % 2 == 1)) ∧
        bin (.vclmul d a b k) (fun i => BitVec.ofNat 32 (p i)) ∧
        bin (.vclmulh d a b k) (fun i => BitVec.ofNat 32 (p i / 2 ^ 32))) ∧
      un (.vpopc d a k) (fun i => BitVec.ofNat 32 ((List.range 32).filter (fun j => (x i).getLsbD j)).length)

/-- R370, R371: the floating-point lanes. Each result is the exact sum, product or fused sum of the operands' exact values,
FZI applied, rounded once in RNE with FZO applied; the minimum and maximum are those of R235; FABS, FNEG and FCLASS act
on the code. L is 4, 3 and 6.
R248, R370: the sum and the product of finite values are exact, and what infinities give.
R235: of two codes the minimum and the maximum, −0 below +0, the other operand where one is a NaN, the canonical NaN where both are.
R234, R240, R241, R243, R244: rounding into a binary format. Rounding the exact value of a code that is no NaN and no
infinity gives back that code in every mode, and positive finite codes are ordered as their values. A value between two adjacent codes
goes to the one that the mode names; one beyond the largest finite code goes there or overflows, as the mode names; FZO turns a
subnormal result into the zero of its sign. -/
def Obligations.VectorFloatWords : Prop :=
    (∀ (s : State) (d a b : BitVec 5) (k : BitVec 3) (t : BitVec 2) (fi fo : BitVec 1), t ≠ 3 →
      let F : FFmt := if t = 1 then fp16 else if t = 2 then bf16 else fp32
      let A := (List.range 32).filter (fun i => (s.k k.toNat).bits.getLsbD i)
      let code := fun (v : BitVec 5) (i : Nat) => (s.lane v.toNat i).lo32.toNat % 2 ^ F.width
      let flushed := fun (v : BitVec 5) (i : Nat) =>
        if fi = 1 ∧ F.isSub (code v i) = true then code v i / F.sign * F.sign else code v i
      let num := fun (v : BitVec 5) (i : Nat) => F.decode (flushed v i)
      let rounded := fun (n : Sys2Proof.Machine.Num) => BitVec.ofNat 32 (F.round .rne false (fo == 1#1) 0 n)
      let p := fun (i : Nat) => (s.lane a.toNat i).poison
      let q := fun (i : Nat) => p i || (s.lane b.toNat i).poison
      let gives := fun (w : Instr) (lat : Nat) (f : Nat → W32) (poison : Nat → Bool) =>
        Writes w s (A.map (fun i => (vKey d.toNat i, lval (f i) (poison i)))) lat
      (s.k k.toNat).poison = false → (∀ i ∈ A, s.quiet (vKey d.toNat i)) →
        gives (.fadd d a b k t fi fo) 4 (fun i => rounded ((num a i).add (num b i))) q ∧
        gives (.fsub d a b k t fi fo) 4 (fun i => rounded ((num a i).add (num b i).negate)) q ∧
        gives (.fmul d a b k t fi fo) 4 (fun i => rounded ((num a i).mul (num b i))) q ∧
        gives (.fmin d a b k t fi fo) 4 (fun i =>
          BitVec.ofNat 32 (F.minMax false (fo == 1#1) (flushed a i) (flushed b i))) q ∧
        gives (.fmax d a b k t fi fo) 4 (fun i =>
          BitVec.ofNat 32 (F.minMax true (fo == 1#1) (flushed a i) (flushed b i))) q ∧
        gives (.fabs d a k t) 3 (fun i => BitVec.ofNat 32 (code a i % F.sign)) p ∧
        gives (.fneg d a k t) 3 (fun i => BitVec.ofNat 32 ((code a i + F.sign) % 2 ^ F.width)) p ∧
        (∃ c : Nat → Nat, gives (.fclass d a k t) 3 (fun i => BitVec.ofNat 32 (2 ^ c i)) p ∧
          ∀ i, let m := code a i % F.sign
            let neg := F.sign ≤ code a i
            c i = if F.infCode < m then 8 else if m = F.infCode then (if neg then 0 else 7)
              else if m = 0 then (if neg then 3 else 4) else if m < 2 ^ F.fbits then (if neg then 2 else 5)
              else (if neg then 1 else 6)) ∧
        gives (.vfma d a b k t fi fo) 6 (fun i => rounded (((num a i).mul (num b i)).add (num d i)))
          (fun i => q i || (s.lane d.toNat i).poison) ∧
        gives (.vfms d a b k t fi fo) 6 (fun i => rounded (((num a i).mul (num b i)).add (num d i).negate))
          (fun i => q i || (s.lane d.toNat i).poison) ∧
        gives (.vfnma d a b k t fi fo) 6 (fun i => rounded (((num a i).mul (num b i)).negate.add (num d i)))
          (fun i => q i || (s.lane d.toNat i).poison)) ∧
    (∀ F ∈ [fp32, fp16, bf16, e4m3, e5m2], ∀ (c : Nat) (rm : Rm) (sat : Bool) (u : Nat),
      c < 2 ^ F.width → F.isNan c = false → (F.e4m3 = true ∨ c % F.sign ≠ F.infCode) →
        F.round rm sat false u (F.decode c) = c ∧
        (∀ c' < 2 ^ F.width, F.isNan c' = false → (F.e4m3 = true ∨ c' % F.sign ≠ F.infCode) → c < F.sign → c' < F.sign →
          ((F.decode c).lt (F.decode c') = true ↔ c < c'))) ∧
    (∀ F ∈ [fp32, fp16, bf16, e4m3, e5m2], ∀ (s : Bool) (m : Nat) (e : Int) (rm : Rm) (sat : Bool) (u : Nat),
      let x : Rat := (m : Rat) * (2 : Rat) ^ e
      let val := fun (c : Nat) => (F.decode c).val
      let hi := fun (c : Nat) => if c = F.maxCode then 2 * val c - val (c - 1) else val (c + 1)
      let sg := if s then F.sign else 0
      let up := fun (c : Nat) => if c = F.maxCode then F.overflowed rm sat s else sg + (c + 1)
      let r := F.round rm sat false u (.fin s m e)
      (m = 0 → r = sg) ∧
      (∀ c, c ≤ F.maxCode → val c = x → r = sg + c) ∧
      (∀ c, c ≤ F.maxCode → val c < x → x < hi c →
        (TakesUpper rm s (c % 2 == 1) (val c) x (hi c) u → r = up c) ∧
        (¬ TakesUpper rm s (c % 2 == 1) (val c) x (hi c) u → r = sg + c)) ∧
      (hi F.maxCode ≤ x → r = F.overflowed rm sat s) ∧
      F.round rm sat true u (.fin s m e) = (if F.isSub r then sg else r) ∧
      F.round rm sat false u .nan = F.nanCode ∧
      F.round rm sat false u (.inf s) =
        (if sat then sg + F.maxCode else if F.e4m3 then F.nanCode else sg + F.infCode)) ∧
    (∀ (s t : Bool) (m n : Nat) (e f : Int),
      let x : Sys2Proof.Machine.Num := .fin s m e
      let y : Sys2Proof.Machine.Num := .fin t n f
      (∃ z k q, x.add y = .fin z k q ∧ (x.add y).val = x.val + y.val ∧ (k = 0 → (z = true ↔ m = 0 ∧ n = 0 ∧ s = true ∧ t = true))) ∧
      (∃ k q, x.mul y = .fin (xor s t) k q ∧ (x.mul y).val = x.val * y.val) ∧
      (Sys2Proof.Machine.Num.inf s).add (.inf t) = (if s = t then .inf s else .nan) ∧
      (Sys2Proof.Machine.Num.inf s).add y = .inf s ∧ x.add (.inf t) = .inf t ∧
      (Sys2Proof.Machine.Num.inf s).mul (.inf t) = .inf (xor s t) ∧
      (Sys2Proof.Machine.Num.inf s).mul y = (if n = 0 then .nan else .inf (xor s t)) ∧
      x.mul (.inf t) = (if m = 0 then .nan else .inf (xor s t)) ∧
      ∀ z : Sys2Proof.Machine.Num, Sys2Proof.Machine.Num.nan.add z = .nan ∧ z.add .nan = .nan ∧ Sys2Proof.Machine.Num.nan.mul z = .nan ∧ z.mul .nan = .nan) ∧
    (∀ F ∈ [fp32, fp16, bf16], ∀ (x y : Nat) (mx : Bool), x < 2 ^ F.width → y < 2 ^ F.width →
      -- the place of a code that is no NaN in the order of values, −0 below +0
      let key := fun (c : Nat) => if F.sign ≤ c then -((c - F.sign : Nat) : Int) - 1 else (c : Int)
      let r := F.minMax mx false x y
      (F.isNan x = true → F.isNan y = true → r = F.nanCode) ∧
      (F.isNan x = true → F.isNan y = false → r = y) ∧
      (F.isNan x = false → F.isNan y = true → r = x) ∧
      (F.isNan x = false → F.isNan y = false → r = (if decide (key x ≤ key y) != mx then x else y)) ∧
      F.minMax mx true x y = (if F.isNan r = false ∧ F.isSub r = true then r / F.sign * F.sign else r))

/-- R372: VCMP writes the whole mask k[d], L = 3: the comparison in active lanes, 0 in the others. Integers compare as
signed or unsigned numbers; floats compare as their values, a NaN making EQ, LT and LE false and NE and UNORD true.
R373: the VMISC words, L = 3. -/
def Obligations.VectorCompareAndMaskWords : Prop :=
    (∀ (s : State) (d : BitVec 3) (a b : BitVec 5) (k t : BitVec 3), t.toNat ≤ 4 → (s.k k.toNat).poison = false →
      s.quiet (kKey d.toNat) →
      let A := (List.range 32).filter (fun i => (s.k k.toNat).bits.getLsbD i)
      let x := fun (i : Nat) => (s.lane a.toNat i).lo32
      let y := fun (i : Nat) => (s.lane b.toNat i).lo32
      let F := arithFmt (t.toNat - 2)
      let nx := fun (i : Nat) => F.decode ((x i).toNat % 2 ^ F.width)
      let ny := fun (i : Nat) => F.decode ((y i).toNat % 2 ^ F.width)
      let unord := fun (i : Nat) => decide (nx i = .nan ∨ ny i = .nan)
      let less := fun (i : Nat) => if t = 0 then decide ((x i).toInt < (y i).toInt) else
        if t = 1 then decide ((x i).toNat < (y i).toNat) else (nx i).lt (ny i)
      let same := fun (i : Nat) => if t.toNat ≤ 1 then x i == y i else !unord i && !(nx i).lt (ny i) && !(ny i).lt (nx i)
      let gives := fun (w : Instr) (f : Nat → Bool) => ∃ m : W32,
        Writes w s [(kKey d.toNat, RVal.mk (m.setWidth 128) false
          (A.any (fun i => (s.lane a.toNat i).poison || (s.lane b.toNat i).poison)))] 3 ∧
        ∀ i, i < 32 → m.getLsbD i = (A.contains i && f i)
      gives (.vcmpEq d a b k t) same ∧
      gives (.vcmpNe d a b k t) (fun i => !same i) ∧
      gives (.vcmpLt d a b k t) less ∧
      gives (.vcmpLe d a b k t) (fun i => less i || same i) ∧
      (2 ≤ t.toNat → gives (.vcmpUnord d a b k t) unord)) ∧
    (∀ (s : State) (d a b : BitVec 5) (k ka kb kd : BitVec 3),
      let A := (List.range 32).filter (fun i => (s.k k.toNat).bits.getLsbD i)
      let x := fun (i : Nat) => s.lane a.toNat i
      let y := fun (i : Nat) => s.lane b.toNat i
      let ga := s.g a.toNat
      let gb := s.g b.toNat
      let ma := s.k ka.toNat
      let mb := s.k kb.toNat
      let lane := fun (i : Nat) (v : W32) (poison : Bool) => (vKey d.toNat i, lval v poison)
      let quietV := ∀ i, i < 32 → s.quiet (vKey d.toNat i)
      let mask := fun (w : Instr) (m : W32) (poison : Bool) => Writes w s
        [(kKey kd.toNat, RVal.mk (m.setWidth 128) false poison)] 3
      ((s.k k.toNat).poison = false → quietV →
        Writes (.vsel d a b k) s ((List.range 32).map (fun i =>
          lane i (if A.contains i then (x i).lo32 else (y i).lo32) ((x i).poison || (y i).poison))) 3 ∧
        ((∀ i ∈ A, (y i).poison = false) → Writes (.vperm d a b k) s (A.map (fun i =>
          lane i (x ((y i).lo32.toNat % 32)).lo32 (x ((y i).lo32.toNat % 32)).poison)) 3) ∧
        Writes (.vbcast d a k) s (A.map (fun i => lane i (BitVec.ofNat 32 ga.w.toNat) ga.poison)) 3 ∧
        Writes (.viota d k) s (A.map (fun i => lane i (BitVec.ofNat 32 (A.filter (fun j => j < i)).length) false)) 3) ∧
      (gb.poison = false →
        let i := gb.w.toNat % 32
        (s.quiet (gKey d.toNat) →
          Writes (.vext d a b) s [(gKey d.toNat, gval (BitVec.ofNat 64 (x i).lo32.toNat) (x i).poison)] 3) ∧
        (s.quiet (vKey d.toNat i) →
          Writes (.vins d a b) s [lane i (BitVec.ofNat 32 ga.w.toNat) ga.poison] 3)) ∧
      (s.quiet (kKey kd.toNat) →
        mask (.kand kd ka kb) (ma.lo32 &&& mb.lo32) (ma.poison || mb.poison) ∧
        mask (.kor kd ka kb) (ma.lo32 ||| mb.lo32) (ma.poison || mb.poison) ∧
        mask (.kxor kd ka kb) (ma.lo32 ^^^ mb.lo32) (ma.poison || mb.poison) ∧
        mask (.knot kd ka) (~~~ma.lo32) ma.poison ∧
        mask (.kfromg kd a) (BitVec.ofNat 32 ga.w.toNat) ga.poison) ∧
      (s.quiet (gKey d.toNat) → Writes (.kpop d ka) s
        [(gKey d.toNat, gval (BitVec.ofNat 64 ((List.range 32).filter (fun i => ma.lo32.getLsbD i)).length) ma.poison)] 3))

/-- R249, R375: VRED combines the active lanes pairwise by the fixed tree and puts the result into g[d], sign-extended
for S32 and zero-extended otherwise, with L = 6, or 12 for F32. The sums and the bitwise results do not depend on the
tree and are stated as sums; for F32 the five levels of the tree stand here, each node rounded to nearest even or the minimum or maximum of
R235 (which `VectorFloatWords` states). With no active lane the result is the identity. -/
def Obligations.VectorReductionsCombineActiveLanes : Prop :=
  ∀ (s : State) (d a : BitVec 5) (t : BitVec 2) (k : BitVec 3), s.quiet (gKey d.toNat) →
    (s.k k.toNat).poison = false →
    let A := (List.range 32).filter (fun i => (s.k k.toNat).bits.getLsbD i)
    let x := fun (i : Nat) => (s.lane a.toNat i).lo32
    let poison := A.any (fun i => (s.lane a.toNat i).poison)
    let ext := fun (r : W32) => if t = 0 then r.signExtend 64 else r.setWidth 64
    let gives := fun (w : Instr) (lat : Nat) (r : W32) => Writes w s [(gKey d.toNat, gval (ext r) poison)] lat
    -- level l holds 2^(5−l) nodes; node i of level l + 1 joins nodes 2i and 2i + 1 of level l, the lower lane first
    let isTree := fun (op : W32 → W32 → W32) (X : Nat → Nat → Option W32) =>
      (∀ i, i < 32 → X 0 i = if i ∈ A then some (x i) else none) ∧
      ∀ l i, l < 5 → i < 2 ^ (4 - l) → X (l + 1) i = (match X l (2 * i), X l (2 * i + 1) with
        | none, b => b
        | a, none => a
        | some a, some b => some (op a b))
    let reduces := fun (w : Instr) (op : W32 → W32 → W32) (identity : W32) (canon : W32 → W32) =>
      ∃ X, isTree op X ∧ gives w 12 (canon ((X 5 0).getD identity))
    let canon := fun (r : W32) => if fp32.isNan r.toNat then 0x7FC00000#32 else r
    (t.toNat ≤ 1 →
      gives (.vredAdd d a t k) 6 (BitVec.ofNat 32 (A.map (fun i => (x i).toNat)).sum) ∧
      gives (.vredAnd d a t k) 6 (A.foldr (fun i r => x i &&& r) 0xFFFFFFFF#32) ∧
      gives (.vredOr d a t k) 6 (A.foldr (fun i r => x i ||| r) 0#32) ∧
      gives (.vredXor d a t k) 6 (A.foldr (fun i r => x i ^^^ r) 0#32)) ∧
    (t = 0 →
      gives (.vredMin d a t k) 6 (BitVec.ofInt 32 (A.foldr (fun i r => min (x i).toInt r) (2 ^ 31 - 1))) ∧
      gives (.vredMax d a t k) 6 (BitVec.ofInt 32 (A.foldr (fun i r => max (x i).toInt r) (-(2 ^ 31))))) ∧
    (t = 1 →
      gives (.vredMin d a t k) 6 (BitVec.ofNat 32 (A.foldr (fun i r => min (x i).toNat r) (2 ^ 32 - 1))) ∧
      gives (.vredMax d a t k) 6 (BitVec.ofNat 32 (A.foldr (fun i r => max (x i).toNat r) 0))) ∧
    (t = 2 →
      reduces (.vredAdd d a t k) (fun p q => BitVec.ofNat 32
        (fp32.round .rne false false 0 ((fp32.decode p.toNat).add (fp32.decode q.toNat)))) 0#32 canon ∧
      reduces (.vredMin d a t k) (fun p q => BitVec.ofNat 32 (fp32.minMax false false p.toNat q.toNat)) 0x7F800000#32 canon ∧
      reduces (.vredMax d a t k) (fun p q => BitVec.ofNat 32 (fp32.minMax true false p.toNat q.toNat)) 0xFF800000#32 canon)

/-- R376, R377, R246: VCVT converts every lane with L = 4, from format st to dt, reading no mask; with rm = SR it pops the
queue's head word, lane i rounding with lane i of it, and an empty queue makes it wait with reason 7. VCVT completes in every state
for every rounding but SR, and for SR whenever its group has a random word or the queue holds one; it changes no register but v[d].
R376, R242, R243, R244: what an element converts to: within one format itself, NaNs canonical and subnormals flushed; between integers exactly, else
the low bits or with saturate the nearer bound; into an integer the rounded value, bounded; into a float the exact value rounded once
(`VectorFloatWords` states how); into LT8 and LT6 the magnitude that the mode names, never above the largest and, without FZO, never 0
for a value that is not. -/
def Obligations.ConversionsConvertEveryLane : Prop :=
  (∀ (st : Nat) (rm : Rm) (sat fzi fzo : Bool) (u e : Nat),
    let into := fun (dt : Nat) => convert dt st rm sat fzi fzo u e
    let ints := [0, 1, 2, 3, 4]
    let bits := fun (dt : Nat) => if dt = 0 then 4 else if dt ≤ 2 then 8 else if dt = 3 then 16 else 32
    let lo : Nat → Int := fun dt => if dt = 2 then 0 else -(2 ^ (bits dt - 1))
    let hi : Nat → Int := fun dt => if dt = 2 then 255 else 2 ^ (bits dt - 1) - 1
    -- two's complement in the low bits of the lane
    let held := fun (dt : Nat) (v : Int) => (v % 2 ^ bits dt).toNat
    let value : Int := if st = 2 then (e % 256 : Nat) else
      if e % 2 ^ bits st < 2 ^ (bits st - 1) then (e % 2 ^ bits st : Nat) else ((e % 2 ^ bits st : Nat) : Int) - 2 ^ bits st
    let bounded := fun (dt : Nat) (v : Int) => if v < lo dt then lo dt else if hi dt < v then hi dt else v
    let floats : List (Nat × FFmt) := [(6, fp32), (7, fp16), (8, bf16), (9, e4m3), (10, e5m2)]
    -- the source's exact value
    let src : Sys2Proof.Machine.Num := decodeAs st fzi e
    (st ∈ ints → src = .fin (decide (value < 0)) value.natAbs 0) ∧
    (∀ p ∈ floats, st = p.1 → let c := e % 2 ^ p.2.width
      src = if fzi = true ∧ p.2.isSub c = true then .fin (decide (p.2.sign ≤ c)) 0 0 else p.2.decode c) ∧
    -- one format
    (st ∈ ints ++ [11] → into st = e % 2 ^ (if st = 11 then 8 else bits st)) ∧ (st = 12 → into st = e % 64) ∧
    (∀ p ∈ floats, st = p.1 → let c := e % 2 ^ p.2.width
      into st = if p.2.isNan c = true then p.2.nanCode else if (fzi = true ∨ fzo = true) ∧ p.2.isSub c = true then c / p.2.sign * p.2.sign else c) ∧
    -- into an integer
    (∀ dt ∈ ints, dt ≠ st →
      (st ∈ ints → into dt = held dt (if sat then bounded dt value else value)) ∧
      (6 ≤ st → st ≤ 12 →
        (src = .nan → into dt = 0) ∧ (∀ s, src = .inf s → into dt = held dt (if s then lo dt else hi dt)) ∧
        (∀ s m k, src = .fin s m k → ∀ n : Nat, (n : Rat) ≤ (m : Rat) * (2 : Rat) ^ k → (m : Rat) * (2 : Rat) ^ k < (n : Rat) + 1 →
          let x : Rat := (m : Rat) * (2 : Rat) ^ k
          let signed := fun (j : Nat) => if s then -(j : Int) else (j : Int)
          ((n : Rat) < x → TakesUpper rm s (n % 2 == 1) n x (n + 1) u → into dt = held dt (bounded dt (signed (n + 1)))) ∧
          (x = (n : Rat) ∨ ¬ TakesUpper rm s (n % 2 == 1) n x (n + 1) u → into dt = held dt (bounded dt (signed n)))))) ∧
    -- into a float
    (∀ p ∈ floats, st ≠ p.1 → into p.1 = p.2.round rm sat fzo u src) ∧
    -- into LT8 and LT6
    (∀ p ∈ [(11, 8), (12, 6)], st ≠ p.1 →
      let n := p.2
      let top := 2 ^ (n - 1) - 1
      let val := fun (c : Nat) => (ltDecode c n).val
      (src = .nan → into p.1 = 2 ^ (n - 1)) ∧ (∀ s, src = .inf s → into p.1 = 2 ^ (n - 1)) ∧
      (∀ s m k, src = .fin s m k →
        let x : Rat := (m : Rat) * (2 : Rat) ^ k
        let sg := if s then 2 ^ (n - 1) else 0
        (m = 0 → into p.1 = 0) ∧ (val top < x → into p.1 = sg + top) ∧
        (m ≠ 0 → fzo = true → x < val 1 → into p.1 = 0) ∧
        (∀ c, 1 ≤ c → c ≤ top → val c = x → into p.1 = sg + c) ∧
        (∀ c, c < top → val c < x → x < val (c + 1) → (c = 0 → fzo = false) →
          (c = 0 ∨ TakesUpper rm s (c % 2 == 1) (val c) x (val (c + 1)) u → into p.1 = sg + (c + 1)) ∧
          (c ≠ 0 → ¬ TakesUpper rm s (c % 2 == 1) (val c) x (val (c + 1)) u → into p.1 = sg + c))))) ∧
  ∀ (s : State) (d a : BitVec 5) (dt st : BitVec 4) (r : BitVec 3) (x i u : BitVec 1),
    ((r ≠ 4 ∨ s.cur.popped ≠ none ∨ s.here.rngq ≠ []) → ∃ t, exec (.vcvt d a dt st r x i u) s = .next t ∧
      t.cur.ended = s.cur.ended ∧ t.here.pad = s.here.pad ∧ t.me.pc = s.me.pc ∧
      ∀ key, (∀ j, j < 32 → key ≠ vKey d.toNat j) → ∀ n, t.later n key = s.later n key) ∧
    ((∀ j, j < 32 → s.quiet (vKey d.toNat j)) → s.cur.popped = none →
    let lanes := fun (w : BitVec 1024) => (List.range 32).map (fun j => (vKey d.toNat j,
      lval (BitVec.ofNat 32 (convert dt.toNat st.toNat (rmOf r.toNat) (x == 1#1) (i == 1#1) (u == 1#1)
        ((w.toNat / 2 ^ (32 * j)) % 2 ^ 32) (s.lane a.toNat j).lo32.toNat)) (s.lane a.toNat j).poison))
    (r.toNat < 4 → Writes (.vcvt d a dt st r x i u) s (lanes 0) 4) ∧
    (r = 4 → ∀ w l, s.here.rngq = w :: l → ∃ t, exec (.vcvt d a dt st r x i u) s = .next t ∧ t.here.rngq = l ∧
      t.cur.popped = some w ∧ t.here.pad = s.here.pad ∧
      ∀ e ∈ lanes w, ∀ n, 4 ≤ n → t.later n e.1 = e.2) ∧
    (r = 4 → s.here.rngq = [] → Waits (.vcvt d a dt st r x i u) s 7))

/-- R378: the six functions put one FP32 result, the same for the same x whatever the state, into every active lane with
L = 14; a NaN gives the canonical NaN, the special inputs and the exact cases give what the table states, and the sign is that of y. The
results of VRCP and VRSQ lie within one unit in the last place of the exact y. Those of VEXP2, VLOG2, VTANH and VSIG lie within
their bound of the interval in which the model encloses y (`vxfExact`); how narrow that interval is the statement leaves out. -/
def Obligations.TranscendentalWords : Prop :=
  ∃ f : Nat → W32 → W32,
    (∀ (s : State) (d a : BitVec 5) (k : BitVec 3),
      let A := (List.range 32).filter (fun i => (s.k k.toNat).bits.getLsbD i)
      let gives := fun (w : Instr) (fn : Nat) => Writes w s
        (A.map (fun i => (vKey d.toNat i, lval (f fn (s.lane a.toNat i).lo32) (s.lane a.toNat i).poison))) 14
      (s.k k.toNat).poison = false → (∀ i ∈ A, s.quiet (vKey d.toNat i)) →
        gives (.vexp2 d a k) 0 ∧ gives (.vlog2 d a k) 1 ∧ gives (.vrcp d a k) 2 ∧ gives (.vrsq d a k) 3 ∧
        gives (.vtanh d a k) 4 ∧ gives (.vsig d a k) 5) ∧
    (∀ fn x, fp32.isNan x.toNat = true → f fn x = 0x7FC00000#32) ∧
    (let inf := 0x7F800000#32
     let ninf := 0xFF800000#32
     let one := 0x3F800000#32
     f 0 inf = inf ∧ f 0 ninf = 0 ∧ f 0 0 = one ∧ f 0 0x43000000#32 = inf ∧ f 0 0xC3170000#32 = 0 ∧
     f 1 inf = inf ∧ f 1 ninf = 0x7FC00000#32 ∧ f 1 0 = ninf ∧ f 1 0x80000000#32 = ninf ∧
     f 2 inf = 0 ∧ f 2 ninf = 0x80000000#32 ∧ f 2 0 = inf ∧ f 2 0x80000000#32 = ninf ∧
     f 3 inf = 0 ∧ f 3 ninf = 0x7FC00000#32 ∧ f 3 0 = inf ∧ f 3 0x80000000#32 = ninf ∧
     f 4 inf = one ∧ f 4 ninf = 0xBF800000#32 ∧ f 4 0x39800000#32 = 0x39800000#32 ∧ f 4 0x41100000#32 = one ∧
     f 5 inf = one ∧ f 5 ninf = 0 ∧ f 5 0 = 0x3F000000#32 ∧ f 5 0x41880000#32 = one) ∧
    (∀ (x : W32) (s : Bool) (m : Nat) (e : Int), fp32.decode x.toNat = .fin s m e → m ≠ 0 →
      let X : Rat := (m : Rat) * (2 : Rat) ^ e
      let mag := fun (fn : Nat) => (f fn x).toNat % 2 ^ 31
      let neg := fun (fn : Nat) => (f fn x).getLsbD 31
      let r := fun (fn : Nat) => (fp32.decode (mag fn)).val
      let finite := fun (fn : Nat) => mag fn ≤ fp32.maxCode
      let pow := fun (n : Int) => (2 : Rat) ^ n
      -- the exact cases and the ranges of the table
      (∀ n : Int, 0 ≤ n → X = (n : Rat) → ((s = false ∧ n ≤ 127) ∨ (s = true ∧ n ≤ 149)) →
        finite 0 ∧ r 0 = pow (if s then -n else n)) ∧
      (s = false → 128 ≤ X → f 0 x = 0x7F800000#32) ∧ (s = true → 151 ≤ X → f 0 x = 0) ∧
      (s = true → f 1 x = 0x7FC00000#32 ∧ f 3 x = 0x7FC00000#32) ∧
      (∀ n : Int, X = pow n →
        (s = false → finite 1 ∧ r 1 = (n.natAbs : Rat)) ∧
        (-127 ≤ n → n ≤ 126 → finite 2 ∧ r 2 = pow (-n)) ∧
        (s = false → ∀ j : Int, n = 2 * j → finite 3 ∧ r 3 = pow (-j))) ∧
      (X ≤ pow (-12) → f 4 x = x) ∧ (9 ≤ X → mag 4 = 0x3F800000) ∧ (s = false → 17 ≤ X → f 5 x = 0x3F800000#32) ∧
      -- signs
      neg 0 = false ∧ neg 2 = s ∧ neg 4 = s ∧ neg 5 = false ∧
      (s = false → neg 3 = false ∧ (X < 1 → neg 1 = true) ∧ (1 ≤ X → neg 1 = false)) ∧
      -- 1/x, while it is at most 2^128, and 1/√x, to one unit in the last place
      (pow (-128) ≤ X → ∀ k : Int, pow k ≤ 1 / X → 1 / X < pow (k + 1) →
        let ulp := pow (max k (-126) - 23)
        finite 2 ∧ r 2 - ulp ≤ 1 / X ∧ 1 / X ≤ r 2 + ulp) ∧
      (s = false → ∀ k : Int, pow (2 * k) * X ≤ 1 → 1 < pow (2 * k + 2) * X →
        let ulp := pow (k - 23)
        finite 3 ∧ 0 < r 3 - ulp ∧ (r 3 - ulp) * (r 3 - ulp) * X ≤ 1 ∧ 1 ≤ (r 3 + ulp) * (r 3 + ulp) * X) ∧
      -- the others, where no case above fixes them
      (∀ p ∈ [(0, 1), (1, 1), (4, 2), (5, 2)],
        let fn := p.1
        let E := (vxfExact fn s m e).2
        let at' := fun (v : Nat) => (v : Rat) * pow E.e
        let open' := (fn = 0 → (s = false → X < 128) ∧ (s = true → X < 151) ∧ ∀ n : Int, X ≠ (n : Rat)) ∧
          (fn = 1 → s = false ∧ ∀ n : Int, X ≠ pow n) ∧ (fn = 4 → pow (-12) < X ∧ X < 9) ∧ (fn = 5 → s = false → X < 17)
        open' → ∀ k : Int, pow k ≤ at' E.lo → at' E.lo < pow (k + 1) →
          let bound : Rat := if fn = 1 ∧ k < 0 then pow (-24) else (p.2 : Rat) * pow (max k (-126) - 23)
          finite fn ∧ at' E.lo - bound ≤ r fn ∧ r fn ≤ at' E.hi + bound))

/-- R367, R342: a word whose mask, selector, active index lane or lane index is poisoned, and a capability word with a
poisoned source, raises POISON at issue with pad address 0, and writes nothing. -/
def Obligations.PoisonIsConsumedAtIssue : Prop :=
  ∀ (s : State) (d a b : BitVec 5) (k kd : BitVec 3) (z fi fo : BitVec 1) (t : BitVec 2) (t3 : BitVec 3) (cd ca cb : BitVec 4)
    (gd g : BitVec 6) (imm : BitVec 13),
    let p := fun (i : Instr) => Traps i s 0x0B (BitVec.ofNat 64 s.cur.word)
    ((s.k k.toNat).poison = true → ∀ i ∈ ([.vadd d a b k, .vsub d a b k, .vmul d a b k, .vmulh d a b k z,
        .vmin d a b k z, .vmax d a b k z, .vabs d a k, .vneg d a k, .vand d a b k, .vor d a b k, .vxor d a b k,
        .vshl d a b k, .vshr d a b k, .vsha d a b k, .vclmul d a b k, .vclmulh d a b k, .vpopc d a k,
        .fadd d a b k t fi fo, .fsub d a b k t fi fo, .fmul d a b k t fi fo, .fmin d a b k t fi fo,
        .fmax d a b k t fi fo, .fabs d a k t, .fneg d a k t, .fclass d a k t, .vfma d a b k t fi fo,
        .vfms d a b k t fi fo, .vfnma d a b k t fi fo, .vcmpEq kd a b k t3, .vcmpNe kd a b k t3, .vcmpLt kd a b k t3,
        .vcmpLe kd a b k t3, .vcmpUnord kd a b k t3, .vsel d a b k, .vperm d a b k, .vbcast d a k, .viota d k,
        .vredAdd d a t k, .vredMin d a t k, .vredMax d a t k, .vredAnd d a t k, .vredOr d a t k, .vredXor d a t k,
        .vexp2 d a k, .vlog2 d a k, .vrcp d a k, .vrsq d a k, .vtanh d a k, .vsig d a k] : List Instr), p i) ∧
    ((∃ i, i < 32 ∧ (s.k k.toNat).bits.getLsbD i = true ∧ (s.lane b.toNat i).poison = true) → p (.vperm d a b k)) ∧
    (s.gp b.toNat = true → p (.vext d a b) ∧ p (.vins d a b)) ∧
    ((s.c ca.toNat).poison = true → ∀ i ∈ ([.cadvi cd ca imm, .cvoid cd ca, .ccopy cd ca, .crdlo gd ca, .crdsz gd ca,
      .crdcu gd ca, .crdpm gd ca, .crdsp gd ca, .crdvt gd ca] : List Instr), p i) ∧
    ((s.c ca.toNat).poison = true ∨ (s.c cb.toNat).poison = true → p (.cdist gd ca cb)) ∧
    ((s.c ca.toNat).poison = true ∨ s.gp g.toNat = true →
      ∀ i ∈ ([.cnarw cd ca g, .cadv cd ca g, .cseek cd ca g, .cdrop cd ca g] : List Instr), p i)

/-! ### Traps and the MISC words -/

/-- R228, R205, R289, R305: trap entry saves the packet, the resume word, the cause and its information, moves to S mode,
lands every result in flight but the status of a CTXGO that has not committed (R325), and goes to the CTX_EVEC.pc that is in effect for
the context (R206); the other contexts and memory stay as they are; RAS_CHECK and RAS_POISON count.
R228, R322: the return from a trap. It takes the mode back from ps and leaves ps, ntrap and the pending causes, the
state is READY, and the next packet is CTX_EPC.pc at word CTX_EPC.resume; nothing else of the context changes. -/
def Obligations.TrapsEnterAndReturn : Prop :=
    (∀ (s : State) (t x pc resume cause : Nat) (info : W64),
      let s' := s.trapAt t x pc resume cause info
      TrapEntered (s.ctx t x) (s'.ctx t x) (fld ((s.tile t).inEffect x 0x014) 0 14) pc resume cause info ∧
      (∀ y, y ≠ x → s'.ctx t y = s.ctx t y) ∧ (∀ u, u ≠ t → s'.tile u = s.tile u) ∧
      (s'.tile t).pad = (s.tile t).pad ∧ (s'.tile t).imem = (s.tile t).imem ∧
      (cause = 0x08 → fld info 2 2 ≠ 3 → fld ((s'.tile t).cr 0x781) (16 * fld info 2 2) 16 =
        min (fld ((s.tile t).cr 0x781) (16 * fld info 2 2) 16 + 1) 0xFFFF) ∧
      (cause = 0x08 → fld info 2 2 = 3 → (s'.tile t).cr 0x781 = (s.tile t).cr 0x781) ∧
      (cause = 0x0B → fld ((s'.tile t).cr 0x782) 16 16 = min (fld ((s.tile t).cr 0x782) 16 16 + 1) 0xFFFF) ∧
      (cause ≠ 0x08 → cause ≠ 0x09 → cause ≠ 0x0B → ∀ i, i ≠ 0x004 → (s'.tile t).cr i = (s.tile t).cr i)) ∧
    (∀ (c : Ctx),
      c.eret.sMode = (c.cr 0x015).getLsbD 1 ∧ (∀ b, 1 ≤ b → b < 64 → (c.eret.cr 0x015).getLsbD b = (c.cr 0x015).getLsbD b) ∧
      c.eret.st = ready ∧ c.eret.pc = fld (c.cr 0x011) 0 14 ∧ c.eret.first = fld (c.cr 0x011) 14 2 ∧
      c.eret.regs = c.regs ∧ c.eret.flights = c.flights ∧
      (∀ i, i ≠ 0x010 → i ≠ 0x015 → c.eret.cr i = c.cr i) ∧
      (∀ c' vec pc resume cause info, pc < 2 ^ 14 → resume ≤ 2 → TrapEntered c c' vec pc resume cause info →
        c'.eret.pc = pc ∧ c'.eret.first = resume ∧ c'.eret.sMode = c.sMode))

/-- R320 to R326: NOP and a passing CKEQ have no effect; ERET in S mode, SLEEP outside context 0, HALT and YIELD change
only what follows the packet: the return of R228, DORMANT, HALTED, the next packet with the yield noted. SYSCALL and
BRKPT trap after their group with causes 0x14 and 0x13, the resume word being the one after the group, or 0 of the next
packet. CKEQ on unequal words raises CHECK and counts, ERET in U mode PRIV, SLEEP in context 0 ILLEGAL.
R325, R281: CTXGO is a release at scope TILE, waiting with reason 6 until what the tile issued earlier has reached the point of R276; RC
advances and the context issues nothing for two cycles (R312). A context number outside 1 to 3 or an entry above 10,921 puts 2 into
g[d]. Otherwise the start commits two cycles later (R180), and g[d] is on its way until then: the status is 1 where the context is not DORMANT then, and with status 0
the context is READY at the entry packet, in U mode, its loop buffer off, having acquired (R324). (The model's choices, no rules of the
spec: what a scope orders, log 17; SYSCALL or BRKPT in a packet with HALT or SLEEP, log 57.) -/
def Obligations.MiscAndStartWords : Prop :=
    (∀ (s : State) (a b : BitVec 6) (code : BitVec 18),
      let word := BitVec.ofNat 64 s.cur.word
      let illegal := BitVec.ofNat 64 (s.cur.word + s.cur.raw.toNat * 4)
      let eq := s.gv a.toNat = s.gv b.toNat
      let clean := s.gp a.toNat = false ∧ s.gp b.toNat = false
      let ends := fun (i : Instr) (e : EndAct) (after : Ctx → Prop) => ∃ t, exec i s = .next t ∧
        t = s.modMe (fun c => { c with atEnd := e }) ∧ after ((t.endPacket t.cur.tile t.cur.ctx).ctx t.cur.tile t.cur.ctx)
      let calls := fun (i : Instr) (cause : Nat) =>
        let info := BitVec.ofNat 64 (s.cur.word + s.cur.raw.toNat % 2 ^ 25 * 4)
        let vec := fld (s.here.inEffect s.cur.ctx 0x014) 0 14
        (s.cur.last < 2 → ∃ t, exec i s = .next t ∧ TrapEntered s.me t.me vec s.me.pc (s.cur.last + 1) cause info ∧
          t.here.pad = s.here.pad) ∧
        (s.cur.last = 2 → s.me.atEnd = .next → s.me.st = running → ∃ t, exec i s = .next t ∧ t.here.pad = s.here.pad ∧
          TrapEntered (s.me.advance.setSt ready 0) t.me vec s.me.advance.pc 0 cause info)
      exec .nop s = .next s ∧
      (eq → clean → exec (.ckeq a b) s = .next s) ∧
      (s.cur.word ≤ 2 → s.cur.trial = false → ¬ eq → ∃ t, exec (.ckeq a b) s = .next t ∧ t.cur.ended = .trapped ∧ t.me.cr 0x012 = 8#64 ∧ t.me.cr 0x013 = word ∧
        fld (t.here.cr 0x781) 0 16 = min (fld (s.here.cr 0x781) 0 16 + 1) 0xFFFF) ∧
      (eq → ¬ clean → Traps (.ckeq a b) s 0x0B word) ∧
      (s.me.sMode = true → let now := s.here.inEffect s.cur.ctx
        ends .eret .eret (fun c => c.pc = fld (now 0x011) 0 14 ∧ c.first = fld (now 0x011) 14 2 ∧
          c.sMode = (now 0x015).getLsbD 1 ∧ c.st = ready)) ∧
      (s.me.sMode = false → Traps .eret s 0x02 word) ∧
      (s.cur.ctx ≠ 0 → s.me.arrivals = [] → s.me.start = .none → ends .sleep .sleep (fun c => c.st = dormant)) ∧
      (s.cur.ctx = 0 → Traps .sleep s 0x01 illegal) ∧
      ends .halt .halt (fun c => c.st = halted) ∧
      (s.me.st = running → ends .yield .yield (fun c => c.st = ready ∧ c.yielded = true ∧ c.pc = s.me.advance.pc)) ∧
      calls (.syscall code) 0x14 ∧ calls (.brkpt code) 0x13) ∧
    (∀ (s : State) (d a b : BitVec 6), s.gp a.toNat = false → s.gp b.toNat = false →
      let e := (s.gv a.toNat).toNat
      let k := (s.gv b.toNat).toNat
      let free := s.released s.cur.tile s.cur.ctx 1 s.myPlace
      let bad := k = 0 ∨ 3 < k ∨ 10921 < e
      let held := fun (t : State) => t.me.hold = s.here.cycle + 2 ∧ t.here.rc = s.here.rc + 1 ∧ t.here.pad = s.here.pad ∧
        ∀ y, y ≠ s.cur.ctx → t.here.ctx y = s.here.ctx y
      (free = false → Waits (.ctxgo d a b) s 6) ∧
      (free = true → bad → s.quiet (gKey d.toNat) → ∃ t, exec (.ctxgo d a b) s = .next t ∧ held t ∧
        (∀ n, 2 ≤ n → t.later n (gKey d.toNat) = heldBy (gKey d.toNat) (gval 2#64 false)) ∧
        (∀ j, j ≠ gKey d.toNat → ∀ n, t.later n j = s.later n j)) ∧
      (free = true → ¬ bad → ∃ t, exec (.ctxgo d a b) s = .next t ∧ held t ∧
        t.here.goes = s.here.goes ++ [{ ctx := s.cur.ctx, reg := d.toNat, k := k, pc := e, due := s.here.cycle + 2, seed := s.seed }] ∧
        (d ≠ 0 → ∃ f ∈ t.me.flights, f.reg = gKey d.toNat ∧ f.go = true ∧ f.issued = s.here.cycle ∧ f.due = s.here.cycle + 2) ∧
        (∀ j, j ≠ gKey d.toNat → ∀ n, t.later n j = s.later n j))) ∧
    (∀ (T : Tile) (g : CtxGo), g.k ≠ g.ctx → 2 ≤ g.due →
      let free := (T.ctx g.k).st = dormant
      let U := T.commitGo g
      (¬ free → U.ctx g.k = T.ctx g.k) ∧
      (free → let c := U.ctx g.k
        c.st = ready ∧ c.pc = g.pc ∧ c.first = 0 ∧ c.sMode = false ∧ (c.cr 0x102).getLsbD 20 = false ∧ c.obs = T.rc) ∧
      (∀ y, y ≠ g.ctx → y ≠ g.k → U.ctx y = T.ctx y) ∧
      (∀ f ∈ (T.ctx g.ctx).flights, f.reg = gKey g.reg → f.go = true → f.issued = g.due - 2 → f.due = g.due →
        (∀ e ∈ (T.ctx g.ctx).flights, e.reg = gKey g.reg → e = f) → ∀ n, g.due ≤ n → ∀ seed,
        ((U.ctx g.ctx).settleUpTo n).read n seed (gKey g.reg) =
          heldBy (gKey g.reg) (gval (if free then 0#64 else 1#64) false)))

/-! ### Tile registers and the matrix unit -/

/-- R211, R212, R381, R382, R385: the synchronous tile words on a register that the context owns or that is free, with
nothing in flight on it: TZERO, TZERO.INV, TMOV and TLDV write it, TSTV puts 32 elements into a vector register, and a
free register reads as zeros. A poisoned lane of TLDV leaves the register with valid = 0, and POISON with the row waits for the packet
boundary. TSTAT puts the status bits into g with L = 2. Another context's register, the source of TMOV too, raises TILEOWN, and
one in flight makes the word wait with reason 2. (The model's choice, no rule of the spec: the status and the retirement of tile transfers,
log 14.) -/
def Obligations.TileRegisterWords : Prop :=
  ∀ (s : State) (t u : BitVec 3) (v r : BitVec 5) (b : BitVec 3) (g : BitVec 6),
    let x := s.cur.ctx
    let T := s.here
    let i := t.toNat
    let j := u.toNat
    let elem := fun (i r n : Nat) => if T.tfree i then 0#32 else mget 0#32 (T.treg i).data (256 * r + n)
    let becomes := fun (w : Instr) (q : TReg) => exec w s = .next (s.modHere (·.setTreg i q))
    let lane := fun (n : Nat) => s.lane v.toNat n
    (s.mayUse i → T.tready i = true →
      becomes (.tzero t) (TReg.mk [] true true (some x)) ∧
      (T.tfree i = true → exec (.tzeroInv t) s = .next (s.modHere id)) ∧
      (T.tfree i = false → becomes (.tzeroInv t) (TReg.mk [] false false none)) ∧
      (s.mayUse j → T.tready j = true → ∃ q : TReg, becomes (.tmov t u) q ∧ q.valid = true ∧ q.dirty = true ∧ q.owner = some x ∧
        ∀ r n, mget 0#32 q.data (256 * r + n) = elem j r n) ∧
      ((∀ n, n < 32 → (lane n).poison = false) → ∃ q : TReg, becomes (.tldv t v r b) q ∧ q.valid = true ∧ q.dirty = true ∧
        q.owner = some x ∧ ∀ r' n, n < 256 → mget 0#32 q.data (256 * r' + n) =
          if r' = r.toNat ∧ n / 32 = b.toNat then (lane (n % 32)).lo32 else elem i r' n) ∧
      ((∀ n, n < 32 → s.quiet (vKey v.toNat n)) → ∃ t', exec (.tstv t v r b) s = .next t' ∧ t'.me.hold = s.here.cycle + 2 ∧
        t'.here.pad = T.pad ∧ t'.here.tregs = T.tregs ∧
        ∀ n, n < 32 → ∀ k, 2 ≤ k → t'.later k (vKey v.toNat n) = lval (elem i r.toNat (32 * b.toNat + n)) false)) ∧
    (s.quiet (gKey g.toNat) →
      let q := T.treg i
      ∃ t', exec (.tstat t g) s = .next t' ∧ t'.here.tregs = T.tregs ∧ t'.here.pad = T.pad ∧
        (∀ k, 2 ≤ k → t'.later k (gKey g.toNat) = heldBy (gKey g.toNat) (gval (BitVec.ofNat 64
          ((if q.valid then 1 else 0) + (if q.dirty then 2 else 0) + (if T.inflight i then 4 else 0) + 8 * q.owner.getD 0)) false)) ∧
        t'.here.trk = if T.inflight i then T.trk else
          T.trk.filter (fun e => match e.kind with | .tile _ k _ => k != i | _ => true)) ∧
    (∀ y, T.tfree i = false → (T.treg i).owner = some y → y ≠ x →
      ∀ w ∈ ([.tzero t, .tzeroInv t, .tldv t v r b, .tstv t v r b, .tmov t u] : List Instr),
        Traps w s 0x0F (BitVec.ofNat 64 (i + y * 8))) ∧
    (∀ y, s.mayUse i → T.tfree j = false → (T.treg j).owner = some y → y ≠ x →
      Traps (.tmov t u) s 0x0F (BitVec.ofNat 64 (j + y * 8))) ∧
    (s.mayUse i → T.tready i = false →
      ∀ w ∈ ([.tzero t, .tzeroInv t, .tldv t v r b, .tstv t v r b] : List Instr), Waits w s 2) ∧
    (s.mayUse i → s.mayUse j → T.tready i = false ∨ T.tready j = false → Waits (.tmov t u) s 2) ∧
    (s.mayUse i → T.tready i = true → (∃ n, n < 32 ∧ (lane n).poison = true) → ∃ t', exec (.tldv t v r b) s = .next t' ∧
      (t'.here.treg i).valid = false ∧ (t'.here.treg i).dirty = true ∧ (∀ k, k ≠ i → t'.here.treg k = T.treg k) ∧ t'.here.pad = T.pad ∧
      t'.me = { s.me with boundPend := s.me.boundPend ++
        [{ cause := 0x0B#8, info := BitVec.ofNat 64 (8 + r.toNat * 16 + 2 ^ 44), seq := T.opSeq }] })

/-- R380, R384, R222, R276: TLD and TST, once their pad access is allowed, the register is the context's, the transfer
queue and the tracker have room and the scope waits are over, enter the transfer queue in issue order with a tracker
entry; a free register becomes the context's, and REL at TILE or wider advances RC. At SYS the flushing reads that are due go out
(`flushFor`); nothing else of the tile changes. A
full queue or tracker makes them wait with reason 7, the scope with reason 6. (A release at GRP or wider in an open pass:
`PassesLoseProtection`.) (The model's choices, no rules of the spec: retirement in the queue, log 14; what a scope orders, log 17.) -/
def Obligations.TileTransfersEnterTheirQueue : Prop :=
  ∀ (s : State) (t : BitVec 3) (c : BitVec 4) (r : BitVec 5) (a l : BitVec 1) (sc : BitVec 3),
    let x := s.cur.ctx
    let T := s.here
    let rows := r.toNat + 1
    let addr := (capAddr (s.c c.toNat) + s.cur.addrOff : Nat)
    let free := (a = 1 → s.acquirable s.cur.tile x sc.toNat s.myPlace = true) ∧
      (l = 1 → s.released s.cur.tile x sc.toNat s.myPlace = true)
    let sent := s.flushFor (a == 1) (l == 1) s.cur.tile x sc.toNat s.myPlace
    ∀ e ∈ ([(.tld t c r a l sc, false), (.tst t c r a l sc, true)] : List (Instr × Bool)),
      PadAllows s c.toNat s.cur.addrOff (1024 * rows) (8 + if e.2 then 2 else 1) 64 e.2 false → s.mayUse t.toNat →
        (T.tq.length < 4 → T.trkFull = false → free → (l = 1 → sc.toNat ≤ 1 ∨ x ≠ 0 ∨ T.passOpen = false) →
          ∃ T' : Tile, exec e.1 s = .next (sent.setTile s.cur.tile T') ∧
            T'.tq = T.tq ++ [{ ctx := x, store := e.2, t := t.toNat, addr := addr, rows := rows, seq := T.opSeq }] ∧
            T'.opSeq = T.opSeq + 1 ∧ EntersTracker T T' (.tile x t.toNat (a == 1 && decide (1 ≤ sc.toNat))) e.2 addr (addr + 1024 * rows) ∧
            Claimed T T' x [t.toNat] ∧ T'.rc = (if l = 1 ∧ 1 ≤ sc.toNat then T.rc + 1 else T.rc) ∧
            { T' with tq := T.tq, opSeq := T.opSeq, trk := T.trk, creg := T.creg, tregs := T.tregs, rc := T.rc } = sent.here) ∧
        (4 ≤ T.tq.length ∨ T.trkFull = true → Waits e.1 s 7) ∧
        (T.tq.length < 4 → T.trkFull = false → ¬ free → (l = 1 → sc.toNat ≤ 1 ∨ x ≠ 0 ∨ T.passOpen = false) → Waits e.1 s 6)

/-- R380, R387, R389, R390, R222: the direct words of the array and MLDB, once their pad access is allowed, no other context's
nest runs, the target registers are the context's and the formats agree, enter their queue in issue order with a tracker
entry; named bands that are gated start to wake. With no band taking part MMA, MMAS and SCACC do nothing (R259). (The model's choices, no
rules of the spec: an operation with no band, log 13; tile status, log 14.) -/
def Obligations.DirectMatrixWordsEnterTheirQueues : Prop :=
  ∀ (s : State) (t p : BitVec 3) (c : BitVec 4) (f : BitVec 3) (r : BitVec 5) (sg : BitVec 3) (b z l : BitVec 1),
    let x := s.cur.ctx
    let T := s.here
    let rows := r.toNat + 1
    let segs := sg.toNat + 1
    let row := (if f = 0 then 16 else if f = 7 then 64 else 32) * segs
    let off := s.cur.addrOff
    let at' := fun (k : Nat) => (capAddr (s.c c.toNat) + k : Nat)
    let bands := s.me.matShape
    let same := (3 ≤ f.toNat ↔ 3 ≤ T.setFmt b.toNat)
    let mmas := (List.range segs).map (t.toNat + ·)
    let enters := fun (w : Instr) (o : MatOp) (n : Nat) =>
      (bands = 0 → exec w s = .next s) ∧
      (bands ≠ 0 → T.aq.length < 8 → T.trkFull = false → ∃ T' : Tile,
        exec w s = .next ((s.setTile s.cur.tile T').wakeBands s.cur.tile bands) ∧ T'.aq = T.aq ++ [o] ∧
        T'.opSeq = T.opSeq + 1 ∧ EntersTracker T T' (.direct x) false (at' off) (at' off + n) ∧ Claimed T T' x o.tds ∧
        { T' with aq := T.aq, opSeq := T.opSeq, trk := T.trk, creg := T.creg, tregs := T.tregs } = T) ∧
      (bands ≠ 0 → 8 ≤ T.aq.length ∨ T.trkFull = true → Waits w s 7)
    let o : MatOp := { kind := 0, ctx := x, td := t.toNat, addr := at' off, rows := rows, bands := bands, seq := T.opSeq, gen := s.me.runNo }
    let op := fun (kind : Nat) (tds : List Nat) => ({ o with
      kind := kind, tds := tds, fmt := f.toNat, segs := segs, set := b.toNat, z := z == 1#1, fl := l == 1#1,
      level := s.me.matFid.toNat % 4 } : MatOp)
    s.unitFree →
      (PadAllows s c.toNat off (rows * row) 9 16 false false → same →
        (s.mayUse t.toNat → enters (.mma t c f r sg b z l) (op 0 [t.toNat]) (rows * row)) ∧
        (3 ≤ f.toNat → t.toNat + segs ≤ 8 → (∀ i ∈ mmas, s.mayUse i) →
          enters (.mmas t c f r sg b z l) (op 1 mmas) (rows * row))) ∧
      (PadAllows s c.toNat off 1152 9 64 false false → s.mayUse t.toNat → s.mayUse p.toNat →
        enters (.scacc t c p r b z) { o with kind := 2, tp := p.toNat, fzi := b == 1#1, fl := z == 1#1, tds := [t.toNat] } 1152) ∧
      (let n := if f = 0 then 32768 else if f = 7 then 131072 else 65536
       PadAllows s c.toNat 0 n 9 64 false false → (∀ o ∈ T.aq, o.kind ≠ 2 → o.set = b.toNat → o.ctx = x) →
        (T.lq.length < 2 → T.trkFull = false → ∃ T' : Tile, exec (.mldb c f b z) s = .next (s.setTile s.cur.tile T') ∧
          T'.lq = T.lq ++ [{ ctx := x, addr := at' 0, fmt := f.toNat, set := b.toNat, fzi := z == 1#1, seq := T.opSeq }] ∧
          T'.opSeq = T.opSeq + 1 ∧ EntersTracker T T' (.direct x) false (at' 0) (at' 0 + n) ∧
          { T' with lq := T.lq, opSeq := T.opSeq, trk := T.trk, creg := T.creg } = T) ∧
        (2 ≤ T.lq.length ∨ T.trkFull = true → Waits (.mldb c f b z) s 7))

/-- R391 to R393, R267: MGO and MGO.CO on a slot that passes the checks copy the capability, make the slot QUEUED with this
context as its owner, and put the nest into the array queue; its target registers become the context's; a cooperative nest that sends
takes its place in the order of emission first (R274). With no band taking part the nest is DONE at once (R259). A running nest of
another context makes every matrix word but MPAUSE raise MATBUSY where no lower code arises, and so does for MLDB an operation of another
context that reads its set.
R395 to R398: MWAIT and MWAIT.NEST wait with reason 2 (once they wait, MATBUSY is not tested again: log 14) and, with no
status pending, retire what they waited for; MPAUSE
asks for the pause and waits; MRESUME clears it; MWAKE starts the wake of each gated band; MSHAPE and MFID act at once for
matrix words, over any earlier write of their register that is still on its way, and MFID starts a new run; MREP arms the repeat
state. -/
def Obligations.NestAndMatrixControlWords : Prop :=
    (∀ (s : State) (sl : BitVec 2) (e b : BitVec 4) (l r : BitVec 2) (n : BitVec 10) (st0 st1 st2 : BitVec 5),
      let x := s.cur.ctx
      let T := s.here
      let slot := sl.toNat
      let w1 := T.nw slot 1
      let cr := fld w1 29 4
      let lo := (T.nestRange slot).1
      let len := ((T.nestRange slot).2 - lo).toNat
      let addr := (capAddr (s.c cr) + lo).toNat
      let tds := T.nestTargets slot
      let bands : BitVec 4 := BitVec.ofNat 4 (fld w1 22 4)
      let goes := fun (w : Instr) (co : Bool) => T.nestBad slot co = false → bands ≠ 0 → T.aq.length < 8 → T.trkFull = false →
        let sends := co && ((T.coop slot).east || (T.coop slot).south)
        ∃ T' : Tile, ∃ o : MatOp, exec w s = .next ((s.setTile s.cur.tile T').wakeBands s.cur.tile bands) ∧
          T'.aq = T.aq ++ [o] ∧ o.kind = 3 ∧ o.slot = slot ∧ o.coop = co ∧ o.ctx = x ∧ o.tds = tds ∧
          o.seq = (if sends then T.opSeq + 1 else T.opSeq) ∧
          T'.emitq = (if sends then T.emitq ++ [{ seq := T.opSeq, ctx := x, nest := some slot }] else T.emitq) ∧
          o.begun = false ∧ T'.opSeq = o.seq + 1 ∧ fld (T'.nw slot 1) 33 2 = 1 ∧ fld (T'.nw slot 1) 35 2 = x ∧
          (T'.nest slot).cap = s.c cr ∧ (T'.nest slot).idx = [0, 0, 0, 0, 0, 0] ∧ Claimed T T' x tds ∧
          (∃ k, k < 28 ∧ T'.trk = T.trk ++ [TrkEntry.mk k (.nest slot) false addr (addr + len) T.opSeq]) ∧ T'.pad = T.pad ∧
          T'.ctxs = T.ctxs
      let nothing := fun (w : Instr) (co : Bool) => T.nestBad slot co = false → bands = 0 →
        ∃ T' : Tile, exec w s = .next (s.setTile s.cur.tile T') ∧ fld (T'.nw slot 1) 33 2 = 3 ∧ fld (T'.nw slot 1) 35 2 = x ∧
          (∀ i, i ≠ 0x411 + 8 * slot → T'.cr i = T.cr i) ∧ { T' with creg := T.creg, nests := T.nests } = T
      (x < 4 → PadAllows s cr lo len 9 1 false false → T.nestAligned slot (capAddr (s.c cr)) = true → s.unitFree →
        (∀ i ∈ tds, s.mayUse i) → goes (.mgo sl) false ∧ goes (.mgoCo sl) true ∧ nothing (.mgo sl) false ∧
        nothing (.mgoCo sl) true) ∧
      (∀ o, T.runningNest = some o → o.ctx ≠ x →
        (∀ w ∈ ([.mresume, .mwake e, .mshape b, .mfid l r, .mrep n st0 st1 st2] : List Instr),
          Traps w s 0x0E (BitVec.ofNat 64 o.ctx)) ∧
        (s.me.mwaits = false → ∀ w ∈ ([.mwait, .mwaitNest sl] : List Instr), Traps w s 0x0E (BitVec.ofNat 64 o.ctx)) ∧
        (PadAllows s cr lo len 9 1 false false → T.nestAligned slot (capAddr (s.c cr)) = true →
          (T.nestBad slot false = false → Traps (.mgo sl) s 0x0E (BitVec.ofNat 64 o.ctx)) ∧
          (T.nestBad slot true = false → Traps (.mgoCo sl) s 0x0E (BitVec.ofNat 64 o.ctx))))) ∧
    (∀ (s : State) (t p : BitVec 3) (c : BitVec 4) (f : BitVec 3) (r : BitVec 5) (sg : BitVec 3) (b z l : BitVec 1),
      let T := s.here
      let busy := fun (w : Instr) (o : MatOp) => Traps w s 0x0E (BitVec.ofNat 64 o.ctx)
      let row := (if f = 0 then 16 else if f = 7 then 64 else 32) * (sg.toNat + 1)
      let set := if f = 0 then 32768 else if f = 7 then 131072 else 65536
      let same := (3 ≤ f.toNat ↔ 3 ≤ T.setFmt b.toNat)
      (∀ o, T.runningNest = some o → o.ctx ≠ s.cur.ctx →
        (PadAllows s c.toNat s.cur.addrOff ((r.toNat + 1) * row) 9 16 false false → same →
          busy (.mma t c f r sg b z l) o ∧ (3 ≤ f.toNat → t.toNat + sg.toNat < 8 → busy (.mmas t c f r sg b z l) o)) ∧
        (PadAllows s c.toNat s.cur.addrOff 1152 9 64 false false → busy (.scacc t c p r b z) o) ∧
        (PadAllows s c.toNat 0 set 9 64 false false → busy (.mldb c f b z) o)) ∧
      (PadAllows s c.toNat 0 set 9 64 false false → s.unitFree → (∃ o ∈ T.aq, o.kind ≠ 2 ∧ o.set = b.toNat ∧ o.ctx ≠ s.cur.ctx) →
        ∃ o ∈ T.aq, o.kind ≠ 2 ∧ o.set = b.toNat ∧ o.ctx ≠ s.cur.ctx ∧ busy (.mldb c f b z) o)) ∧
    (∀ (s : State) (sl : BitVec 2) (b : BitVec 4) (l r : BitVec 2) (n : BitVec 10) (st0 st1 st2 : BitVec 5),
      let x := s.cur.ctx
      let T := s.here
      let slot := sl.toNat
      let direct := (∀ o ∈ T.aq, o.ctx = x → o.kind = 3) ∧ (∀ o ∈ T.lq, o.ctx ≠ x)
      -- the context's writes of register i that are on their way, which act on no matrix word any more (R397)
      let shown := fun (i : Nat) => T.cpend.map (fun w => if w.ctx == x && w.idx == i then { w with regOnly := true } else w)
      (s.unitFree → exec .mpause s = .next s) ∧
      (¬ s.unitFree → ∃ t, exec .mpause s = .next t ∧ t.here.pauseReq = true ∧ t.cur.ended = .waits ∧ t.me.st = waiting) ∧
      (s.unitFree ∨ s.me.mwaits = true →
        let done := s.modMe (fun c => { c with mwaits := false })
        let waits := fun (w : Instr) => Waits w s 2 ∧ ∃ t, exec w s = .next t ∧ t.me.mwaits = true
        (direct → s.me.run.pend = 0 → s.me.matPend = [] → ∃ t, exec .mwait s = .next t ∧
          t.here.trk = T.trk.filter (fun e => e.kind != .direct x) ∧ t.cur.ended = s.cur.ended ∧ t.here.pad = T.pad ∧
          t.me.regs = s.me.regs ∧ t.me.mwaits = false) ∧
        (direct → (s.me.run.pend ≠ 0 ∨ s.me.matPend ≠ []) → ∃ cause info, Traps .mwait s cause info) ∧
        (¬ direct → waits .mwait) ∧
        (T.nestState slot = 0 → exec (.mwaitNest sl) s = .next done) ∧
        (T.nestState slot ≠ 0 → T.nestState slot ≠ 3 → waits (.mwaitNest sl)) ∧
        (T.nestState slot = 3 → T.nestOwner slot ≠ x → exec (.mwaitNest sl) s = .next done) ∧
        (T.nestState slot = 3 → T.nestOwner slot = x → (T.nest slot).run.pend = 0 → (T.nest slot).pend = [] →
          ∃ T' : Tile, exec (.mwaitNest sl) s = .next (done.setTile s.cur.tile T') ∧ T'.nestState slot = 0 ∧
            T'.trk = T.trk.filter (fun e => e.kind != .nest slot) ∧ T'.pad = T.pad ∧ T'.tregs = T.tregs ∧
            T'.ctxs = done.here.ctxs)) ∧
      (s.unitFree →
        (T.paused = none → exec .mresume s = .next s) ∧
        (∀ k, k < 4 → T.paused = some k → ∃ T' : Tile, exec .mresume s = .next (s.setTile s.cur.tile T') ∧ T'.paused = none ∧
          (T'.nw k 1).getLsbD 37 = false ∧ { T' with paused := T.paused, creg := T.creg } = T) ∧
        (∃ t, exec (.mwake b) s = .next t ∧ (∀ j, j < 4 → (t.here.cr 0x502).getLsbD (19 + j) =
            ((T.cr 0x502).getLsbD (19 + j) || (b.getLsbD j && !(T.cr 0x502).getLsbD (15 + j)))) ∧
          t.here.ctxs = T.ctxs ∧ t.here.pad = T.pad ∧
          (t.field (s.tileField s.cur.tile)).wakeQ = (s.field (s.tileField s.cur.tile)).wakeQ ++
            ((List.range 4).filter (fun j => b.getLsbD j && !(T.cr 0x502).getLsbD (15 + j) &&
              !(T.cr 0x502).getLsbD (19 + j))).map (fun j => (s.cur.tile, j))) ∧
        (∃ t, exec (.mshape b) s = .next t ∧ t.me = { s.me with matShape := b } ∧ t.here.pad = T.pad ∧
          ∃ w : CregWrite, t.here.cpend = shown 0x400 ++ [w] ∧ w.idx = 0x400 ∧ w.val = b.setWidth 64 ∧ w.ctx = x ∧ w.regOnly = true) ∧
        (∃ t, exec (.mfid l r) s = .next t ∧ t.me.matFid.toNat = l.toNat + 4 * r.toNat ∧ t.me.runNo = s.me.runNo + 1 ∧
          t.me.run = { level := l.toNat, rate := r.toNat } ∧ t.me.regs = s.me.regs ∧ t.here.pad = T.pad ∧
          ∃ w : CregWrite, t.here.cpend = shown 0x401 ++ [w] ∧ w.idx = 0x401 ∧ w.val.toNat = l.toNat + 4 * r.toNat ∧ w.ctx = x ∧
            w.regOnly = true) ∧
        (let q := Repeat.mk true 0 (n.toNat + 1) 0 st0.toNat st1.toInt st2.toInt s.me.sMode
         exec (.mrep n st0 st1 st2) s = .next (s.modMe (fun c => { c with rep := some q })))))

/-! ### Channels, the engine, synchronisation -/

/-- R84, R403, R401: SEND and SENDT on a channel that sends. A length that no state of the channel could serve is ILLEGAL;
without the window the word waits with reason 1; else it takes n + s lines (at most the ring), one packet with pkwin = 1,
moves wp, and its payload takes its place in the tile's order of emission (R274). SEND enters a tracker entry over its buffer before it
waits, and waits with reason 7 where the tracker is full. What can leave then leaves. (An open pass: `PassesLoseProtection`.)
R405 to R408, R104, R281: RECV consumes the oldest unconsumed payload, moves rp, merges its stamp, acquires, and gives
address and length; its lines return at the next RECV or CHWAIT. With none it waits with reason 5; a payload marked
CAUSAL_LOSS raises CAUSAL. CHWAIT on a send channel waits until every earlier SEND has read its buffer and retires those
entries. CHARM writes CHN_ARM, and an unconsumed payload starts the handler as an arrival (R88). CHSTAT lands with L = 2. (The model's
choices, no rules of the spec: what a loss marks, log 18; what a scope orders, log 17.) -/
def Obligations.ChannelWords : Prop :=
    (∀ (s : State) (g h : BitVec 6) (c : BitVec 4) (a l : BitVec 1) (sc : BitVec 3),
      let n := h.toNat
      let x := s.cur.ctx
      let T := s.here
      let cfg := T.cfg n
      let size := 2 ^ fld cfg 38 4
      let st := T.cst n
      let pkwin := if cfg.getLsbD 42 = true then 1 else 0
      let illegal := BitVec.ofNat 64 (s.cur.word + s.cur.raw.toNat * 4)
      let refused := fun (len : Nat) => fld cfg 0 2 ≠ 1 ∨ len < 1 ∨ 4096 < len ∨ size < (len + 63) / 64
      let sends := fun (w : Instr) (len : Nat) (also : Tile → Emission → Prop) =>
        let lines := (len + 63) / 64
        let left := size - fld st 0 16 % size
        let skip := if left < lines then left else 0
        let take := min (lines + skip) size
        ((fld st 32 16 < take ∨ fld st 48 5 < pkwin) → Waits w s 1) ∧
        (take ≤ fld st 32 16 → pkwin ≤ fld st 48 5 → (x ≠ 0 ∨ T.passOpen = false) → ∃ T' : Tile, ∃ e : Emission,
          exec w s = .next ((s.setTile s.cur.tile T').drain s.cur.tile) ∧
          fld (T'.cst n) 0 16 = (fld st 0 16 + lines + skip) % (2 * size) ∧ fld (T'.cst n) 32 16 = fld st 32 16 - take ∧
          fld (T'.cst n) 48 5 = fld st 48 5 - pkwin ∧ (∀ i, i ≠ 0x240 + n → i ≠ 0x004 → T'.cr i = T.cr i) ∧
          T'.emitq = T.emitq ++ [e] ∧ T'.opSeq = T.opSeq + 1 ∧ e.seq = T.opSeq ∧ e.ctx = x ∧ e.ch = n ∧ e.place = false ∧
          e.dst = tileAt (fld cfg 2 7) (fld cfg 9 7) ∧ e.pch = fld cfg 16 6 ∧ e.acq = (a == 1) ∧ e.rel = (l == 1) ∧
          e.scope = sc.toNat ∧ also T' e ∧ { T' with emitq := T.emitq, opSeq := T.opSeq, trk := T.trk, creg := T.creg } = T)
      let len := (s.gv g.toNat).toNat
      let addr := capAddr (s.c c.toNat)
      (refused len → Traps (.send g h c a l sc) s 0x01 illegal) ∧
      (refused 8 → Traps (.sendt g h a l sc) s 0x01 illegal) ∧
      (¬ refused len → PadAllows s c.toNat 0 len 9 1 false false → s.gp g.toNat = false →
        let fresh := ∀ e ∈ T.trk, e.kind ≠ .sendWait x
        let reads := fun (e : Emission) => e.addr = addr ∧ e.len = len ∧ e.data = none
        (fresh → T.trkFull = true → Waits (.send g h c a l sc) s 7) ∧
        (fresh → T.trkFull = false → sends (.send g h c a l sc) len (fun T' e => reads e ∧
            ∃ k, k < 28 ∧ T'.trk = T.trk ++ [TrkEntry.mk k (.send x n) false addr (addr + len) T.opSeq]) ∧
          (T.windowOpen n (T.takeOf n ((len + 63) / 64)) = false → ∃ t, exec (.send g h c a l sc) s = .next t ∧
            ∃ k, k < 28 ∧ t.here.trk = T.trk ++ [TrkEntry.mk k (.sendWait x) false addr (addr + len) T.opSeq])) ∧
        (¬ fresh → sends (.send g h c a l sc) len (fun T' e => reads e ∧
            T'.trk = T.trk.map (fun e => if e.kind = .sendWait x then { e with kind := .send x n } else e)) ∧
          (T.windowOpen n (T.takeOf n ((len + 63) / 64)) = false → ∃ t, exec (.send g h c a l sc) s = .next t ∧
            t.here.trk = T.trk))) ∧
      (¬ refused 8 → sends (.sendt g h a l sc) 8 (fun T' e => e.len = 8 ∧ T'.trk = T.trk ∧ e.data = some ((List.range 8).map
        (fun i => (BitVec.ofNat 8 ((s.gv g.toNat).toNat / 256 ^ i), s.gp g.toNat)))))) ∧
    (∀ (s : State) (g h : BitVec 6),
      let n := h.toNat
      let x := s.cur.ctx
      let T := s.here
      let cfg := T.cfg n
      let size := 2 ^ fld cfg 38 4
      let st := T.cst n
      let mode := fld cfg 0 2
      let pk := if cfg.getLsbD 42 = true then 1 else 0
      let illegal := BitVec.ofNat 64 (s.cur.word + s.cur.raw.toNat * 4)
      let unarmed := (T.arm n).getLsbD 16 = false ∧ T.queued n = 0
      let v := s.gv g.toNat
      let k := fld v 14 2
      let armOk := mode = 2 ∧ cfg.getLsbD 42 = true ∧ (v.getLsbD 16 = true → k ≠ 0 ∧ fld v 0 14 ≤ 10921) ∧
        (T.chan n).deferred = none ∧ v.toNat < 2 ^ 17
      let win := fld st 32 16
      let ready := (mode = 1 ∧ 1 ≤ win ∧ pk ≤ fld st 48 5) ∨ (mode = 2 ∧ ((T.chan n).ready ≠ [] ∨ T.queued n ≠ 0))
      (¬ (mode = 2 ∧ unarmed) → Traps (.recv g h) s 0x01 illegal) ∧
      (mode = 2 → unarmed → (T.chan n).ready = [] → Waits (.recv g h) s 5) ∧
      (∀ p l q, mode = 2 → unarmed → (T.chan n).ready = p :: l → p.lost = some q →
        Traps (.recv g h) s 0x0C (BitVec.ofNat 64 (n * 2 + q.f * 2 ^ 7 + q.t.toNat * 2 ^ 13))) ∧
      (∀ p l, mode = 2 → unarmed → (T.chan n).ready = p :: l → p.lost = none → s.quiet (gKey g.toNat) →
        ∃ t, exec (.recv g h) s = .next t ∧ t.me.hold = s.here.cycle + 2 ∧
          (∀ m, 2 ≤ m → t.later m (gKey g.toNat) =
            heldBy (gKey g.toNat) (gval (BitVec.ofNat 64 (p.addr + p.len * 2 ^ 32)) false)) ∧
          (t.here.chan n).ready = l ∧ (t.here.chan n).deferred = some (p.lines, pk) ∧
          fld (t.here.cst n) 16 16 = (fld st 16 16 + p.lines) % (2 * size) ∧
          (∀ f, t.here.vec f = (T.mergeStamp p.stamp).vec f) ∧ t.me.obs = T.rc ∧ t.here.pad = T.pad) ∧
      (mode ≠ 1 → mode ≠ 2 → Traps (.chwait h) s 0x01 illegal) ∧
      (mode = 2 → ∃ t, exec (.chwait h) s = .next t ∧ (t.here.chan n).deferred = none ∧
        (t.here.chan n).ready = (T.chan n).ready ∧ t.here.pad = T.pad ∧ t.here.ctxs = T.ctxs) ∧
      (let read := (∀ e ∈ T.emitq, e.ctx = x → e.ch = n → e.place = false → e.data ≠ none) ∧
         ∀ e ∈ T.pass.held, e.ctx = x → e.ch = n → e.place = false → e.box = none
       mode = 1 → (¬ read → Waits (.chwait h) s 2) ∧
        (read → ∃ T' : Tile, exec (.chwait h) s = .next (s.setTile s.cur.tile T') ∧
          T'.trk = T.trk.filter (fun e => e.kind != .send x n) ∧ { T' with trk := T.trk, creg := T.creg } = T)) ∧
      (¬ armOk → Traps (.charm g h) s 0x01 illegal) ∧
      (armOk → s.gp g.toNat = true → Traps (.charm g h) s 0x0B (BitVec.ofNat 64 s.cur.word)) ∧
      (s.gp g.toNat = false → armOk →
        ((v.getLsbD 16 = false ∨ (T.chan n).ready = []) → ∃ t, exec (.charm g h) s = .next t ∧ t.here.arm n = v ∧
          t.here.chan n = T.chan n ∧ t.here.pad = T.pad ∧ t.here.ctxs = T.ctxs) ∧
        (∀ p, v.getLsbD 16 = true → (T.chan n).ready = [p] → p.lost = none → (T.ctx k).st = dormant → T.stopped = false →
          ∃ t, exec (.charm g h) s = .next t ∧ t.here.arm n = v ∧ (t.here.ctx k).st = Sys2Proof.Machine.ready ∧
            (t.here.ctx k).pc = fld v 0 14 ∧ ∀ e ∈ [(1, p.addr), (2, p.len), (3, n), (4, p.src)],
              (∀ f ∈ (t.here.ctx k).flights, f.reg ≠ e.1) ∧ mget {} (t.here.ctx k).regs e.1 = gval (BitVec.ofNat 64 e.2) false)) ∧
      (s.quiet (gKey g.toNat) → ∃ b, (b = true ↔ ready) ∧ Writes (.chstat g h) s [(gKey g.toNat,
        gval (BitVec.ofNat 64 (st.toNat % 2 ^ 63 + if b then 2 ^ 63 else 0)) false)] 2))

/-- R409 to R413, R274: an engine command that passes its checks takes its token with the geometry of its descriptor: element
E reads and writes the pad at pad cursor + base + Σ ij × stride j, and the external side likewise. XST, XRED and XATOM stand
in the order of stamped packets; all but XPF have a tracker entry over their pad range. A token of 8 or more is
ILLEGAL, and one in use raises XERR with BADREQ where no lower code arises. (An open pass: `PassesLoseProtection`. Data that a pass still
waits to copy are copied then, `copyHeld`, R295.)
R414, R415, R230: XWAIT waits with reason 2 until the token's command has completed, consumes the completion, and raises the
trap of its status (5 to 8 have causes 0x0B, 0x06, 0x0C and 0x12, every other 0x0D); a free token completes at once. A command with REL at SYS is complete once what its tile wrote to the host and to
peers is flushed (R276). XTEST gives 0 free, 1 in progress, 2 complete and consumed, or 3 with
the status and the element. (The model's choices, no rules of the spec: what a scope orders and the flush at SYS, log 17.) -/
def Obligations.EngineWords : Prop :=
    (∀ (s : State) (t c : BitVec 4) (sl : BitVec 2) (a l : BitVec 1) (sc o n : BitVec 3) (m : BitVec 1) (f : BitVec 4),
      let x := s.cur.ctx
      let T := s.here
      let D := s.me.desc sl.toNat
      let cap := s.c (fld (D 1) 12 4)
      let forms : List (Instr × Nat × Nat × Bool) := [(.xld t c sl a l sc m, 0, m.toNat * 64, l == 1),
        (.xst t c sl a l sc, 1, 0, l == 1), (.xred t c sl a l sc o n m, 2, o.toNat * 16 + n.toNat * 2 + m.toNat, l == 1),
        (.xatom t c sl a l sc f m, 3, f.toNat * 8 + m.toNat * 4, l == 1), (.xpf t c sl a sc, 4, 0, false)]
      ∀ q ∈ forms,
        let op := q.2.1
        let cm := s.newCmd op t.toNat c.toNat sl.toNat q.2.2.1 (a == 1) q.2.2.2 sc.toNat
        let r := spanOf cm.pad cm.cnt cm.pstride cm.elem
        (8 ≤ t.toNat → Traps q.1 s 0x01 (BitVec.ofNat 64 (s.cur.word + s.cur.raw.toNat * 4))) ∧
        (EngineAllows s cm c.toNat sl.toNat → (x ≠ 0 ∨ T.passOpen = false) →
          ∃ T' : Tile, exec q.1 s = .next ((s.setTile s.cur.tile T').copyHeld s.cur.tile) ∧ T'.cmds = T.cmds ++ [cm] ∧ T'.opSeq = T.opSeq + 1 ∧
            cm.ctx = x ∧ cm.token = t.toNat ∧ cm.op = op ∧ cm.next = 0 ∧ cm.out = 0 ∧ cm.bad = none ∧
            cm.elem = fld (D 1) 0 12 + 1 ∧ cm.elems = ((List.range 6).map (fun j => fld (D 0) (10 * j) 10 + 1)).prod ∧
            (∀ E, cm.padAt E = capAddr cap + sext (fld (D 1) 16 24) 24 +
              ((List.range 6).map (fun j => idxOf cm.cnt E j * sext (fld (D (2 + j)) 0 24) 24)).sum) ∧
            (∀ E, cm.extAt E = capAddr (s.c c.toNat) +
              ((List.range 6).map (fun j => idxOf cm.cnt E j * sext (fld (D (2 + j)) 24 40) 40)).sum) ∧
            (if op = 4 then T'.trk = T.trk
              else EntersTracker T T' (.engine x t.toNat) (op == 0 || op == 3) r.1.toNat r.2.toNat) ∧
            (if 1 ≤ op ∧ op ≤ 3 then ∃ e : Emission, T'.emitq = T.emitq ++ [e] ∧ e.cmd = some t.toNat ∧ e.ctx = x ∧ e.seq = T.opSeq
              else T'.emitq = T.emitq) ∧
            { T' with cmds := T.cmds, opSeq := T.opSeq, trk := T.trk, creg := T.creg, emitq := T.emitq } = T)) ∧
    (∀ (s : State) (t : BitVec 4) (d : BitVec 6),
      let x := s.cur.ctx
      let T := s.here
      let k := t.toNat
      let illegal := BitVec.ofNat 64 (s.cur.word + s.cur.raw.toNat * 4)
      let consumed := fun (m : Cmd) (T' : Tile) => T'.trk = T.trk.filter (fun e => e.kind != .engine x k) ∧
        T'.cmds.length + 1 = T.cmds.length ∧ (∀ e ∈ T'.cmds, e ∈ T.cmds) ∧ T'.pad = T.pad ∧
        (m.acq = true → 1 ≤ m.scope → (T'.ctx x).obs = T.rc)
      let gives := fun (v : Nat) => Writes (.xtest t d) s [(gKey d.toNat, gval (BitVec.ofNat 64 v) false)] 2
      (8 ≤ k → Traps (.xwait t) s 0x01 illegal ∧ Traps (.xtest t d) s 0x01 illegal) ∧
      (k < 8 → T.cmd x k = none → exec (.xwait t) s = .next s ∧ (s.quiet (gKey d.toNat) → gives 0)) ∧
      (∀ m, k < 8 → T.cmd x k = some m →
        let sys := m.rel = true ∧ m.scope = 5
        ((m.complete = false ∨ m.handled T = true ∨ (sys ∧ s.flushed s.cur.tile m.upTo = false)) → Waits (.xwait t) s 2 ∧
          (s.quiet (gKey d.toNat) → (m.complete = false ∨ ¬ sys → gives 1) ∧ ∃ u, exec (.xtest t d) s = .next u ∧
            ∀ j, 2 ≤ j → u.later j (gKey d.toNat) = heldBy (gKey d.toNat) (gval 1#64 false))) ∧
        (m.complete = true → m.handled T = false → (sys → s.flushed s.cur.tile m.upTo = true) →
          (m.bad = none → ∃ T' : Tile, exec (.xwait t) s = .next (s.setTile s.cur.tile T') ∧ consumed m T') ∧
          (m.bad = none → s.quiet (gKey d.toNat) → ∃ u, exec (.xtest t d) s = .next u ∧ consumed m u.here ∧
            ∀ j, 2 ≤ j → u.later j (gKey d.toNat) = heldBy (gKey d.toNat) (gval 2#64 false)) ∧
          (∀ e pad st, m.bad = some (e, pad, st) → (s.quiet (gKey d.toNat) → gives (3 + st * 4 + e * 64)) ∧
            (let info := m.token + e % 2 ^ 32 * 16 + st * 2 ^ 36
             (st ≠ 5 → st ≠ 6 → st ≠ 7 → st ≠ 8 → Traps (.xwait t) s 0x0D (BitVec.ofNat 64 info)) ∧
             (st = 5 → Traps (.xwait t) s 0x0B (BitVec.ofNat 64 info ||| BitVec.ofNat 64 (2 ^ 44))) ∧
             (st = 6 → Traps (.xwait t) s 0x06 (BitVec.ofNat 64 info)) ∧
             (st = 7 → ∀ p, m.lost = some p → Traps (.xwait t) s 0x0C
               (BitVec.ofNat 64 (1 + m.token * 2 + p.f * 2 ^ 7 + p.t.toNat * 2 ^ 13 + e % 2 ^ 32 * 2 ^ 29))) ∧
             (st = 8 → Traps (.xwait t) s 0x12 (BitVec.ofNat 64 info)))))))

/-- R173, R174, R418, R419: barriers. BARR gives the phase as the token once the tile has not arrived at it and nothing it
must wait for is left, records the arrival, and is a release; while the tile is being grafted it waits (R92). BWAIT with d = 0 waits with reason 0, remembering its slot
and token; when the phase has moved it ends with DONE and d = 1; d of 1 to 32,767 at issue ends with PAST and d. BTEST
tells whether d ≥ 1. An invalid slot and a future token raise BADTOKEN.
R175 to R178, R420, R421: WKPOST starts the nest of a good descriptor on a walker that is not ACTIVE, once its release at
PLOT is done; else it waits with reason 4. WKNEXT takes the iteration that has been handed over and goes to its entry, or
ends with 0 at exhaustion, or makes the tile eligible and waits; outside context 0 it is ILLEGAL. (The model's choices, no rules of the
spec: the slot on which a BWAIT waits, log 17; which tile the walker holds to be eligible, log 37.) -/
def Obligations.BarrierAndWalkerWords : Prop :=
    (∀ (s : State) (g : BitVec 6) (p : BitVec 3) (w : BitVec 2), s.quiet (gKey g.toNat) → s.quiet (pKey p.toNat) →
      let T := s.here
      let slot := w.toNat
      let tok := (s.gv g.toNat).toNat % 2 ^ 16
      let info := fun (phase invalid : Nat) => BitVec.ofNat 64 (slot + tok * 4 + phase * 2 ^ 18 + invalid * 2 ^ 34)
      let lands := fun (t : State) (key : Nat) (v : RVal) => ∀ k, 2 ≤ k → t.later k key = heldBy key v
      (s.groupOf s.cur.tile slot = none →
        Traps (.barr g w) s 0x10 (BitVec.ofNat 64 (slot + 2 ^ 34)) ∧
        (s.gp g.toNat = false → Traps (.bwait g p w) s 0x10 (info 0 1) ∧ Traps (.btest g p w) s 0x10 (info 0 1))) ∧
      (∀ k G, s.groupOf s.cur.tile slot = some (k, G) → (s.cur.ctx ≠ 0 ∨ T.passOpen = false) →
        ((s.cur.tile ∈ G.arrived ∨ s.mayArrive = false ∨ s.grafting s.cur.tile = true) → Waits (.barr g w) s 0) ∧
        (s.cur.tile ∉ G.arrived → s.mayArrive = true → s.grafting s.cur.tile = false → ∃ t, exec (.barr g w) s = .next t ∧
          lands t (gKey g.toNat) (gval (BitVec.ofNat 64 G.phase.toNat) false) ∧ t.me.hold = T.cycle + 2 ∧
          t.here.rc = T.rc + 1 ∧ t.here.pad = T.pad ∧
          (mget {} (t.plot s.myPlot).groups k : Group) = { G with arrived := G.arrived ++ [s.cur.tile] })) ∧
      (∀ k G, s.groupOf s.cur.tile slot = some (k, G) → s.gp g.toNat = false →
        let d := (G.phase.toNat + 2 ^ 16 - tok) % 2 ^ 16
        let mine := s.me.bwait = some (slot, BitVec.ofNat 16 tok)
        let ends := fun (v : Nat) (past : Bool) => ∃ t, exec (.bwait g p w) s = .next t ∧
          lands t (gKey g.toNat) (gval (BitVec.ofNat 64 v) false) ∧ lands t (pKey p.toNat) (pval past false) ∧
          t.me.bwait = none ∧ t.me.obs = T.rc ∧ t.here.pad = T.pad
        (d = 0 → Waits (.bwait g p w) s 0 ∧ ∃ t, exec (.bwait g p w) s = .next t ∧
          t.me.bwait = some (slot, BitVec.ofNat 16 tok)) ∧
        (mine → d ≠ 0 → ends 1 false) ∧
        (¬ mine → 1 ≤ d → d ≤ 32767 → ends d true) ∧
        (¬ mine → 32768 ≤ d → Traps (.bwait g p w) s 0x10 (info G.phase.toNat 0)) ∧
        (32768 ≤ d → Traps (.btest g p w) s 0x10 (info G.phase.toNat 0)) ∧
        (d ≤ 32767 → ∃ t, exec (.btest g p w) s = .next t ∧ lands t (pKey p.toNat) (pval (1 ≤ d) false) ∧
          t.here.pad = T.pad ∧ t.me.obs = (if 1 ≤ d then T.rc else s.me.obs)))) ∧
    (∀ (s : State) (c : BitVec 4) (p : BitVec 3) (w : BitVec 2),
      let T := s.here
      let a := capAddr (s.c c.toNat)
      let D := fun (k : Nat) => readBytes T.pad (a + 8 * k) 8
      let at' := fun (k lo n : Nat) => D k / 2 ^ lo % 2 ^ n
      let order := (List.range 6).map (fun j => at' 1 (32 + 3 * j) 3)
      let W : Walker := mget {} (s.plot s.myPlot).walkers w.toNat
      let after := fun (t : State) => (mget {} (t.plot s.myPlot).walkers w.toNat : Walker)
      (∀ k G, PadAllows s c.toNat 0 32 9 32 false true → (∀ j, j < 4 → mget false T.padPoison (a / 8 + j) = false) →
        (∀ j, j < 6 → j ∈ order) → at' 2 0 14 ≤ 10921 → s.groupOf s.cur.tile (at' 1 50 2) = some (k, G) →
        at' 1 54 10 = 0 → at' 2 14 50 = 0 → D 3 = 0 → (s.cur.ctx ≠ 0 ∨ T.passOpen = false) →
        let free := W.state ≠ 1 ∧ s.released s.cur.tile s.cur.ctx 3 s.myPlace = true
        (¬ free → Waits (.wkpost c w) s 4) ∧
        (free → ∃ t, exec (.wkpost c w) s = .next t ∧ t.here.rc = T.rc + 1 ∧ t.here.pad = T.pad ∧ t.here.ctxs = T.ctxs ∧
          (after t).state = 1 ∧ (after t).gen = W.gen + 1 ∧ (after t).group = k ∧ (after t).handed = 0 ∧
          (after t).cnt = [at' 0 0 16, at' 0 16 16, at' 0 32 16, at' 0 48 16, at' 1 0 16, at' 1 16 16] ∧
          (after t).order = order ∧ (after t).ctx = at' 1 52 2 ∧ (after t).entry = at' 2 0 14 ∧
          (after t).idx = [0, 0, 0, 0, 0, 0] ∧ (after t).refused = [] ∧ (after t).waiting = W.waiting)) ∧
      (s.cur.ctx ≠ 0 → Traps (.wknext p w) s 0x01 (BitVec.ofNat 64 (s.cur.word + s.cur.raw.toNat * 4))) ∧
      (s.cur.ctx = 0 → s.quiet (pKey p.toNat) → (∀ j, j < 6 → s.quiet (gKey (58 + j))) →
        (∀ entry idx, s.me.handed = some (entry, idx) → ∃ t, exec (.wknext p w) s = .next t ∧ t.me.handed = none ∧
          t.me.atEnd = .jump entry ∧ t.me.obs = T.rc ∧ t.here.pad = T.pad ∧
          (∀ n, 2 ≤ n → t.later n (pKey p.toNat) = heldBy (pKey p.toNat) (pval true false)) ∧
          ∀ j, j < 6 → ∀ n, 2 ≤ n → t.later n (gKey (58 + j)) = gval (idx.getD j 0#64) false) ∧
        (s.me.handed = none → (s.me.exhausted = true ∨ W.state = 2 ∧ s.cur.tile ∉ W.waiting) →
          ∃ t, exec (.wknext p w) s = .next t ∧ t.me.exhausted = false ∧ t.me.atEnd = s.me.atEnd ∧ t.here.pad = T.pad ∧
            ∀ n, 2 ≤ n → t.later n (pKey p.toNat) = heldBy (pKey p.toNat) (pval false false)) ∧
        (s.me.handed = none → s.me.exhausted = false → (W.state ≠ 2 ∨ s.cur.tile ∈ W.waiting) →
          Waits (.wknext p w) s 4 ∧ ∃ t, exec (.wknext p w) s = .next t ∧ s.cur.tile ∈ (after t).waiting)))

/-- R151, R287, R422: HWIN applies the entries of the host ingress buffer in order, empties it, and gives their number; a byte
that no entry names keeps its value. The bounding range of its lines is checked against the region tracker, and it takes an entry over
it (R222, R280): a conflict raises PADRACE with the lowest-numbered entry and the lowest byte that it holds (R230), a full tracker makes it wait with reason 7. R423, R298: SWAP with passes enabled commits: held packets leave in order, the
buffers of every pair in use change places, PASS_PC is the next packet, and a new protected pass opens. R190: PWRQ for no
more than the class held is granted at once, any other sends its request and waits with reason 3; PWRREL is PWRQ 4. (The model's choice, no rule of the spec: what the commit of a pass
waits for, log 16.) -/
def Obligations.HostWindowSwapAndPowerWords : Prop :=
  ∀ (s : State) (g : BitVec 6) (k : BitVec 4),
    let T := s.here
    let t := s.cur.tile
    let x := s.cur.ctx
    let F := s.field (s.tileField t)
    let covers := fun (e : Ingress) (addr : Nat) => ∃ b ∈ e.bytes, 64 * e.line + b.1 = addr
    let r := T.hwinRange
    let apart := ∀ e ∈ s.rivals, e.hi ≤ r.1 ∨ r.2 ≤ e.lo
    (T.ingress ≠ [] → (∀ e ∈ T.ingress, r.1 ≤ 64 * e.line ∧ 64 * e.line + 64 ≤ r.2) ∧
      (∃ e ∈ T.ingress, r.1 = 64 * e.line) ∧ ∃ e ∈ T.ingress, r.2 = 64 * e.line + 64) ∧
    (let meets := fun (e : TrkEntry) => r.1 < e.hi ∧ e.lo < r.2 ∧ T.ingress ≠ []
     ∀ e ∈ s.rivals, meets e → (∀ e' ∈ s.rivals, meets e' → e' ≠ e → e.n < e'.n) →
       Traps (.hwin g) s 0x05 (BitVec.ofNat 64 (s.cur.word + e.n % 32 * 4 + 128 + max r.1 e.lo % 2 ^ 22 * 256))) ∧
    (apart → T.ingress ≠ [] → T.trkFull = true → Waits (.hwin g) s 7) ∧
    (s.quiet (gKey g.toNat) → (T.ingress = [] ∨ apart ∧ T.trkFull = false) → ∃ t', exec (.hwin g) s = .next t' ∧
      t'.here.ingress = [] ∧ (t'.here.cr 0x690).getLsbD 6 = false ∧
      (∀ n, 2 ≤ n → t'.later n (gKey g.toNat) = heldBy (gKey g.toNat) (gval (BitVec.ofNat 64 T.ingress.length) false)) ∧
      (∀ addr, (∀ e ∈ T.ingress, ¬ covers e addr) → mget 0#8 t'.here.pad addr = mget 0#8 T.pad addr) ∧
      -- of the entries that name one byte the last remains
      (∀ l e l', T.ingress = l ++ e :: l' → (e.bytes.map (·.1)).Nodup → ∀ b ∈ e.bytes, (∀ e' ∈ l', ¬ covers e' (64 * e.line + b.1)) →
        mget 0#8 t'.here.pad (64 * e.line + b.1) = b.2) ∧
      (∀ e ∈ T.ingress, (∀ b ∈ e.bytes, mget false t'.here.capTags ((64 * e.line + b.1) / 16) = false) ∧
        mget {} t'.here.lineTags e.line = ⟨0, T.rc - 128⟩) ∧
      (∀ n, (∀ e ∈ T.ingress, e.line ≠ n) → mget {} t'.here.lineTags n = mget {} T.lineTags n)) ∧
    (x ≠ 0 → Traps .swap s 0x01 (BitVec.ofNat 64 (s.cur.word + s.cur.raw.toNat * 4))) ∧
    (x = 0 → (T.cr 0x580).getLsbD 0 = false → exec .swap s = .next s) ∧
    (x = 0 → (T.cr 0x580).getLsbD 0 = true → T.quiet0 = false → Waits .swap s 2) ∧
    (x = 0 → (T.cr 0x580).getLsbD 0 = true → T.quiet0 = true → ∃ T' : Tile,
      exec .swap s = .next ((s.setTile t T').drain t) ∧ OutboxReleased T T'.emitq ∧ T'.pass.held = [] ∧
      T'.pass.log = [] ∧ fld (T'.cr 0x581) 0 14 = s.me.nextPacket (T.inEffect 0 0x011) % 2 ^ 14 ∧ fld (T'.cr 0x582) 0 20 = 1 ∧
      fld (T'.cr 0x582) 20 4 = 0 ∧ fld (T'.cr 0x582) 24 16 = min (fld (T.cr 0x582) 24 16 + 1) 0xFFFF ∧
      (∀ j, j < 4 → let w := T.cr (0x584 + j)
        let w' := T'.cr (0x584 + j)
        if fld w 32 12 = 0 then w' = w else fld w' 0 16 = fld w 16 16 ∧ fld w' 16 16 = fld w 0 16 ∧ fld w' 32 12 = fld w 32 12) ∧
      T'.pad = T.pad ∧ T'.ctxs = T.ctxs) ∧
    (let forms : List (Instr × Nat) := [(.pwrq k, if k = 0 then 1 else k.toNat), (.pwrrel, 4)]
     ∀ q ∈ forms,
      let n := q.2
      let held := fld (T.cr 0x501) 0 4
      (s.me.granted = true → exec q.1 s = .next (s.modMe (fun c => { c with granted := false }))) ∧
      (s.me.granted = false → T.pwrOut = none → T.pwrq = [] →
        (n ≤ held → ∃ u, exec q.1 s = .next u ∧ fld (u.here.cr 0x501) 0 4 = n ∧
          (u.field (s.tileField t)).granted = F.granted + n - held ∧ u.here.ctxs = T.ctxs ∧ u.here.pad = T.pad) ∧
        (held < n → Waits q.1 s 3 ∧ ∃ u, exec q.1 s = .next u ∧ u.here.pwrOut = some ⟨x, n⟩ ∧
          (u.field (s.tileField t)).pwrQ = F.pwrQ ++ [(t, ⟨x, n⟩)] ∧ fld (u.here.cr 0x501) 0 4 = held)))

/-- R293 to R297: the open, protected pass of context 0. A SENDT that fits in the outbox is held there, outside the order of
emission; one that does not fit (2), XATOM (3), a release at GRP or wider (4) and a write of PASS_CFG (5) end the protection,
release the held packets, each to the place of its issue, and say why. The data of a held send stand in its outbox lines at once, or with ACQ
when its wait is over. Poison consumed there starts a rollback: nothing is done and the context
waits; after a rollback it raises POISON and sets why = 6. (The model's choices, no rules of the spec: guarded passes where R293 to R298 are
silent, log 16.) -/
def Obligations.PassesLoseProtection : Prop :=
  ∀ (s : State) (g h : BitVec 6) (c : BitVec 4) (sc : BitVec 3) (w : BitVec 1) (o : BitVec 7) (v info : W64) (t pc resume : Nat),
    let T := s.here
    let n := h.toNat
    let used := fld (T.cr 0x582) 7 13
    let room := let l := fld (T.cr 0x580) 17 13
      if l = 0 ∨ 4096 < l then 4096 else l
    let lost := fun (T' : Tile) (why : Nat) => (T'.cr 0x582).getLsbD 1 = true ∧ fld (T'.cr 0x582) 20 3 = why ∧
      fld (T'.cr 0x582) 7 13 = 0 ∧ T'.pass.held = []
    let cfg := T.cfg n
    let open' := (T.cr 0x582).getLsbD 0 = true ∧ (T.cr 0x582).getLsbD 1 = false
    let sendable := fld cfg 0 2 = 1 ∧ 1 ≤ fld (T.cst n) 32 16 ∧ (cfg.getLsbD 42 = true → 1 ≤ fld (T.cst n) 48 5)
    (s.cur.ctx = 0 → open' →
      (∀ a l : BitVec 1, sendable → l = 0 → used + 1 ≤ room → ∃ T' : Tile, ∃ e : Emission,
        exec (.sendt g h a l sc) s = .next ((s.setTile s.cur.tile T').drain s.cur.tile) ∧ T'.emitq = T.emitq ∧
        T'.pass.held = T.pass.held ++ [e] ∧ e.ch = n ∧ e.seq = T.opSeq ∧ e.data.isSome = true ∧ fld (T'.cr 0x582) 7 13 = used + 1 ∧
        fld (T'.cst n) 32 16 = fld (T.cst n) 32 16 - 1 ∧
        (a = 0 → readBytes (((s.setTile s.cur.tile T').drain s.cur.tile).tile s.cur.tile).pad ((fld (T.cr 0x580) 1 16 + used) * 64) 8 =
          (s.gv g.toNat).toNat)) ∧
      (∀ a l : BitVec 1, sendable → l = 0 → room < used + 1 → ∃ T' : Tile, ∃ e : Emission,
        exec (.sendt g h a l sc) s = .next ((s.setTile s.cur.tile T').drain s.cur.tile) ∧ lost T' 2 ∧
        (∃ q, OutboxReleased T q ∧ T'.emitq = q ++ [e]) ∧ e.ch = n) ∧
      (let m := if w = 1 then 8 else 4
       let u := s.modHere (·.unprotect 4)
       let done := u.released s.cur.tile s.cur.ctx sc.toNat s.myPlace
       let sent := u.flushFor false true s.cur.tile s.cur.ctx sc.toNat s.myPlace
       PadAllows s c.toNat (o.toInt * (m : Nat)) m 2 m true false → 2 ≤ sc.toNat →
        (done = true → ∃ T' : Tile,
          exec (.stRel g c sc w o) s = .next (sent.setTile s.cur.tile T') ∧ lost T' 4 ∧ OutboxReleased T T'.emitq ∧
          T'.rc = T.rc + 1) ∧
        (done = false → Waits (.stRel g c sc w o) s 6 ∧ ∃ t, exec (.stRel g c sc w o) s = .next t ∧ lost t.here 4 ∧
          OutboxReleased T t.here.emitq))) ∧
    (s.cur.ctx = 0 → open' → ∀ (tk cx : BitVec 4) (sl : BitVec 2) (a l : BitVec 1) (f : BitVec 4), l = 0 →
      (let cm := s.newCmd 3 tk.toNat cx.toNat sl.toNat (f.toNat * 8 + w.toNat * 4) (a == 1) (l == 1) sc.toNat
       EngineAllows s cm cx.toNat sl.toNat → ∃ T' : Tile, ∃ e : Emission,
        exec (.xatom tk cx sl a l sc f w) s = .next (s.setTile s.cur.tile T') ∧ lost T' 3 ∧
        (∃ q, OutboxReleased T q ∧ T'.emitq = q ++ [e]) ∧ e.cmd = some tk.toNat) ∧
      (let cm := s.newCmd 0 tk.toNat cx.toNat sl.toNat 64 (a == 1) (l == 1) sc.toNat
       EngineAllows s cm cx.toNat sl.toNat → ∃ T' : Tile,
        exec (.xld tk cx sl a l sc 1) s = .next ((s.setTile s.cur.tile T').copyHeld s.cur.tile) ∧
        (if 16 ≤ T.pass.log.length then lost T' 1 else T'.pass.log = T.pass.log ++ [cm] ∧
          fld (T'.cr 0x582) 2 5 = T.pass.log.length + 1 ∧ (T'.cr 0x582).getLsbD 1 = false))) ∧
    -- what every one of these causes does, and the write of PASS_CFG
    (open' → ∀ why, 1 ≤ why → why ≤ 6 → lost (T.unprotect why) why ∧ OutboxReleased T (T.unprotect why).emitq ∧
      (T.unprotect why).pad = T.pad) ∧
    (open' → v.getLsbD 0 = true → (T.cr 0x580).getLsbD 0 = true → lost (T.writePassCfg v) 5) ∧
    -- poison
    ((s.tile t).passOpen = true → ((s.tile t).cr 0x582).getLsbD 23 = false →
      let u := s.raiseAt t 0 pc resume 0x0B info
      (u.ctx t 0).st = waiting ∧ (u.tile t).pass.roll = 1 ∧ (u.ctx t 0).regs = (s.ctx t 0).regs ∧ (u.tile t).pad = (s.tile t).pad) ∧
    ((s.tile t).passOpen = true → ((s.tile t).cr 0x582).getLsbD 23 = true →
      let u := s.raiseAt t 0 pc resume 0x0B info
      (u.ctx t 0).st = trapped ∧ (u.ctx t 0).cr 0x012 = 0x0B#64 ∧ ((u.tile t).cr 0x582).getLsbD 1 = true ∧
        fld ((u.tile t).cr 0x582) 20 3 = 6)

/-! ### Events of a tile's core and its matrix unit -/

/-- R199, R200, R226, R228, R229, R246, R206, R82, R119, R207, R305, R296, R290: the events of a tile's core, on a tile that
the wafer has: trap entry and asynchronous traps, the timer, the loop buffer, faults of a fetch, the random-bit queue,
control-register writes as they take effect, replays, window expiry, scrubbing, and the rollback of a pass. (The model's choices, no rules
of the spec: an asynchronous trap leaves CTX_EPC.resume at the group where the context stands, and which context takes POWER, log 11
(DEDUCED); the rollback of a pass, log 16; a write of a control register taken as an event, log 60; an event whose condition fails does
nothing, log 7.) -/
def Obligations.CoreEvents : Prop :=
  ∀ (s : State) (t : BitVec 14) (x : BitVec 2) (cause : BitVec 8) (info v : W64) (ch f : BitVec 6) (sl : BitVec 2) (j : BitVec 3),
    t.toNat < 15360 →
    let n := t.toNat
    let T := s.tile n
    let c := s.ctx n x.toNat
    let issues := c.st = ready ∨ c.st = running ∨ c.st = trapped
    let becomes := fun (i : Instr) (post : State → Prop) => ∃ u, exec i s = .next u ∧ post u
    let tileOnly := fun (i : Instr) (post : Tile → Prop) => ∃ T' : Tile, exec i s = .next (s.setTile n T') ∧
      T'.pad = T.pad ∧ post T'
    let traps := fun (i : Instr) (cause : Nat) (info : W64) => becomes i (fun u =>
      TrapEntered c (u.ctx n x.toNat) (fld (T.inEffect x.toNat 0x014) 0 14) c.pc c.first cause info ∧ (u.tile n).pad = T.pad)
    let svbase := fld (T.cr 0x003) 0 14
    (issues → 1 ≤ cause.toNat → cause.toNat ≤ 0x16 → traps (.trapEntry t x cause info) cause.toNat info) ∧
    (let pend := fun (b : Nat) => (c.cr 0x015).getLsbD b
     let takes := fun (cause : Nat) (post : State → Prop) => c.st = ready → c.midPacket = false → c.sMode = false →
      becomes (.asyncTrapTake t x) (fun u => let c' := u.ctx n x.toNat
        c'.cr 0x012 = BitVec.ofNat 64 cause ∧ c'.sMode = true ∧ c'.st = trapped ∧
        c'.cr 0x011 = BitVec.ofNat 64 (c.pc % 2 ^ 14 + c.first * 2 ^ 14) ∧ post u)
     (pend 3 = true → takes 0x15 (fun u => ((u.ctx n x.toNat).cr 0x015).getLsbD 3 = false)) ∧
     (pend 3 = false → T.powerDue x.toNat = true → takes 0x09 (fun u => ((u.tile n).cr 0x502).getLsbD 14 = false ∧
      (u.ctx n x.toNat).cr 0x013 = BitVec.ofNat 64 (T.powEst % 16 + fld (T.cr 0x501) 0 4 * 16))) ∧
     (pend 3 = false → T.powerDue x.toNat = false → pend 5 = true →
      takes 0x16 (fun u => ((u.ctx n x.toNat).cr 0x015).getLsbD 5 = false))) ∧
    (fld (c.cr 0x016) 0 32 = 1 → c.st ≠ dormant → c.st ≠ halted → becomes (.timerExpiry t x) (fun u =>
      let c' := u.ctx n x.toNat
      fld (c'.cr 0x016) 0 32 = 0 ∧ (c'.cr 0x015).getLsbD 5 = true ∧ c'.regs = c.regs ∧ (u.tile n).pad = T.pad)) ∧
    ((c.cr 0x102).getLsbD 20 = true → (c.cr 0x102).getLsbD 21 = c.sMode → c.pc = fld (c.cr 0x102) 0 14 + fld (c.cr 0x102) 14 6 →
      exec (.loopBack t x) s = .next (s.modCtx n x.toNat Ctx.advance)) ∧
    (issues → 10921 < c.pc → traps (.packetFetchFault t x) 0x01 0) ∧
    (issues → c.pc ≤ 10921 → c.sMode = false → svbase ≤ c.pc → traps (.packetFetchFault t x) 0x02 0) ∧
    (issues → c.pc ≤ 10921 → (c.sMode = true ∨ c.pc < svbase) → ∀ k, k < 3 → (k = 2 → c.repeating = none) →
      decodeAt (T.imemWord c.pc k) k = none → (∀ i, i < k → decodeAt (T.imemWord c.pc i) i ≠ none) →
      traps (.illegalWord t x) 0x01 (BitVec.ofNat 64 (k + (T.imemWord c.pc k).toNat * 4))) ∧
    (let k := fld (T.cr 0x542) 0 59
     tileOnly (.rngAppend t) (fun T' => if 64 ≤ T.rngq.length then T'.rngq = T.rngq else
      T'.rngq = T.rngq ++ [rngWord (T.cr 0x540).toNat k] ∧ fld (T'.cr 0x542) 0 59 = (k + 1) % 2 ^ 59)) ∧
    tileOnly (.rngSeedWrite t v) (fun T' => T'.cr 0x540 = v ∧ T'.cr 0x542 = 0 ∧ T'.rngq = []) ∧
    tileOnly (.chnCfgWrite t ch v) (fun T' =>
      let m := ch.toNat
      let w := T'.cst m
      if T.chanIdle m = true then fld (T'.cfg m) 0 43 = fld v 0 43 ∧ fld w 0 32 = 0 ∧ fld w 55 8 = fld (T.cst m) 55 8 ∧
        fld w 32 16 = (if fld v 0 2 = 1 then 2 ^ fld v 38 4 else 0) ∧ w.getLsbD 54 = false ∧
        fld w 48 5 = (if fld v 0 2 = 1 ∧ v.getLsbD 42 = true then 16 else 0) ∧ (fld v 0 2 ≠ 2 → T'.arm m = 0)
      else T'.cfg m = T.cfg m ∧ w.getLsbD 54 = true) ∧
    tileOnly (.cauVecWrite t f v) (fun T' => T'.vec f.toNat = wmax (T.vec f.toNat) (v.setWidth 16) ∧
      T'.gcopy f.toNat = T.gcopy f.toNat ∧ T'.removed f.toNat = T.removed f.toNat) ∧
    (v.getLsbD 0 = true → (T.cr 0x580).getLsbD 0 = false → T.passOpen = false → T.emitq = [] →
      tileOnly (.passCfgWrite t v) (fun T' => T'.passOpen = true ∧ T'.pass.log = [] ∧ T'.pass.held = [] ∧
        fld (T'.cr 0x580) 0 30 = fld v 0 30)) ∧
    tileOnly (.rasThreshWrite t v) (fun T' => fld (T'.cr 0x787) 0 52 = fld v 0 52 ∧ T'.cr 0x784 = 0 ∧ T'.cr 0x786 = 0 ∧
      fld (T'.cr 0x785) 0 48 = 0) ∧
    tileOnly (.matFinjWrite t v) (fun T' => T'.finj = 0 ∧ fld (T'.cr 0x408) 0 3 = fld v 0 3 ∧ fld (T'.cr 0x408) 4 24 = fld v 4 24) ∧
    (fld v 2 2 ≠ 3 → tileOnly (.matFidWrite t x v) (fun T' => let c' := T'.ctx x.toNat
      c'.matFid.toNat = fld v 0 4 ∧ c'.runNo = c.runNo + 1 ∧ c'.run = { level := fld v 0 2, rate := fld v 2 2 } ∧ c'.regs = c.regs)) ∧
    (let i := 0x410 + 8 * sl.toNat + j.toNat
     exec (.matNestWrite t sl j v) s = .next (if T.nestState sl.toNat = 0 then s.setTile n (T.setCr i (Sys2Proof.Machine.written i 0 (T.cr i) v)) else s)) ∧
    tileOnly (.timingReplay t) (fun T' => T'.clock = T.clock + 2 ∧ T'.cycle = T.cycle ∧
      fld (T'.cr 0x780) 0 32 = min (fld (T.cr 0x780) 0 32 + 1) (2 ^ 32 - 1)) ∧
    tileOnly (.rasWindowExpiry t) (fun T' => T'.cr 0x784 = 0 ∧ T'.cr 0x786 = 0 ∧ fld (T'.cr 0x785) 0 48 = 0) ∧
    tileOnly (.scrub t) (fun T' => T'.scrubLine = (T.scrubLine + 1) % 65536 ∧ T'.ctxs = T.ctxs ∧
      ∀ w, mget false T'.padPoison w = (if 8 * T.scrubLine ≤ w ∧ w < 8 * T.scrubLine + 8 ∧ s.chosen (20 + w % 8) = 2 then true
        else mget false T.padPoison w)) ∧
    (T.pass.roll = 1 → T.quiet0 = true → T.pass.log = [] → (∀ e ∈ T.pass.rpOpen, e.1 < 64) → (∀ e ∈ T.pass.taken, e.1 < 64) → ∃ T' : Tile, exec (.poisonRollback t) s = .next (s.setTile n T') ∧
      let c' := T'.ctx 0
      c'.pc = fld (T.cr 0x581) 0 14 ∧ c'.first = 0 ∧ c'.st = ready ∧ c'.sMode = false ∧ c'.cr 0x101 = T.pass.snapIdx ∧
      c'.cr 0x102 = T.pass.snapBody ∧ (∀ key, key < 80 → (T.pass.snap.map (·.1)).Nodup →
        mget {} c'.regs key = mget {} T.pass.snap key) ∧ (T'.cr 0x582).getLsbD 23 = true ∧ T'.pass.roll = 0 ∧
      T'.pass.held = [] ∧ fld (T'.cr 0x782) 32 16 = min (fld (T.cr 0x782) 32 16 + 1) 0xFFFF) ∧
    (T.pass.roll = 1 → T.quiet0 = false → exec (.poisonRollback t) s = .next (s.setTile n T))

/-- R239, R251 to R257, R380 to R390, R293: the events of the matrix unit. The next array operation begins when nothing runs,
nothing earlier holds it back and its bands are awake. A row of an MMA of any format adds its segments to the initial
accumulator, in the columns of the bands that take part, and leaves the others; one of an MMAS adds each segment to a register of its own;
one of an SCACC adds the scaled partial. The exponent of a float segment is its largest, and its values are aligned to it. An iteration of
a nest is the MMA or MMAS at the address and target that its indices give. A row of a cooperative nest
takes its A bytes from the west and its accumulators from the north, sends the first east and the results south, as its place has it. At
the last row the targets are valid and dirty and the operation leaves its queue. MLDB fills the cells from the pad. TLD and TST move
their rows between pad and register. (That the cells stand still while an operation runs, and that a stopped tile's matrix steps do
nothing, is log 24; that a step whose condition fails does nothing is log 7: the model's choices, no rule of the spec.) -/
def Obligations.MatrixEvents : Prop :=
  ∀ (s : State) (t : BitVec 14), t.toNat < 15360 →
    let n := t.toNat
    let T := s.tile n
    let byte := fun (a : Nat) => (mget 0#8 T.pad a).toInt
    let tileOnly := fun (i : Instr) (post : Tile → Prop) => ∃ T' : Tile, exec i s = .next (s.setTile n T') ∧ post T'
    T.frozen = false →
    (∀ o, T.runningOp = none → T.nextOp = some o → T.mayStart o = true → o.kind ≠ 3 →
      (T.bandsAwake o.bands = true → tileOnly (.matrixOpStart t) (fun T' => { o with begun := true } ∈ T'.aq ∧
        T'.aq.length = T.aq.length ∧ T'.tregs = T.tregs ∧ T'.pad = T.pad)) ∧
      (T.bandsAwake o.bands = false → exec (.matrixOpStart t) s = .next (s.wakeBands n o.bands))) ∧
    (∀ o, T.runningOp = some o → o.kind ≠ 2 → o.row < (T.iteration o).rows → T.holdsNest o = false → T.bandsAwake o.bands = true →
      let it := T.iteration o
      let rb := rowBytes it.fmt it.segs
      let M : MacroSet := mget {} T.sets it.set
      let k := T.coop o.slot
      let a := it.addr + rb * o.row
      lowSlices it.level (T.runOf o).promo (s.field (s.tileField n)).railFault = [] →
      (o.coop = false → ∃ T' : Tile, exec (.matrixRowEnd t) s = .next ((s.setTile n T').drain n) ∧ T'.pad = T.pad ∧
        { o with row := o.row + 1, bad := if (T.padPoisoned a rb || M.poisoned) && o.bad.isNone then some o.row else o.bad } ∈ T'.aq ∧
        let value := fun (i c : Nat) (segs : List Nat) => rowElement it.fmt it.fl M (fun b => mget 0#8 T.pad (a + b)) c segs
          (if it.z then 0#32 else T.elem i o.row c)
        (it.kind = 0 → ∀ i r c, c < 256 → mget 0#32 (T'.treg i).data (256 * r + c) =
          if i = it.td ∧ r = o.row ∧ it.bands.getLsbD (c / 64) = true then value i c (List.range it.segs)
          else mget 0#32 (T.treg i).data (256 * r + c)) ∧
        (it.kind = 1 → 3 ≤ it.fmt → ∀ i r c, c < 256 → mget 0#32 (T'.treg i).data (256 * r + c) =
          if it.td ≤ i ∧ i < it.td + it.segs ∧ r = o.row ∧ it.bands.getLsbD (c / 64) = true then value i c [i - it.td]
          else mget 0#32 (T.treg i).data (256 * r + c))) ∧
      (o.coop = true → it.kind = 0 → k.chw ≠ k.chn → ∀ w v : Payload,
        (k.west = true → (T.chan k.chw).ready.head? = some w) → (k.north = true → (T.chan k.chn).ready.head? = some v) →
        (k.east = true → T.canSend k.che (linesOf rb) = true) → (k.south = true → T.canSend k.chs 16 = true) →
        ∃ T' : Tile, exec (.matrixRowEnd t) s = .next ((s.setTile n T').drain n) ∧ T'.pad = T.pad ∧
          let from' := if k.west = true then w.addr else a
          let start := fun (c : Nat) => if k.north = true then BitVec.ofNat 32 (readBytes T.pad (v.addr + 4 * c) 4)
            else if it.z then 0#32 else T.elem it.td o.row c
          let value := fun (c : Nat) => if it.bands.getLsbD (c / 64) = true then
            rowElement it.fmt it.fl M (fun b => mget 0#8 T.pad (from' + b)) c (List.range it.segs) (start c) else start c
          (k.west = true → (T'.chan k.chw).ready = (T.chan k.chw).ready.tail) ∧
          (k.north = true → (T'.chan k.chn).ready = (T.chan k.chn).ready.tail) ∧
          (k.east = true → ∃ e ∈ T'.emitq, e.ch = k.che ∧ e.data = some (T.padBytes from' rb)) ∧
          (k.south = true → (∀ i, (T'.treg i).data = (T.treg i).data) ∧ ∃ e ∈ T'.emitq, ∃ d, e.ch = k.chs ∧ e.data = some d ∧
            ∀ c j, c < 256 → j < 4 → (d.getD (4 * c + j) (0#8, false)).1 = (value c).extractLsb' (8 * j) 8) ∧
          (k.south = false → ∀ r c, c < 256 → mget 0#32 (T'.treg it.td).data (256 * r + c) =
            if r = o.row ∧ it.bands.getLsbD (c / 64) = true then value c else mget 0#32 (T.treg it.td).data (256 * r + c)))) ∧
    (∀ o, T.runningOp = some o → o.kind = 2 → o.row < o.rows → T.bandsAwake o.bands = true → tileOnly (.matrixRowEnd t) (fun T' =>
      T'.pad = T.pad ∧ ∀ i r c, c < 256 → mget 0#32 (T'.treg i).data (256 * r + c) =
        if i = o.td ∧ r = o.row ∧ o.bands.getLsbD (c / 64) = true then
          let d := fun (e : Nat) => fp32.decode (fp32.flush o.fzi e)
          let sa := readBytes T.pad (o.addr + 4 * r) 4
          let sb := readBytes T.pad (o.addr + 128 + 4 * c) 4
          BitVec.ofNat 32 (fp32.rne o.fl ((fp32.decode (T.elem o.td r c).toNat).add (((d (T.elem o.tp r c).toNat).mul (d sa)).mul (d sb))))
        else mget 0#32 (T.treg i).data (256 * r + c))) ∧
    (∀ xs : List Wif, ((∃ x ∈ xs, wifE x = 511) → (alignSeg xs).1 = -256) ∧
      ((∀ x ∈ xs, wifE x = 0) → (alignSeg xs).1 = -255) ∧
      ((∀ x ∈ xs, wifE x ≠ 511) → ∀ x ∈ xs, wifE x ≠ 0 → (∀ y ∈ xs, wifE y ≤ wifE x) → (alignSeg xs).1 = (wifE x : Int) - 255 ∧
        ∀ (j : Nat) (y : Wif), xs[j]? = some y → (alignSeg xs).2[j]? = some ((if wifSign y then -1 else 1) * ((wifM y / 2 ^ (wifE x - wifE y) : Nat) : Int)))) ∧
    (∀ o, o.kind = 3 →
      let N := T.nest o.slot
      let w1 := T.nw o.slot 1
      let i := fun (j : Nat) => (N.idx.getD j 0 : Int)
      let sum := fun (g : Nat → Int) => i 0 * g 0 + i 1 * g 1 + i 2 * g 2 + i 3 * g 3 + i 4 * g 4 + i 5 * g 5
      let it := T.iteration o
      it.kind = fld w1 0 1 ∧ it.bands = o.bands ∧ it.set = o.set ∧
      it.addr = ((capAddr N.cap : Int) + sext (fld (T.nw o.slot 2) 0 32) 32 + sum (T.nestStride o.slot)).toNat ∧
      (it.td : Int) = ((fld w1 26 3 : Int) + sum (T.nestTinc o.slot)) % 8 ∧
      it.fmt = fld w1 1 3 ∧ it.rows = fld w1 4 5 + 1 ∧ it.segs = fld w1 9 3 + 1 ∧ it.fl = w1.getLsbD 17 ∧ it.level = fld w1 18 2 ∧
      (it.z = true ↔ w1.getLsbD 13 = true ∧ ∀ j, j ≤ fld w1 14 3 → i j = 0)) ∧
    (∀ o, T.runningOp = some o → o.kind ≠ 3 → o.rows ≤ o.row → o.coop = false → tileOnly (.matrixOpComplete t) (fun T' =>
      T'.aq.length + 1 = T.aq.length ∧ (∀ e ∈ T'.aq, e ∈ T.aq) ∧ T'.pad = T.pad ∧
      (∀ i ∈ o.tds, (T'.treg i).dirty = true ∧ (T'.treg i).valid = o.bad.isNone ∧ (T'.treg i).data = (T.treg i).data) ∧
      (∀ i, i ∉ o.tds → T'.treg i = T.treg i) ∧
      (∀ r, o.bad = some r → (T'.ctx o.ctx).matPend = (T.ctx o.ctx).matPend ++
        [{ cause := 0x0B#8, info := BitVec.ofNat 64 (8 + r * 16 + 2 ^ 44), seq := o.seq }]))) ∧
    (∀ l rest, T.lq = l :: rest → T.loadReady l = true → l.fmt = 1 → tileOnly (.mldbComplete t) (fun T' => T'.lq = rest ∧
      T'.pad = T.pad ∧ let M : MacroSet := mget {} T'.sets l.set
      M.fmt = 1 ∧ M.poisoned = T.padPoisoned l.addr 65536 ∧
      ∀ K N, K < 256 → N < 256 → (mget 0#9 M.cells (K * 256 + N)).toInt = byte (l.addr + 256 * K + N))) ∧
    (∀ o l, T.tq = o :: l → T.blockedRegs o.seq o.reads o.writes = false →
      (o.store = false → tileOnly (.transferComplete t) (fun T' => T'.tq = l ∧ T'.pad = T.pad ∧ (T'.treg o.t).dirty = true ∧
        (T'.treg o.t).valid = !T.padPoisoned o.addr (1024 * o.rows) ∧
        ∀ r c, c < 256 → mget 0#32 (T'.treg o.t).data (256 * r + c) = if r < o.rows then
          BitVec.ofNat 32 (readBytes T.pad (o.addr + 1024 * r + 4 * c) 4) else mget 0#32 (T.treg o.t).data (256 * r + c))) ∧
      (o.store = true → tileOnly (.transferComplete t) (fun T' => T'.tq = l ∧ (T'.treg o.t).data = (T.treg o.t).data ∧
        (∀ r c, r < o.rows → c < 256 → readBytes T'.pad (o.addr + 1024 * r + 4 * c) 4 = (T.elem o.t r c).toNat) ∧
        ∀ b, (b < o.addr ∨ o.addr + 1024 * o.rows ≤ b) → mget 0#8 T'.pad b = mget 0#8 T.pad b)))

/-! ### The module and its power -/

/-- R16, R17, R18, R20 to R24, R26, R58, R160 and R197: power-up stops at step 2 with no firmware that is accepted, at step 3 with no
manifest that verifies under the key of the running image, either fault noted, and else reaches step 7; power-down leaves only what flash holds. Failed converters and low coolant
flow lower the module's limit; thermal steps and droop stretches show in HOST_FLD_STATE; a slice rail fault is counted once while
it lasts, and slice 3 has none. The measured fields take the sample. (The model's choices, no rules of the spec: the lower of two limits
stands while both the converters and the coolant flow lower it, log 57; the fault of a power-up that stops, log 42; event 1 at every failure
that leaves 26.4 kW or less, log 38; what power-down leaves, log 55; an event whose condition fails does nothing, log 7.) -/
def Obligations.ModuleEvents : Prop :=
  ∀ (s : State) (f : BitVec 6) (sl : BitVec 2) (vin pin : BitVec 16) (iFld : BitVec 11) (temp : BitVec 8),
    let n := f.toNat
    let becomes := fun (i : Instr) (post : State → Prop) => ∃ u, exec i s = .next u ∧ post u
    let regOnly := fun (i : Instr) (off : Nat) (post : W64 → Prop) => ∃ w, exec i s = .next (s.setReg0 off w) ∧ post w
    let H := s.host
    let lost := min (fld (s.reg0 offStatus) 33 4 + 1) 15
    let conv := fun (k : Nat) => if k ≤ 1 then 3600 else 3600 - 240 * (k - 1)
    let shown := fun (u : State) (tdp : Nat) => fld (u.reg0 offLimit) 0 12 = tdp ∧ (u.reg0 offStatus).getLsbD 37 = decide (tdp < 3600)
    (s.module.step ≠ 0 → exec .powerUp s = .next s) ∧
    (s.module.step = 0 → H.accepts H.bank0 = false → H.accepts H.bank1 = false →
      exec .powerUp s = .next { s with module := { s.module with step := 2, fault := 2 } }) ∧
    (∀ b, s.module.step = 0 → H.bootable = some b → becomes .powerUp (fun u =>
      u.module.step = (if s.module.verified (H.bank b) = true then 7 else 3) ∧
      (s.module.verified (H.bank b) = false → u.module.fault = 3) ∧ u.host.running = b ∧ u.host.version = Config.firmwareVersion (H.bank b) ∧
      H.version ≤ u.host.version ∧ (s.module.verified (H.bank b) = true → ∀ k, k < 64 → (u.field k).iLim ≤ 1250) ∧
      u.module.flash = s.module.flash ∧ u.tiles = s.tiles)) ∧
    becomes .powerDown (fun u => u.module.step = 0 ∧ u.module.flash = s.module.flash ∧ u.host.bank0 = H.bank0 ∧ u.host.bank1 = H.bank1 ∧
      u.host.version = H.version ∧ (∀ t i, (u.tile t).cr i = tileReset i) ∧ (∀ off, u.reg0 off = bar0Reset off) ∧ u.plots = [] ∧ u.net = []) ∧
    (let tdp := if s.module.flowLow = true then min (conv lost) 1800 else conv lost
     let post := fun (v : State) => shown v tdp ∧ fld (v.reg0 offStatus) 33 4 = lost ∧ (v.reg0 offStatus).getLsbD 32 = true ∧
       v.plots = s.plots ∧ v.tiles = s.tiles
     (2640 < conv lost → becomes .converterFail (fun u => post u ∧ u.module = s.module)) ∧
     (conv lost ≤ 2640 → ∃ v : State, exec .converterFail s = .next (v.preemptAll.report 1 0 0 0) ∧ post v ∧ v.module.held = true)) ∧
    (s.module.flowLow = false → ∃ v : State, exec .flowLow s = .next (v.report 2 0 0 0) ∧ v.module.flowLow = true ∧
      (v.reg0 offStatus).getLsbD 38 = true ∧ (∀ k, k < 64 → v.tstep k = 8) ∧
      shown v (min (conv (fld (s.reg0 offStatus) 33 4)) 1800) ∧ v.tiles = s.tiles ∧ v.plots = s.plots) ∧
    becomes .flowRestored (fun u => u.module.flowLow = false ∧ shown u (conv (fld (s.reg0 offStatus) 33 4)) ∧
      (∀ k, k < 64 → u.tstep k = s.tstep k) ∧ u.tiles = s.tiles) ∧
    regOnly (.thermalStepUp f) (offFld n) (fun w => fld w 11 4 = min 8 (s.tstep n + 1) ∧ fld w 0 11 = fld (s.reg0 (offFld n)) 0 11) ∧
    (s.module.flowLow = false → regOnly (.thermalStepDown f) (offFld n) (fun w => fld w 11 4 = s.tstep n - 1 ∧
      fld w 0 11 = fld (s.reg0 (offFld n)) 0 11)) ∧
    (s.module.flowLow = true → exec (.thermalStepDown f) s = .next s) ∧
    regOnly (.droopAlarm f) (offFld n) (fun w => w.getLsbD 15 = true ∧ fld w 16 16 = min 0xFFFF (fld (s.reg0 (offFld n)) 16 16 + 1) ∧
      fld w 0 15 = fld (s.reg0 (offFld n)) 0 15) ∧
    regOnly (.droopEnd f) (offFld n) (fun w => w.getLsbD 15 = false ∧ ∀ b, b ≠ 15 → w.getLsbD b = (s.reg0 (offFld n)).getLsbD b) ∧
    regOnly (.measurementUpdate (.module vin pin)) offStatus (fun w => fld w 0 16 = vin.toNat ∧ fld w 16 16 = pin.toNat ∧
      fld w 32 32 = fld (s.reg0 offStatus) 32 32) ∧
    regOnly (.measurementUpdate (.field f iFld temp)) (offFld n) (fun w => fld w 32 11 = iFld.toNat ∧ fld w 43 8 = temp.toNat ∧
      fld w 0 32 = fld (s.reg0 (offFld n)) 0 32) ∧
    (∀ (p : BitVec 7) (l : List WlSample), p.toNat < 96 → l.length = 9 →
      (∀ (w : Nat) x, l[w]? = some x → s.wlDue p.toNat w x = false) →
      becomes (.measurementUpdate (.port p l)) (fun u => u.tiles = s.tiles ∧ u.reg0 (offWlmap p.toNat) = s.reg0 (offWlmap p.toNat) ∧
        ∀ (w : Nat) x, l[w]? = some x → let h := s.reg0 (offHealth p.toNat w)
          let v := u.reg0 (offHealth p.toNat w)
          fld v 0 2 = (if s.wlFailed p.toNat w = true then fld h 0 2 else x.lock.toNat) ∧ fld v 4 10 = x.heater.toNat ∧
          fld v 14 10 = x.rxpwr.toNat ∧ fld v 32 8 = x.eye.toNat ∧ fld v 40 24 = min (fld h 40 24 + x.csym.toNat) (2 ^ 24 - 1) ∧
          fld v 24 8 = (if s.laser p.toNat = bloom then x.ber.toNat else fld h 24 8))) ∧
    (sl ≠ 3#2 → (s.field n).railFault.getLsbD sl.toNat = false → becomes (.sliceRailFault f sl) (fun u =>
      let F := u.field n
      F.railFault.getLsbD sl.toNat = true ∧ F.sfault.toNat = min 255 ((s.field n).sfault.toNat + 1) ∧ u.tiles = s.tiles)) ∧
    ((sl = 3#2 ∨ (s.field n).railFault.getLsbD sl.toNat = true) → exec (.sliceRailFault f sl) s = .next s) ∧
    becomes (.sliceRailFaultEnd f sl) (fun u => (sl ≠ 3#2 → (u.field n).railFault.getLsbD sl.toNat = false) ∧
      (u.field n).sfault = (s.field n).sfault ∧ u.tiles = s.tiles)

/-- R190 to R196: a grant that fits the pool and the 50 A of the present 1 µs window is charged and sent, and reaches its tile; one
that breaks the window waits for it. The activity monitor counts the cycles over g; at 256 it throttles the tile and makes POWER
pending, and counts again from zero; after 64 cycles at or below g the throttling ends. A band gates when it
has run and is idle, and wakes 220 cycles after its admission, 32 of a field in each window. Ballast runs on awake tiles, but not in a field
that is removed. (The model's choices, no rules of the spec: that a window has slid between two services, log 39; the context to which POWER
is due, log 11; that the estimate is a free value, log 40; an event whose condition fails does nothing, log 7.) -/
def Obligations.PowerEvents : Prop :=
  ∀ (s : State) (f : BitVec 6) (t : BitVec 14) (est : BitVec 4) (bd : BitVec 2) (on : Bool), t.toNat < 15360 →
    let n := t.toNat
    let F := s.field f.toNat
    let T := s.tile n
    let mon := T.cr 0x502
    let b := bd.toNat
    let tileOnly := fun (i : Instr) (post : Tile → Prop) => ∃ T' : Tile, exec i s = .next (s.setTile n T') ∧ T'.pad = T.pad ∧ post T'
    let becomes := fun (i : Instr) (post : State → Prop) => ∃ u, exec i s = .next u ∧ post u
    (∀ k r l, F.pwrQ = (k, r) :: l → r.ctx ≠ 4 →
      let inc := r.cls - (s.tile k).grant
      let fits := F.granted + inc ≤ s.pool f.toNat
      let window := (if F.rampw = true then 0 else F.ramp) + inc ≤ 100
      (fits → window → becomes (.fieldGrantServe f) (fun u => let F' := u.field f.toNat
        F'.pwrQ = l ∧ F'.granted = F.granted + inc ∧ F'.pwrSent = F.pwrSent ++ [(k, r)] ∧ F'.rampw = false ∧ u.tiles = s.tiles)) ∧
      (fits → ¬ window → becomes (.fieldGrantServe f) (fun u => (u.field f.toNat).pwrQ = F.pwrQ ∧ (u.field f.toNat).rampw = true ∧
        (u.field f.toNat).granted = F.granted ∧ u.tiles = s.tiles)) ∧
      (¬ fits → exec (.fieldGrantServe f) s = .next s)) ∧
    (s.grafting n = true → exec (.powerGrant t) s = .next s) ∧
    (∀ r l, (s.field (s.tileField n)).pwrSent = (n, r) :: l → r.ctx < 4 → s.grafting n = false → becomes (.powerGrant t) (fun u =>
      (u.tile n).grant = r.cls % 16 ∧ (u.field (s.tileField n)).pwrSent = l ∧ (u.tile n).pwrOut = none ∧
      ((u.tile n).ctx r.ctx).granted = true ∧ (u.tile n).pad = T.pad)) ∧
    (∀ e, e < 16 → let M := T.monitor e
      fld (M.cr 0x502) 0 4 = e ∧
      (T.grant < e → fld (M.cr 0x502) 4 9 = min 256 (fld mon 4 9 + 1) ∧ M.under = 0) ∧
      (e ≤ T.grant → fld (M.cr 0x502) 4 9 = 0 ∧ M.under = min 64 (T.under + 1)) ∧
      (∀ k, 13 ≤ k → (M.cr 0x502).getLsbD k = mon.getLsbD k) ∧ M.ctxs = T.ctxs ∧ M.pad = T.pad) ∧
    (T.grant < est.toNat → 256 ≤ fld mon 4 9 → fld mon 0 4 = est.toNat → tileOnly (.monitorOverrun t est) (fun T' =>
      fld (T'.cr 0x502) 0 4 = est.toNat ∧ fld (T'.cr 0x502) 4 9 = 0 ∧ (T'.cr 0x502).getLsbD 13 = true ∧
      (T'.cr 0x502).getLsbD 14 = true ∧ T'.ctxs = T.ctxs ∧ T'.powEst = est.toNat ∧
      ∀ x, T'.powerDue x = true ↔ (T.powerCtx = some x ∨ T.powerCtx = none))) ∧
    ((est.toNat ≤ T.grant ∨ fld mon 4 9 < 256 ∨ fld mon 0 4 ≠ est.toNat) → exec (.monitorOverrun t est) s = .next s) ∧
    (64 ≤ T.under → tileOnly (.throttleEnd t) (fun T' => ∀ k, (T'.cr 0x502).getLsbD k = if k = 13 then false else mon.getLsbD k)) ∧
    (T.under < 64 → exec (.throttleEnd t) s = .next s) ∧
    (mon.getLsbD (15 + b) = true → T.cr 0x402 ≠ 0#64 → T.bandRan.getLsbD b = true → (∀ o ∈ T.aq, o.begun = false) → mon.getLsbD 23 = false →
      tileOnly (.bandGate t bd) (fun T' => T'.sets = T.sets ∧ ∀ k, (T'.cr 0x502).getLsbD k = if k = 15 + b then false else mon.getLsbD k)) ∧
    ((mon.getLsbD 23 = true ∨ T.cr 0x402 = 0#64) → exec (.bandGate t bd) s = .next s) ∧
    (∀ e l, F.wakeQ = e :: l → becomes (.bandWakeAdmit f) (fun u => let F' := u.field f.toNat
      if 32 ≤ F.wakesIn then F'.wakeQ = e :: l ∧ F'.wakesIn = 0 else F'.wakeQ = l ∧ F'.wakesIn = F.wakesIn + 1)) ∧
    (mon.getLsbD (19 + b) = true → (∀ e ∈ s.fields, (n, b) ∉ e.2.wakeQ) → tileOnly (.bandWakeDone t bd) (fun T' =>
      ∀ k, (T'.cr 0x502).getLsbD k = if k = 19 + b then false else if k = 15 + b then true else mon.getLsbD k)) ∧
    (on = true → F.removed = true → exec (.ballast f on) s = .next s) ∧
    ((on = false ∨ F.removed = false) → becomes (.ballast f on) (fun u => ∀ k, (u.tile k).pad = (s.tile k).pad ∧ ((u.tile k).cr 0x502).getLsbD 23 =
      if k ∈ s.fieldTiles f.toNat ∧ fld ((s.tile k).cr 0x502) 15 4 ≠ 0 ∧ s.strikes (30000 + k) = false then on
      else ((s.tile k).cr 0x502).getLsbD 23))

/-! ### The map, grafts and plots -/

/-- R20, R35, R36, R47, R77, R89 to R92, R300 and R301: a graft is requested, queued behind another of its field, started on the
lowest-numbered free spare that passes, its own field's before those of the fields N, E, S and W, and runs through its steps: the contexts
stop with their results landed, the router drains, the copy is made with uncorrectable instruction words taken from the stored image, the map
switches and the owner's generation advances. An unreadable tile fails its plot. (The model's choices: the tile stands still from step 2 on,
log 24; the list of uncorrectable words, what a request that waits does to later ones, and that a spare which fails its readback is
unusable from then on, log 53; events 4 and 5 as they are told, log 57; an event whose condition fails does nothing, log 7.) -/
def Obligations.GraftEvents : Prop :=
  ∀ (s : State) (t : BitVec 14) (f : BitVec 6) (word : BitVec 15), t.toNat < 15360 →
    let n := t.toNat
    let T := s.tile n
    let h := s.tileField n
    let H := s.field h
    let F := s.field f.toNat
    let becomes := fun (i : Instr) (post : State → Prop) => ∃ u, exec i s = .next u ∧ post u
    let refused := ∃ v : State, exec (.graftRequest t) s = .next (v.report 5 h (T.plot.getD 0) (s.siteOf n)) ∧
      v = s.modTile n (fun T => { T with greq := false })
    (let own := ownerField n
     let rank := fun (k : Nat) => let g := siteField k
      if g = own then 0 else if g + 8 = own then 1 else if g = own + 1 ∧ own % 8 < 7 then 2 else if g = own + 8 ∧ own < 56 then 3
      else if g + 1 = own ∧ 0 < own % 8 then 4 else 5
     let passes := fun (k : Nat) => rank k < 5 ∧ (∃ q, (k, q) ∈ s.sites ∧ q.usable = true) ∧ s.placed k = false ∧
      (s.field (siteField k)).removed = false ∧ s.spareOk n k = true ∧ ∀ e ∈ s.fields, ∀ g, e.2.graft = some g → g.spare ≠ k
     s.sites.Pairwise (fun a b => a.1 < b.1) → ∀ k, s.chooseSpare n = some k ↔
      (passes k ∧ ∀ j, passes j → rank k < rank j ∨ (rank k = rank j ∧ k ≤ j))) ∧
    (T.greq = false → exec (.graftRequest t) s = .next s) ∧
    (T.greq = true → (n ∈ H.graftQ ∨ H.graft.map (·.tile) = some n) →
      exec (.graftRequest t) s = .next (s.modTile n (fun T => { T with greq := false }))) ∧
    (T.greq = true → H.graftQ = [] → H.graft = none →
      (∀ k, s.spareOrder h ≠ [] → s.chooseSpare n = some k → s.anchorsOk n k = true → becomes (.graftRequest t) (fun u => (u.field h).graft = some ⟨n, 1, k⟩ ∧
        (u.tile n).greq = false ∧ (u.tile n).pad = T.pad ∧ u.map = s.map)) ∧
      (∀ k, s.spareOrder h ≠ [] → s.chooseSpare n = some k → s.anchorsOk n k = false → becomes (.graftRequest t) (fun u => u.remapDue = true ∧
        (u.field h).graft = none ∧ u.map = s.map)) ∧
      ((s.spareOrder h = [] ∨ s.chooseSpare n = none) → T.imemBad = [] → refused)) ∧
    (T.greq = true → n ∉ H.graftQ → H.graft.map (·.tile) ≠ some n → (H.graft ≠ none ∨ H.graftQ ≠ []) →
      (s.spareOrder h ≠ [] → becomes (.graftRequest t) (fun u => (u.field h).graftQ = H.graftQ ++ [n] ∧ (u.field h).graft = H.graft ∧
        (u.tile n).greq = false)) ∧
      (s.spareOrder h = [] → T.imemBad = [] → refused)) ∧
    (∀ k l, F.graft = none → F.graftQ = k :: l →
      (∀ m, s.tileField k = f.toNat → s.spareOrder f.toNat ≠ [] → s.chooseSpare k = some m → s.anchorsOk k m = true →
        becomes (.graftQueuedStart f) (fun u => (u.field f.toNat).graft = some ⟨k, 1, m⟩ ∧ (u.field f.toNat).graftQ = l ∧
          (u.tile k).greq = false ∧ u.map = s.map)) ∧
      (s.tileField k ≠ f.toNat → becomes (.graftQueuedStart f) (fun u => (u.field f.toNat).graft = none ∧ (u.field f.toNat).graftQ = l ∧
        (u.field (s.tileField k)).graftQ = (s.field (s.tileField k)).graftQ ++ [k] ∧ u.tiles = s.tiles ∧ u.map = s.map))) ∧
    (∀ g, F.graft = some g → exec (.graftQueuedStart f) s = .next s) ∧
    (∀ g, F.graft = some g →
      let G := s.tile g.tile
      (g.step = 1 → G.atBoundary = true → G.quiet = true → G.goes = [] → (∀ x, ∀ q ∈ (G.ctx x).flights, q.go = false) →
        becomes (.graftTileStopped f) (fun u => let G' := u.tile g.tile
        G'.stopped = true ∧ G'.frozen = true ∧ (∀ x, (G'.ctx x).flights = [] ∧ (G'.ctx x).st = (G.ctx x).st) ∧ G'.pad = G.pad ∧
        (u.field f.toNat).graft = some { g with step := 2 })) ∧
      (g.step = 2 → (∀ p ∈ s.net, s.standsAt p ≠ s.siteOf g.tile ∨ p.inDir = none ∨ p.cls = 0) → becomes (.graftDrained f) (fun u =>
        (u.field f.toNat).graft = some { g with step := 3 } ∧ u.tiles = s.tiles)) ∧
      (g.step = 3 → s.strikes 970 = false → becomes (.graftCopyDone f true) (fun u => (u.field f.toNat).graft = some { g with step := 4 } ∧
        (u.tile g.tile).imemBad = [] ∧ (u.tile g.tile).imemFixed = [] ∧ (u.tile g.tile).pad = G.pad ∧
        (G.imemBad = [] → (u.tile g.tile).imem = G.imem) ∧
        ∀ i I, s.imageTile g.tile = some i → (s.plot (G.plot.getD 0)).img = some I → ∀ w ∈ G.imemBad,
          readBytes (u.tile g.tile).imem (8 * w) 8 = readBytes (loadText I (s.plot (G.plot.getD 0)).test i) (8 * w) 8)) ∧
      (∀ p, g.step = 3 → s.strikes 970 = true → (G.passOpen = false ∨ s.strikes 971 = false) → G.plot = some p →
        becomes (.graftCopyDone f true) (fun u => (u.plot p).state = 5 ∧ (u.field f.toNat).graft = none)) ∧
      (g.step = 3 → G.heldG = none → G.heldBlocks = [] →
        let v := s.modSite g.spare (fun q => { q with usable := false })
        (∀ k, v.chooseSpare g.tile = some k → k ≠ g.spare ∧
          exec (.graftCopyDone f false) s = .next (v.modField f.toNat (fun F => { F with graft := some ⟨g.tile, 3, k⟩ }))) ∧
        (v.chooseSpare g.tile = none → becomes (.graftCopyDone f false) (fun u => (u.site g.spare).usable = false ∧ u.map = s.map ∧
          (u.field f.toNat).graft = none ∧ u.remapDue = true ∧ (u.tile g.tile).stopped = false ∧ (u.tile g.tile).frozen = false))) ∧
      (g.step = 4 → G.heldG = none → G.heldBlocks = [] → G.emitq = [] → (∀ x, (G.ctx x).arrivals = []) → (s.mapEntry g.tile).site.isSome = true → ∃ v : State, exec (.graftMapSwitch f) s = .next (v.report 4 f.toNat (G.plot.getD 0) g.spare) ∧
        let G' := v.tile g.tile
        v.mapEntry g.tile = { site := some g.spare, moved := true } ∧ (∀ k, k ≠ g.tile → v.mapEntry k = s.mapEntry k) ∧
        (v.site (s.siteOf g.tile)).usable = false ∧ (v.field (ownerField g.tile)).gen = (s.field (ownerField g.tile)).gen + 1 ∧
        (v.field f.toNat).graft = none ∧ G'.stopped = false ∧ G'.frozen = false ∧ G'.greq = false ∧ fld (G'.cr 0x502) 15 9 = 0 ∧
        G'.pad = G.pad ∧ G'.ctxs = G.ctxs)) ∧
    (∀ p x, T.plot = some p → word.toNat < 16384 → x < 4 → T.fetches x word.toNat = true → word.toNat ∉ T.imemBad →
      (word.toNat ∉ T.imemFixed → becomes (.imemUncorrectable t word) (fun u => (u.tile n).imemBad = T.imemBad ++ [word.toNat] ∧
        (u.tile n).greq = true ∧ (u.tile n).imem = T.imem ∧ (u.tile n).pad = T.pad)) ∧
      (word.toNat ∈ T.imemFixed → becomes (.imemUncorrectable t word) (fun u => (u.plot p).state = 5)))

/-- R24, R45, R80, R93, R94, R115, R117 and R303: a full remap with nothing resident lays the map of R35 over usable sites of fields that
are not removed, installs detours round every failed link if every class 0 path between present tiles then stays within 300 cycles, else
keeps those that are installed, and advances the generation of each field whose entries change. A resynchronisation with
nothing resident and nothing in flight or held advances the vintage and resets every causal register. A removed field loses its
stacks and ports; a tripped one is also reported. (The model's choices, no rules of the spec: that a removal makes a full remap and a
resynchronisation due, with FAILED stacks and DOWN ports, and what is in flight at a removed field, logs 36 and 52 (DEDUCED); when the links
count as drained, log 36; an event whose condition fails does nothing, log 7.) -/
def Obligations.MapEvents : Prop :=
  ∀ (s : State) (f : BitVec 6),
    let n := f.toNat
    let becomes := fun (i : Instr) (post : State → Prop) => ∃ u, exec i s = .next u ∧ post u
    let out := ∀ e ∈ s.plots, e.2.granting = false ∧ e.2.state ≠ 2
    let gone := fun (u : State) => (u.field n).removed = true ∧ (u.field n).tripped = true ∧ (u.field n).graft = none ∧ u.remapDue = true ∧
      u.resyncDue = true ∧ (∀ k, k < 48 → stackField k = n → fld (u.reg0 (offStk k)) 0 2 = 3) ∧
      (∀ p, p < 96 → portField p = n → (u.port p).down = true) ∧ (u.field n).posted = (s.field n).posted
    (∀ v : State, v.allReachable = true ↔ ∀ a ∈ v.presentTiles, ∀ b ∈ v.presentTiles, a = b ∨ ∃ k, v.pathCost a b = some k ∧ k ≤ 300) ∧
    (s.remapDue = false → exec .fullRemap s = .next s) ∧
    (s.remapDue = true → out → (s.sites.map (·.1)).Nodup → (∀ e ∈ s.fields, e.2.graft = none) → becomes .fullRemap (fun u => u.remapDue = false ∧
      u.map = s.newMap ∧
      (let v : State := { s with map := s.newMap, detours := s.failedLinks }
       u.detours = if s.failedLinks = [] ∨ v.allReachable = true then s.failedLinks else s.detours) ∧
      (∀ t, t < 15360 → ∀ k, (u.mapEntry t).site = some k → (u.site k).usable = true ∧ (s.field (siteField k)).removed = false) ∧
      (∀ k, k < 64 → (u.field k).gen = (s.field k).gen +
        (if (List.range 15360).any (fun t => ownerField t == k && (u.mapEntry t).site != (s.mapEntry t).site) = true then 1 else 0)) ∧
      ∀ t, (u.tile t).pad = (s.tile t).pad)) ∧
    (s.resyncDue = false → exec .vintageResync s = .next s) ∧
    (s.resyncDue = true → out → s.fabricDrained = false → (exec .vintageResync s = .next s)) ∧
    (s.resyncDue = true → out → s.fabricDrained = true → becomes .vintageResync (fun u => u.resyncDue = false ∧ u.vint = s.vint + 1 ∧
      (∀ t k, t < 15360 → k < 64 → (u.tile t).vec k = 0xFFFF#16 ∧ (u.tile t).gcopy k = 0xFFFF#16 ∧
        (u.tile t).removed k = (s.field k).tripped ∧ (u.tile t).acks = [] ∧ (u.tile t).ebuf = []) ∧
      (∀ k, k < 64 → (u.field k).next = 0 ∧ (u.field k).stable = 0xFFFF#16 ∧ (u.field k).posted = 0xFFFF#16 ∧ (u.field k).ovf = [] ∧
        (u.field k).removed = (s.field k).tripped) ∧
      (∀ k, k < 48 → (u.stack k).pvec = [] ∧ (u.stack k).ebuf = [] ∧ (u.stack k).mem = (s.stack k).mem) ∧
      ∀ t, t < 15360 → (u.tile t).pad = (s.tile t).pad)) ∧
    ((s.field n).removed = true → exec (.fieldRemoval f) s = .next s) ∧
    ((s.field n).removed = false → becomes (.fieldRemoval f) gone) ∧
    ((s.reg0 (offFld n)).getLsbD 51 = true → exec (.fieldTrip f) s = .next s) ∧
    ((s.reg0 (offFld n)).getLsbD 51 = false → ∃ v : State, exec (.fieldTrip f) s = .next (v.report 3 n 0 0) ∧
      gone v ∧ (v.reg0 (offFld n)).getLsbD 51 = true ∧ (v.reg0 offStatus).getLsbD 39 = true)

/-- R163, R166, R173, R177 to R187: the events in the life of a plot. A pre-emption stops every tile that stands at a packet
boundary, its contexts in U mode with PREEMPT, and saves and frees the tiles once they have drained. A slice ends; a
restore reserves the tiles, in the order of the run queue; a completion clears them; a complete barrier advances its phase, once no member
is under graft; a walker hands an iteration
to the tile that has been eligible longest, and ends with the last. (The model's choices, no rules of the spec: what a waiting context's
CTX_EPC.resume holds and when a save may be made, log 35; which tile the walker holds to be eligible, a refusal, and what a completion waits
for, log 37; an event whose condition fails does nothing, log 7.) -/
def Obligations.PlotEvents : Prop :=
  ∀ (s : State) (plot : BitVec 16) (g : BitVec 8) (w : BitVec 2),
    let p := plot.toNat
    let P := s.plot p
    let becomes := fun (i : Instr) (post : State → Prop) => ∃ u, exec i s = .next u ∧ post u
    let freed := fun (u : State) => ∀ t ∈ P.tiles, (u.tile t).plot = none ∧ (u.tile t).released = false ∧ (u.tile t).pad = [] ∧ (u.tile t).grant = 1
    (P.state ≠ 2 ∨ s.mustStop p = false → exec (.preemption plot) s = .next s) ∧
    (P.state = 2 → P.dying = false → s.mustStop p = true →
      let u := (P.tiles.filter (fun t => !s.grafting t)).foldl State.stopTile (s.beginStop p)
      (u.drained P.tiles = false → exec (.preemption plot) s = .next u) ∧
      (u.drained P.tiles = true → becomes (.preemption plot) (fun v => (v.plot p).state = 3 ∧ (v.plot p).savedVint = s.vint ∧
        (v.plot p).saved = P.tiles.map (fun t => (t, u.imageOf t)) ∧ freed v)) ∧
      ∀ t ∈ P.tiles, s.grafting t = false → (s.tile t).stopped = false → (s.tile t).atBoundary = true → (s.tile t).pass.roll = 0 →
        (s.tile t).goes = [] → (u.tile t).stopped = true ∧ (u.tile t).pad = (s.tile t).pad ∧ ∀ x,
          let c := s.ctx t x
          let c' := u.ctx t x
          (c.sMode = false → c.st = ready ∨ c.st = running ∨ c.st = waiting →
            TrapEntered c c' (fld ((s.tile t).inEffect x 0x014) 0 14) c.pc (if c.midPacket then 0 else c.first) 0x15 0) ∧
          (c.sMode = true ∨ c.st = dormant ∨ c.st = trapped ∨ c.st = halted → c'.st = c.st ∧ c'.pc = c.pc ∧
            ((∀ q ∈ c.flights, q.go = false) → c'.flights = []))) ∧
    (P.state ≠ 2 ∨ P.stopping = true → exec (.sliceExpiry plot) s = .next s) ∧
    (P.state = 2 → P.stopping = false →
      let v := s.modPlot p (fun P => { P with served := true })
      exec (.sliceExpiry plot) s = .next (if v.rival p = true then (v.preempt p).endRound else v.endRound) ∧
      (v.rival p = false → becomes (.sliceExpiry plot) (fun u => (u.plot p).state = 2 ∧ u.tiles = s.tiles))) ∧
    (let v := s.endRound
     let Q := v.plot p
     let may := Q.state = 3 ∧ Q.granting = false ∧ s.module.held = false ∧ Q.served = false ∧ v.earlier p = false
     (∀ l, may → v.standAside Q = some l → v.lostImage Q = false → becomes (.restore plot) (fun u => (u.plot p).granting = true ∧
       (u.plot p).state = 3 ∧ ∀ t ∈ P.tiles, (u.tile t).plot = some p ∧ (u.tile t).released = false ∧
         (t, ({ ctx := 4, cls := Q.releaseClass t } : PwrReq)) ∈ (u.field (s.tileField t)).pwrQ)) ∧
     (∀ l, may → v.standAside Q = some l → v.lostImage Q = true → becomes (.restore plot) (fun u => (u.plot p).state = 5 ∧
       u.tiles = s.tiles)) ∧
     (¬ may ∨ v.standAside Q = none → exec (.restore plot) s = .next v)) ∧
    (P.state = 6 →
      let v := P.tiles.foldl (fun (v : State) t => v.modTile t (fun T => if T.atBoundary then T.halt else T)) s
      (v.finished P.tiles = false → exec (.plotCompletion plot) s = .next v) ∧
      (v.finished P.tiles = true → becomes (.plotCompletion plot) (fun u => (u.plot p).state = 7 ∧ (u.plot p).img = none ∧ freed u))) ∧
    (let G : Group := mget {} P.groups g.toNat
     let all := G.members ≠ [] ∧ ∀ t ∈ G.members, t ∈ G.arrived ∧ s.grafting t = false
     (all → becomes (.barrierComplete plot g) (fun u => u.tiles = s.tiles ∧
       mget {} (u.plot p).groups g.toNat = { G with phase := G.phase + 1, arrived := [] } ∧
       ∀ k, k ≠ g.toNat → mget {} (u.plot p).groups k = mget {} P.groups k)) ∧
     (¬ all → exec (.barrierComplete plot g) s = .next s)) ∧
    (let W : Walker := mget {} P.walkers w.toNat
     ∀ t idx W', s.nextEligible p w.toNat = some t → W.take = some (idx, W') →
       (s.mayTake p t W = true → becomes (.walkerHandoff plot w) (fun u =>
         let V : Walker := mget {} (u.plot p).walkers w.toNat
         V.handed = W.handed + 1 ∧ (V.state = if W.handed + 1 = W.total then 2 else 1) ∧ V.refused = W'.refused ∧ (u.tile t).pad = (s.tile t).pad ∧
         (W.ctx = 0 → (u.ctx t 0).handed = some (W.entry, idx.map (BitVec.ofNat 64)) ∧ (u.ctx t 0).handedBy = w.toNat) ∧
         (W.ctx ≠ 0 → (u.ctx t W.ctx).st = ready ∧ (u.ctx t W.ctx).pc = W.entry ∧ (u.ctx t W.ctx).sMode = false ∧
           ∀ j, j < 6 → mget {} (u.ctx t W.ctx).regs (gKey (58 + j)) = gval (BitVec.ofNat 64 (idx.getD j 0)) false))) ∧
       (s.mayTake p t W = false → becomes (.walkerHandoff plot w) (fun u => u.tiles = s.tiles ∧
         (mget {} (u.plot p).walkers w.toNat : Walker).refused = W'.refused ++ [idx])))

/-! ### The mailboxes -/

/-- R43, R44, R155, R156, R158, R163 and R434: a command runs only when it stands first in its mailbox's turn; any other event of it changes
nothing. A link that does not own the wafer receives NOTOWNER, or BADHANDLE where the command names a plot; CLAIM, PLOT_STATUS,
MAP_QUERY and AGENT_QUERY are answered for any link. An unlisted code receives BADCMD from the owner. (The model's choices, no rules of the
spec: an unlisted code from another link receives NOTOWNER, log 31 (DEDUCED); the layouts of the results of PLOT_STATUS, MAP_QUERY and
AGENT_QUERY, log 30 (PRESUMED); an event whose command is not first in turn does nothing, log 7.) -/
def Obligations.MailboxOwnership : Prop :=
  ∀ (s : State) (n : BitVec 2) (w h k i kind num : Nat) (al nw cool toHost test : Bool) (x0 y0 p lx ly : BitVec 7) (plot code : BitVec 16)
      (f tstk : BitVec 6) (ports : List (BitVec 7)) (table : List (BitVec 8 × BitVec 64)) (mem : BitVec 48) (root pa : BitVec 36)
      (set : BitVec 4) (v : BitVec 64) (id j : BitVec 8) (ha : BitVec 50) (len : BitVec 26) (image : List Byte) (img : ImageSet),
    let m := n.toNat
    let answers := fun (a : Instr) (status : Nat) (data : List Byte) (post : State → Prop) =>
      ∃ u, exec a s = .next u ∧ Answered s u m status data ∧ post u
    let owned : List (Instr × Nat) := [(.unclaim n, 0x02), (.plotCreate n w h al nw x0 y0, 0x10), (.remap n, 0x15), (.resync n, 0x16),
      (.fieldClear n f cool, 0x20), (.portRestart n p, 0x21), (.switchReconf n ports table, 0x22), (.switchReconfSecond n ports table, 0x22),
      (.setCreate n mem tstk root, 0x23), (.setDelete n set, 0x24), (.redwWrite n i v, 0x25), (.peerwinWrite n i v, 0x26), (.waferId n id, 0x28),
      (.peerWrite n j v, 0x29), (.stackRoot n k root, 0x2A), (.setRoot n k root, 0x2B), (.physCopy n toHost ha k pa len, 0x2C),
      (.fwStage n image, 0x30)]
    let named : List (Instr × Nat) := [(.plotLoad n plot img test, 0x11), (.plotStart n plot, 0x12), (.plotRetire n plot, 0x14)]
    let anyLink : List (Instr × Nat) := [(.claim n, 0x01), (.plotStatus n plot, 0x13), (.mapQuery n lx ly, 0x27), (.agentQuery n kind num, 0x2D)]
    (∀ e ∈ owned ++ named ++ anyLink, s.runs m e.2 = false → exec e.1 s = .next s) ∧
    (∀ e ∈ owned, s.runs m e.2 = true → s.host.owner ≠ some m → answers e.1 3 [] (fun u => u.tiles = s.tiles ∧ u.plots = s.plots ∧ u.ports = s.ports)) ∧
    (∀ e ∈ named, s.runs m e.2 = true →
      (s.host.owner ≠ some m ∨ (s.plot plot.toNat).created = false ∨ (s.plot plot.toNat).state = 7) →
      answers e.1 4 [] (fun u => u.tiles = s.tiles ∧ u.plots = s.plots)) ∧
    (s.runs m 0x01 = true →
      (s.host.owner = none ∨ s.host.owner = some m → answers (.claim n) 0 [] (fun u => u.host.owner = some m ∧
        ∀ l, l < 4 → (u.reg0 (offLink l)).getLsbD 48 = decide (l = m))) ∧
      (∀ o, s.host.owner = some o → o ≠ m → answers (.claim n) 8 [] (fun u => u.host.owner = some o))) ∧
    (s.runs m 0x02 = true → s.host.owner = some m → answers (.unclaim n) 0 [] (fun u => u.host.owner = none ∧ u.plots = s.plots ∧
      ∀ l, l < 4 → (u.reg0 (offLink l)).getLsbD 48 = false)) ∧
    (s.runs m 0x13 = true → let P := s.plot plot.toNat
      (P.created = false → answers (.plotStatus n plot) 4 [] (fun u => u.plots = s.plots)) ∧
      (P.created = true → P.state = 5 → answers (.plotStatus n plot) 0 (bytesOf 5 8 ++ bytesOf P.failed.toNat 8) (fun u => u.plots = s.plots)) ∧
      (P.created = true → P.state ≠ 5 → answers (.plotStatus n plot) 0 [BitVec.ofNat 8 P.state] (fun u => u.plots = s.plots))) ∧
    (s.runs m 0x27 = true →
      (120 ≤ lx.toNat → answers (.mapQuery n lx ly) 2 [] (fun u => u.map = s.map)) ∧
      (lx.toNat < 120 → let t := ly.toNat * 120 + lx.toNat
        let gen := (s.field (ownerField t)).gen.toNat * 2 ^ 16
        answers (.mapQuery n lx ly) 0 (bytesOf (match (s.mapEntry t).site with | some site => site + gen | none => 2 ^ 14 + gen) 8)
          (fun u => u.map = s.map))) ∧
    (s.runs m 0x2D = true →
      (∀ a, agentCode kind num = some a → answers (.agentQuery n kind num) 0
        [BitVec.ofNat 8 (mget 0 s.attach a % 120), BitVec.ofNat 8 (mget 0 s.attach a / 120)] (fun u => u.attach = s.attach)) ∧
      (agentCode kind num = none → answers (.agentQuery n kind num) 2 [] (fun u => u.attach = s.attach))) ∧
    (code.toNat ∉ mailCodes → s.runs m code.toNat = true →
      answers (.badMailboxCommand n code) (if s.host.owner = some m then 1 else 3) [] (fun u => u.tiles = s.tiles ∧ u.plots = s.plots))

/-- R42, R127, R129, R142, R156, R157, R160 and R432: what the owner's commands about plots, sets, windows, roots, copies and firmware
answer and do. (The model's choices, no rules of the spec: SET_CREATE takes the lowest free set, and the BADARG of SET_DELETE and of
REDW_WRITE, log 50; the layout of the results, log 30 (PRESUMED); that handles are never given again and where PLOT_CREATE's longer result
is kept, log 32; NOFIT where no plot number is free, log 57.) -/
def Obligations.MailboxCommands : Prop :=
  ∀ (s : State) (n : BitVec 2) (plot : BitVec 16),
    let m := n.toNat
    let p := plot.toNat
    let P := s.plot p
    let mine := fun (code : Nat) => s.runs m code = true ∧ s.host.owner = some m
    let answers := fun (a : Instr) (status : Nat) (data : List Byte) (post : State → Prop) =>
      ∃ u, exec a s = .next u ∧ Answered s u m status data ∧ post u
    let waits := fun (a : Instr) (code : Nat) (l : List Nat) (post : State → Prop) =>
      ∃ u, exec a s = .next u ∧ (m, code, l) ∈ u.host.waiting ∧ m ∉ u.host.goQ ∧ post u
    (mine 0x10 → ∀ w h al nw x0 y0,
      (w = 0 ∨ 120 < w ∨ h = 0 ∨ 128 < h → answers (.plotCreate n w h al nw x0 y0) 5 [] (fun u => u.plots = s.plots)) ∧
      (0 < w → w ≤ 120 → 0 < h → h ≤ 128 →
        (∀ x y k, s.chooseBase w h al nw x0.toNat y0.toNat = some (x, y) → s.freeNumber s.host.plotsMade 65535 = some k →
          s.host.handles.length < 2 ^ 63 → (∀ e ∈ s.plots, e.2.made ≤ s.host.plotsMade) →
          ∃ u, ∃ hs : List W64, exec (.plotCreate n w h al nw x0 y0) s = .next u ∧
            u.plot k = { created := true, w := w, h := h, x0 := x, y0 := y, made := s.host.plotsMade + 1 } ∧
            u.host.plotsMade = s.host.plotsMade + 1 ∧ s.fitsAt w h al nw x y = true ∧
            hs.length = w * h ∧ hs.Nodup ∧ (∀ v ∈ hs, v ≠ 0 ∧ v ∉ s.host.handles.map (·.1)) ∧
            (∀ i v, hs[i]? = some v → u.handleTile v = some (k, i)) ∧ mget [] u.host.results m = createResult k x y hs ∧
            readBytes u.host.mbx (offMbxBuf m + 0x1000) 2 = 0 ∧
            readBytes u.host.mbx (offMbxBuf m + 0x1008) 2 = k % 2 ^ 16 ∧ readBytes u.host.mbx (offMbxBuf m + 0x100A) 1 = x % 256 ∧
            readBytes u.host.mbx (offMbxBuf m + 0x100B) 1 = y % 256 ∧ (u.reg0 (offMbx m)).getLsbD 1 = false ∧
            ∀ i, i < min (w * h) 510 → readBytes u.host.mbx (offMbxBuf m + 0x1010 + 8 * i) 8 = (hs.getD i 0).toNat) ∧
        (s.chooseBase w h al nw x0.toNat y0.toNat = none ∨ s.freeNumber s.host.plotsMade 65535 = none → answers (.plotCreate n w h al nw x0 y0) 6 [] (fun u => u.plots = s.plots)))) ∧
    (P.created = true → P.state ≠ 7 → mine 0x11 → ∀ img test,
      (P.state ≠ 0 → answers (.plotLoad n plot img test) 8 [] (fun u => u.plots = s.plots)) ∧
      (P.state = 0 → imageOk P img test = true → answers (.plotLoad n plot img test) 0 [] (fun u =>
        u.plot p = { P with img := some img, test := test, state := 1 })) ∧
      (P.state = 0 → imageOk P img test = false → answers (.plotLoad n plot img test) 7 [] (fun u => u.plots = s.plots))) ∧
    (P.created = true → P.state ≠ 7 → mine 0x12 →
      (P.state ≠ 1 ∨ P.granting = true → answers (.plotStart n plot) 8 [] (fun u => u.plots = s.plots)) ∧
      (P.state = 1 → P.granting = false → s.poolsOk P = false → answers (.plotStart n plot) 6 [] (fun u => u.plots = s.plots)) ∧
      (P.state = 1 → P.granting = false → s.poolsOk P = true → waits (.plotStart n plot) 0x12 [p] (fun u =>
        (∀ l, s.standAside P = some l → s.module.held = false → (u.plot p).granting = true ∧ (u.plot p).state = 1 ∧
          ∀ t ∈ P.tiles, (u.tile t).plot = some p ∧ (u.tile t).released = false) ∧
        (s.standAside P = none ∨ s.module.held = true → (u.plot p).state = 3 ∧ u.tiles = s.tiles)))) ∧
    (P.created = true → P.state ≠ 7 → mine 0x14 →
      (P.state = 6 → waits (.plotRetire n plot) 0x14 [p] (fun u => u.plots = s.plots)) ∧
      (P.state = 2 → ∃ v : State, exec (.plotRetire n plot) s = .next (v.preempt p) ∧ (v.plot p).dying = true ∧ (v.plot p).state = 2 ∧
        (m, 0x14, [p]) ∈ v.host.waiting) ∧
      (P.state ≠ 2 → P.state ≠ 6 → answers (.plotRetire n plot) 0 [] (fun u => (u.plot p).state = 7 ∧ (u.plot p).img = none ∧
        ∀ t ∈ P.tiles, (u.tile t).plot ≠ some p))) ∧
    (mine 0x15 → waits (.remap n) 0x15 [] (fun u => u.remapDue = true ∧ u.tiles = s.tiles ∧ u.plots = s.plots)) ∧
    (mine 0x16 → waits (.resync n) 0x16 [] (fun u => u.resyncDue = true ∧ u.tiles = s.tiles ∧ u.plots = s.plots)) ∧
    (mine 0x20 → ∀ (f : BitVec 6) (cool : Bool),
      if (s.reg0 (offFld f.toNat)).getLsbD 51 = false then answers (.fieldClear n f cool) 0 [] (fun u => u.fields = s.fields ∧
        u.reg0 (offFld f.toNat) = s.reg0 (offFld f.toNat))
      else if cool = false then answers (.fieldClear n f cool) 9 [] (fun u => u.fields = s.fields ∧ (u.reg0 (offFld f.toNat)).getLsbD 51 = true)
      else answers (.fieldClear n f cool) 0 [] (fun u => (u.reg0 (offFld f.toNat)).getLsbD 51 = false ∧ (u.field f.toNat).tripped = false ∧
        (u.field f.toNat).removed = (s.field f.toNat).removed)) ∧
    (mine 0x23 → ∀ (mem : BitVec 48) (tstk : BitVec 6) (root : BitVec 36),
      let ms := (List.range 48).filter (fun k => mem.getLsbD k)
      let good := 2 ≤ ms.length ∧ (∀ k ∈ ms, (s.stack k).disabled = false) ∧ tstk.toNat ∈ ms ∧ root.toNat % 2 ^ 19 = 0 ∧ root.toNat < 48 * 2 ^ 30
      (∀ k, k < 12 → (∀ j, j < k → (s.reg0 (offSet j)).getLsbD 60 = true) → (s.reg0 (offSet k)).getLsbD 60 = false → good →
        answers (.setCreate n mem tstk root) 0 [BitVec.ofNat 8 k] (fun u => let w := u.reg0 (offSet k)
          fld w 0 48 = mem.toNat ∧ fld w 48 6 = ms.length ∧ fld w 54 6 = tstk.toNat ∧ w.getLsbD 60 = true ∧
          (u.reg0 (offSetroot k)).toNat = root.toNat / 2 ^ 19)) ∧
      ((∀ j, j < 12 → (s.reg0 (offSet j)).getLsbD 60 = true) ∨ ¬ good →
        answers (.setCreate n mem tstk root) 2 [] (fun u => ∀ k, k < 12 → u.reg0 (offSet k) = s.reg0 (offSet k)))) ∧
    (mine 0x24 → ∀ (set : BitVec 4), let k := set.toNat
      if k < 12 ∧ (s.reg0 (offSet k)).getLsbD 60 = true ∧ s.leaves (48 + k) = [] then
        answers (.setDelete n set) 0 [BitVec.ofNat 8 k] (fun u => u.reg0 (offSet k) = 0 ∧ u.reg0 (offSetroot k) = 0)
      else answers (.setDelete n set) 2 [] (fun u => u.reg0 (offSet k) = s.reg0 (offSet k))) ∧
    (mine 0x25 → ∀ i v, if i < 8 ∧ fld v 0 44 % 2 ^ fld v 44 4 = 0 then
        answers (.redwWrite n i v) 0 [] (fun u => (u.reg0 (offRedw i)).toNat = v.toNat % 2 ^ 55)
      else answers (.redwWrite n i v) 2 [] (fun u => ∀ j, j < 8 → u.reg0 (offRedw j) = s.reg0 (offRedw j))) ∧
    (mine 0x26 → ∀ i v, if i < 64 then answers (.peerwinWrite n i v) 0 [] (fun u => (u.reg0 (offPeerwin i)).toNat = v.toNat % 2 ^ 22)
      else answers (.peerwinWrite n i v) 2 [] (fun u => ∀ j, j < 64 → u.reg0 (offPeerwin j) = s.reg0 (offPeerwin j))) ∧
    (mine 0x2A → ∀ k (root : BitVec 36), if k < 48 ∧ root.toNat % 2 ^ 19 = 0 ∧ root.toNat < 48 * 2 ^ 30 then
        answers (.stackRoot n k root) 0 [] (fun u => fld (u.reg0 (offStk k)) 2 36 = root.toNat / 2 ^ 19 ∧
          (fld (s.reg0 (offStk k)) 0 2 ≠ 1 → fld (u.reg0 (offStk k)) 0 2 = fld (s.reg0 (offStk k)) 0 2))
      else answers (.stackRoot n k root) 2 [] (fun u => u.reg0 (offStk k) = s.reg0 (offStk k))) ∧
    (mine 0x2B → ∀ k (root : BitVec 36),
      if k < 12 ∧ (s.reg0 (offSet k)).getLsbD 60 = true ∧ root.toNat % 2 ^ 19 = 0 ∧ root.toNat < 48 * 2 ^ 30 then
        answers (.setRoot n k root) 0 [] (fun u => (u.reg0 (offSetroot k)).toNat = root.toNat / 2 ^ 19)
      else answers (.setRoot n k root) 2 [] (fun u => ∀ j, j < 12 → u.reg0 (offSetroot j) = s.reg0 (offSetroot j))) ∧
    (mine 0x2C → ∀ (toHost : Bool) (ha : BitVec 50) (k : Nat) (pa : BitVec 36) (len : BitVec 26),
      let bad := 48 ≤ k ∨ ha.toNat % 64 ≠ 0 ∨ pa.toNat % 64 ≠ 0 ∨ len.toNat % 64 ≠ 0 ∨ len.toNat < 64 ∨ 2 ^ 24 < len.toNat ∨
        48 * 2 ^ 30 < pa.toNat + len.toNat
      (bad → answers (.physCopy n toHost ha k pa len) 2 [] (fun u => u.cellars = s.cellars)) ∧
      (¬ bad → s.stackDead k = true ∨ s.linkUp m = false →
        answers (.physCopy n toHost ha k pa len) 9 [] (fun u => u.cellars = s.cellars)) ∧
      (¬ bad → s.stackDead k = false → s.linkUp m = true → ∃ u, exec (.physCopy n toHost ha k pa len) s = .next u ∧ m ∉ u.host.goQ ∧
        u.copy m = some { toHost := toHost, ha := ha.toNat, stack := k, pa := pa.toNat, left := len.toNat } ∧
        (∀ j, (u.stack j).mem = (s.stack j).mem) ∧
        (toHost = false → u.cellars = s.cellars ∧ u.host.outstanding = s.host.outstanding ++ [.copy m] ∧
          u.host.tlps = s.host.tlps ++ [(m, .read ha.toNat 64)]) ∧
        (toHost = true → ∃ q : Packet, (u.stack k).ready = (s.stack k).ready ++ [q] ∧ q.reqVa = pa.toNat ∧ q.src = .pcie m))) ∧
    (∀ c : PhysCopy, s.copy m = some c →
      (∃ u, s.copyData m none = u ∧ Answered s u m 9 [] ∧ u.copy m = none ∧ u.cellars = s.cellars) ∧
      (c.left = 64 → ∃ u, s.copyNext m c = u ∧ Answered s u m 0 [] ∧ u.copy m = none ∧ u.cellars = s.cellars)) ∧
    (mine 0x30 → ∀ image : List Byte, if s.host.accepts image = true then
        answers (.fwStage n image) 0 [] (fun u => let b := 1 - s.host.running
          u.host.bank b = image ∧ u.host.bootBank = b ∧ u.host.running = s.host.running ∧
          (s.host.running ≤ 1 → u.host.bank s.host.running = s.host.bank s.host.running))
      else answers (.fwStage n image) 9 [] (fun u => u.host.bank0 = s.host.bank0 ∧ u.host.bank1 = s.host.bank1))

/-- R55, R56, R60, R63, R66 and R432: the owner's commands about ports. A restart begins a bring-up; the first reconfiguration call
holds the named ports, and fails those that are DOWN; the second makes the ready ones wait for light, and fails every other at once, which
goes DOWN; the wafer id changes only with every port dark or
down, and PEER_WRITE answers BUSY between the two calls. (The model's choices, no rules of the spec: which call an event is, by whether a
reconfiguration is between its two calls, which table a second call without one uses, and that PORT_RESTART of a port that is not DARK empties its queue and
replay buffer, log 29 (DEDUCED); an event that is not the next call does nothing, log 7.) -/
def Obligations.PortCommands : Prop :=
  ∀ (s : State) (n : BitVec 2) (p : BitVec 7) (ports : List (BitVec 7)) (table : List (BitVec 8 × BitVec 64)) (id i : BitVec 8) (v : BitVec 64),
    let m := n.toNat
    let k := p.toNat
    let l := ports.map BitVec.toNat
    let mine := fun (code : Nat) => s.runs m code = true ∧ s.host.owner = some m
    let answers := fun (a : Instr) (status : Nat) (data : List Byte) (post : State → Prop) =>
      ∃ u, exec a s = .next u ∧ Answered s u m status data ∧ post u
    let written := fun (u : State) => ∀ e ∈ table, (u.reg0 (offPeer e.1.toNat)).toNat = e.2.toNat % 256
    let first := fun (u : State) => u.host.reconfOpen = true ∧ u.host.peerTable = table.map (fun e => (e.1.toNat, e.2))
    let second := fun (u : State) => u.host.reconfOpen = false ∧
      u.host.peerTable = if table = [] then s.host.peerTable else table.map (fun e => (e.1.toNat, e.2))
    (mine 0x21 →
      (96 ≤ k → answers (.portRestart n p) 2 [] (fun u => u.ports = s.ports)) ∧
      (k < 96 → (s.port k).disabled = true → answers (.portRestart n p) 9 [] (fun u => u.ports = s.ports)) ∧
      (k < 96 → (s.port k).disabled = false → ∃ u, exec (.portRestart n p) s = .next u ∧ u.laser k = changing ∧
        (m, 0x21, [k]) ∈ u.host.waiting ∧ m ∉ u.host.goQ ∧ (s.laser k ≠ dark → (u.port k).queue = [] ∧ (u.port k).replay = []))) ∧
    (mine 0x22 →
      (s.host.reconfOpen = true → exec (.switchReconf n ports table) s = .next s) ∧
      (s.host.reconfOpen = false → exec (.switchReconfSecond n ports table) s = .next s) ∧
      (∀ q ∈ l, 96 ≤ q → (s.host.reconfOpen = false → answers (.switchReconf n ports table) 2 [] (fun u => u.ports = s.ports)) ∧
        (s.host.reconfOpen = true → answers (.switchReconfSecond n ports table) 2 [] (fun u => u.ports = s.ports))) ∧
      (l = [] → (s.host.reconfOpen = false → answers (.switchReconf n ports table) 0 [] (fun u => u.ports = s.ports ∧ first u)) ∧
        (s.host.reconfOpen = true → (table.map (·.1)).Nodup →
          answers (.switchReconfSecond n ports table) 0 [] (fun u => u.ports = s.ports ∧ written u ∧ second u))) ∧
      ((∀ q ∈ l, q < 96) → l ≠ [] → l.Nodup → (∀ e ∈ s.host.waiting, e.2.1 ≠ 0x21 ∧ e.2.1 ≠ 0x22 ∧ e.2.1 ≠ 0x122) →
        (s.host.reconfOpen = false → (∀ q ∈ l, (s.port q).down = true ∨ (s.port q).disabled = true) →
          answers (.switchReconf n ports table) 9 (l.map (fun _ => 9#8)) (fun u => ∀ q ∈ l, (u.port q).reconf = (s.port q).reconf)) ∧
        (s.host.reconfOpen = true → (∀ q ∈ l, (s.port q).reconf ≠ 2) →
          answers (.switchReconfSecond n ports table) 9 (l.map (fun _ => 9#8)) (fun u => second u ∧
            ∀ q ∈ l, (u.port q).down = true ∨ (u.port q).disabled = true))) ∧
      ((∀ q ∈ l, q < 96) → l ≠ [] → l.Nodup →
        (s.host.reconfOpen = false → ∃ u, exec (.switchReconf n ports table) s = .next u ∧ first u ∧
          (∀ q ∈ l, (s.port q).down = false → (s.port q).disabled = false → (s.port q).reconf ≠ 2 →
            (u.port q).reconf = 1 ∧ (u.reg0 (offState q)).getLsbD 5 = true ∧ (m, 0x22, l) ∈ u.host.waiting) ∧
          ∀ q, q ∉ l → (u.port q).reconf = (s.port q).reconf) ∧
        (s.host.reconfOpen = true → ∃ u, exec (.switchReconfSecond n ports table) s = .next u ∧
          (∀ q ∈ l, (s.port q).reconf = 2 → (u.port q).reconf = 3 ∧ (m, 0x122, l) ∈ u.host.waiting) ∧
          second u ∧ ∀ q, q ∉ l → (u.port q).reconf = (s.port q).reconf))) ∧
    (mine 0x28 →
      ((∀ q, q < 96 → (s.port q).down = true ∨ s.laser q = dark) → answers (.waferId n id) 0 [] (fun u => fld (u.reg0 offSelf) 0 8 = id.toNat)) ∧
      (∀ q, q < 96 → (s.port q).down = false → s.laser q ≠ dark → answers (.waferId n id) 8 [] (fun u => u.reg0 offSelf = s.reg0 offSelf))) ∧
    (mine 0x29 →
      (s.host.reconfOpen = false → answers (.peerWrite n i v) 0 [] (fun u => (u.reg0 (offPeer i.toNat)).toNat = v.toNat % 256)) ∧
      (s.host.reconfOpen = true → answers (.peerWrite n i v) 8 [] (fun u => u.reg0 (offPeer i.toNat) = s.reg0 (offPeer i.toNat))))

/-! ### The fabric -/

/-- R67, R68, R69, R71, R74, R76, R78, R80, R90 and R108: dimension order on the logical torus, X first and the shorter way round, south and
east on a tie; no hop over a failed link, but into the escape set where a detour stands. A router moves the first packet of
a buffer by one hop when the next buffer has credit, ejects it at its destination, discards a malformed one, merges two
reductions of a window's page, and lets no head of classes 1 to 3 into a tile under graft. A failed link is marked at both
ends and gets a detour, or a full remap follows. What a port has held too long completes with PEERUNREACH. (The model's choices, no rules
of the spec: the link of a hop of three columns, and how wide a skip's gap is, log 61; how a packet longer than its buffer
takes it, and which packet moves next, log 58; the tunnels of displaced tiles, log 22; an event whose condition fails does nothing, log 7.) -/
def Obligations.RouterEvents : Prop :=
  ∀ (s : State) (j : Nat) (site : BitVec 14) (l : BitVec 3) (port : BitVec 7),
    let becomes := fun (i : Instr) (post : State → Prop) => ∃ u, exec i s = .next u ∧ post u
    let here := fun (x y : Nat) => s.grounded (tileAt x y) = true
    let across := fun (x y x' y' d : Nat) (h : Hop) =>
      let a := s.siteOf (tileAt x y)
      let b := s.siteOf (tileAt x' y')
      let k := hopLink d (if logicalStep x y d = (x', y') then 1 else 2) a b
      let round := (a, k) ∈ s.detours ∨ (b, opposite k) ∈ s.detours
      (s.linkDown a k b = false → h = .move x' y' d) ∧ (s.linkDown a k b = true → round → h = .escape) ∧
      (s.linkDown a k b = true → ¬ round → h = .blocked)
    (∀ x y dx dy, x < 120 → y < 128 → dx < 120 → dy < 128 →
      let goes := fun (x' y' d : Nat) => here x' y' → across x y x' y' d (s.hop x y dx dy)
      (x = dx → y = dy → s.hop x y dx dy = .eject) ∧
      (x ≠ dx → (dx + 120 - x) % 120 ≤ 60 → goes ((x + 1) % 120) y 1) ∧
      (x ≠ dx → 60 < (dx + 120 - x) % 120 → goes ((x + 119) % 120) y 3) ∧
      (x = dx → y ≠ dy → (dy + 128 - y) % 128 ≤ 64 → goes x ((y + 1) % 128) 2) ∧
      (x = dx → y ≠ dy → 64 < (dy + 128 - y) % 128 → goes x ((y + 127) % 128) 0) ∧
      -- past one position without a tile of the row, over the skip link, else into the escape set
      (∀ d x₁ y₁ x₂ y₂, routeDir x y dx dy = some d → logicalStep x y d = (x₁, y₁) → logicalStep x₁ y₁ d = (x₂, y₂) → ¬ here x₁ y₁ →
        let over' := routeDir x₁ y₁ dx dy = some d ∧ here x₂ y₂ ∧ siteGap d (s.siteOf (tileAt x y)) (s.siteOf (tileAt x₂ y₂)) ≤ 1
        (over' → across x y x₂ y₂ d (s.hop x y dx dy)) ∧ (¬ over' → s.hop x y dx dy = .escape))) ∧
    (s.net[j]? = none → exec (.routerForward j) s = .next s) ∧
    (∀ p, s.net[j]? = some p →
      let runs := exec (.routerForward j) s
      (p.arrived = true ∨ s.behind j p = true → runs = .next s) ∧
      (p.arrived = false → s.behind j p = false →
        (p.malformed = true → p.inDir = none ∨ s.tileOn (s.standsAt p) = none → runs = .next { s with net := s.net.eraseIdx j }) ∧
        (p.malformed = true → ∀ e t, p.inDir = some e → s.tileOn (s.standsAt p) = some t → becomes (.routerForward j) (fun u =>
          u.net = s.net.eraseIdx j ∧ fld ((u.tile t).cr 0x786) (16 * (e % 4)) 16 = min 0xFFFF (fld ((s.tile t).cr 0x786) (16 * (e % 4)) 16 + 1))) ∧
        (p.malformed = false → s.strikes 963 = true → ∀ i q, s.partner j p = some (i, q) →
          s.redPage p = true ∧ i ≠ j ∧ s.net[i]? = some q ∧ s.mergeable p q = true ∧
          runs = .next { s with net := (s.net.set j (mergePackets p q)).eraseIdx i }) ∧
        (p.malformed = false → s.strikes 963 = false → s.strikes 961 = false → s.strikes 962 = false → p.esc = false →
          s.grounded p.to_ = true → s.grounded p.at_ = true →
          let stopped := fun (m : Nat) => ∃ t, s.tileOn m = some t ∧ s.grafting t = true
          let leaves := p.cls = 0 ∨ p.inDir ≠ none ∨ ¬ stopped (s.siteOf p.at_)
          (¬ leaves → runs = .next s) ∧
          (p.at_ = p.to_ → leaves → ∀ t, p.dst = .tile t → runs = .next (s.advance j { p with arrived := true })) ∧
          (p.at_ ≠ p.to_ → s.hop p.px p.py (tileX p.to_) (tileY p.to_) = .blocked → runs = .next s) ∧
          (p.at_ ≠ p.to_ → s.hop p.px p.py (tileX p.to_) (tileY p.to_) = .escape → s.siteOf p.at_ < 16384 → leaves →
            runs = .next (if s.hasCredit j (s.escaping p none) = true then s.advance j (s.escaping p none) else s)) ∧
          (p.at_ ≠ p.to_ → ∀ x y e, s.hop p.px p.py (tileX p.to_) (tileY p.to_) = .move x y e →
            let there := s.siteOf (tileAt x y)
            let l := s.entryLink p.px p.py e x y
            let turns := e % 2 = 0 ∧ ∃ m, p.inDir = some m ∧ m % 2 = 1
            let q := { p with px := x, py := y, inDir := some l, set1 := (p.set1 && !decide turns) || wraps p.px p.py x y e }
            (p.cls = 0 ∨ (leaves ∧ (there = s.siteOf p.at_ ∨ ¬ stopped there)) →
              runs = .next (if s.hasCredit j q = true then s.advance j q else s)) ∧
            (1 ≤ p.cls → there ≠ s.siteOf p.at_ → stopped there → runs = .next s))))) ∧
    (let n := site.toNat
     let e := l.toNat
     becomes (.linkFail site l) (fun u =>
       (u.site n).links.getLsbD e = true ∧ (∀ m, s.farSite n e = some m → (u.site m).links.getLsbD (opposite e) = true) ∧
       (∀ k, (u.site k).usable = (s.site k).usable) ∧ u.map = s.map ∧
       ((u.detours = s.detours ++ s.linkEnds n e ∧ u.allReachable = true) ∨ (u.detours = s.detours ∧ u.remapDue = true)))) ∧
    (port.toNat < 96 → let k := port.toNat
      (s.holding k = false → exec (.heldPacketTimeout port) s = .next s) ∧
      (s.holding k = true → becomes (.heldPacketTimeout port) (fun u => (u.port k).queue = [] ∧
        (u.port k).acks = (s.port k).acks ++ (s.port k).queue.flatMap (fun q => ((q.pkt.bind (·.stamp)).map Stamp.tickets).getD []) ∧
        u.net = s.net ++ (s.port k).queue.flatMap (fun q => match q.via, q.pkt with
          | none, some r => s.responses (.port k) r 8 [] none []
          | _, _ => []))))

/-- R92, R96 to R104, R110 to R112, R115: blocks of 64 tickets, their return and recall, for tiles, ports' ingress and BAR 4 paths;
acknowledgement flits; the stable point, which moves over marked tickets only; its post, the broadcast and the copies,
which only move forward; the overflow buffer; the stall, which a resynchronisation follows. A flit carries the first tickets of one field, in
the order in which they came: the run of consecutive ones at the head, up to 64 of them, or else 24. (The model's choices, no rules of the
spec: that the flit goes to the field of the oldest ticket, and that at most five broadcasts are on their way, log 20; the agents that are
no tile, log 21; the copy by which an overflow buffer judges, log 19; that a stall has a resynchronisation follow, log 36; an event whose
condition fails does nothing, log 7.) -/
def Obligations.CausalEvents : Prop :=
  ∀ (s : State) (f : BitVec 6) (t : BitVec 14), t.toNat < 15360 →
    let n := f.toNat
    let k := t.toNat
    let F := s.field n
    let T := s.tile k
    let h := s.tileField k
    let becomes := fun (i : Instr) (post : State → Prop) => ∃ u, exec i s = .next u ∧ post u
    let far := 32767 < (F.next + 63#16 - F.stable).toNat
    let back := T.acks ++ ticketRange h T.blockNext T.blockLeft ++ (match T.blockNext2 with | some b => ticketRange h b 64 | none => [])
    (F.blockQ = [] → exec (.blockIssue f) s = .next s) ∧
    (∀ a l, F.blockQ = a :: l →
      (far → ∃ w, exec (.blockIssue f) s = .next (s.setReg0 (offCau n) w) ∧ w.getLsbD 33 = true) ∧
      (¬ far →
        let issued := fun (v : State) => (v.field n).next = F.next + 64#16 ∧ (v.field n).blockQ = l ∧
          (v.field n).blocks = F.blocks ++ [(a, F.next)] ∧ (v.field n).stable = F.stable ∧ (v.reg0 (offCau n)).getLsbD 33 = false
        (∀ m, a = .tile m → s.tileField m = n → s.grafting m = false → ∃ v : State, exec (.blockIssue f) s = .next (v.drain m) ∧ issued v ∧
          ((s.tile m).blockLeft = 0 → (v.tile m).blockNext = F.next ∧ (v.tile m).blockLeft = 64) ∧
          ((s.tile m).blockLeft ≠ 0 → (v.tile m).blockNext2 = some F.next ∧ (v.tile m).blockLeft = (s.tile m).blockLeft)) ∧
        (∀ m, a = .port m → ∃ v : State, exec (.blockIssue f) s = .next (v.enterWaiting m) ∧ issued v ∧ (v.port m).ing = (s.port m).ing.grant F.next) ∧
        (∀ m, a = .pcie m → ∃ v : State, exec (.blockIssue f) s = .next (v.enterBar4 m) ∧ issued v ∧
          (v.field (linkField m)).b4 = (s.field (linkField m)).b4.grant F.next))) ∧
    (∃ T' : Tile, exec (.ticketIdleReturn (.tile k)) s = .next (s.setTile k T') ∧ T'.blockLeft = 0 ∧ T'.blockNext2 = none ∧ T'.acks = back ∧ T'.pad = T.pad) ∧
    (∀ a, (∃ p, p < 96 ∧ a = .port p) ∨ (∃ m, m < 4 ∧ a = .pcie m) →
      let x := s.ticketAgent a
      let g := s.agentField a
      let given := fun (u : State) => (u.ticketAgent a).left = 0 ∧ (u.ticketAgent a).next2 = none ∧ u.tiles = s.tiles ∧
        u.acksOf a = s.acksOf a ++ ticketRange g x.next x.left ++ (match x.next2 with | some b => ticketRange g b 64 | none => [])
      becomes (.ticketIdleReturn a) given ∧
      (a ∈ (s.field g).recalled → becomes (.recallAnswer a) (fun u => given u ∧ a ∉ (u.field g).recalled)) ∧
      (a ∉ (s.field g).recalled → exec (.recallAnswer a) s = .next s)) ∧
    (∀ a, becomes (.sequencerRecall f a) (fun u => u.tiles = s.tiles ∧ (u.field n).next = F.next ∧ (u.field n).stable = F.stable ∧
      ∀ b, b ∈ (u.field n).recalled ↔ b ∈ F.recalled ∨ (b = a ∧ ∃ e ∈ F.blocks, e.1 = a ∧ F.acked e.2 64 = false ∧
        F.acked (e.2 + 64#16) (F.next - (e.2 + 64#16)).toNat = true))) ∧
    (.tile k ∈ (s.field h).recalled → s.grafting k = false → becomes (.recallAnswer (.tile k)) (fun u => (u.tile k).blockLeft = 0 ∧
      (u.tile k).acks = back ∧ Agent.tile k ∉ (u.field h).recalled)) ∧
    (.tile k ∉ (s.field h).recalled ∨ s.grafting k = true → exec (.recallAnswer (.tile k)) s = .next s) ∧
    (∀ q l, 1 ≤ runOf (q :: l) ∧ (∀ i, i < runOf (q :: l) → (q :: l)[i]? = some ⟨q.f, q.t + BitVec.ofNat 16 i⟩) ∧
      (q :: l)[runOf (q :: l)]? ≠ some ⟨q.f, q.t + BitVec.ofNat 16 (runOf (q :: l))⟩) ∧
    (∀ a, (s.acksOf a = [] → exec (.ackFlitSend a) s = .next s) ∧ ∀ q l, s.acksOf a = q :: l → becomes (.ackFlitSend a) (fun u =>
      let ts := (((q :: l).filter (fun e => e.f == q.f)).map (·.t)).take (max 24 (min 64 (runOf (q :: l))))
      (u.field q.f).ackIn = (s.field q.f).ackIn ++ [ts] ∧ (ts.map (Pair.mk q.f) ++ u.acksOf a).Perm (s.acksOf a) ∧
      (u.acksOf a).Sublist (s.acksOf a))) ∧
    (F.ackIn = [] → exec (.ackReceive f) s = .next s) ∧
    (∀ ts l, F.ackIn = ts :: l → becomes (.ackReceive f) (fun u => let F' := u.field n
      F'.ackIn = l ∧ (∀ i, ({ u.tile i with drawn := (s.tile i).drawn } : Tile) = s.tile i) ∧
      if F.removed = true then F'.stable = F.stable ∧ F'.marked = F.marked
      else ∃ m : Nat, F'.stable = F.stable + BitVec.ofNat 16 m ∧ F.stable + BitVec.ofNat 16 (m + 1) ∉ F'.marked ∧
        (∀ i, 1 ≤ i → i ≤ m → F.stable + BitVec.ofNat 16 i ∈ F.marked ++ ts) ∧
        ∀ x, x ∈ F.marked ∨ (x ∈ ts ∧ exceeds x F.stable = true) → x ∈ F'.marked ∨ ∃ i, 1 ≤ i ∧ i ≤ m ∧ x = F.stable + BitVec.ofNat 16 i)) ∧
    becomes (.stablePost f) (fun u => (u.field n).posted = (if F.removed = true then F.posted else F.stable) ∧ (u.field n).stable = F.stable ∧
      (u.field n).b4 = (if F.removed = true ∨ exceeds F.b4.v F.stable = true then F.b4 else { F.b4 with v := F.stable }) ∧
      u.tiles = s.tiles ∧ ∀ p, p < 96 → portField p = n →
        let v := (s.port p).ing.v
        (u.port p).ing = { (s.port p).ing with v := if exceeds v (u.field n).posted = true then v else (u.field n).posted }) ∧
    becomes .trellisBroadcast (fun u => u.gcasts = (u.gvec :: s.gcasts).take 5 ∧ u.tiles = s.tiles ∧
      ∀ i, i < 64 → mget (0xFFFF#16, false) u.gvec i = ((s.field i).posted, (s.field i).removed)) ∧
    (∀ a, s.gcasts = [] → exec (.gUpdate a) s = .next s) ∧
    (s.gcasts ≠ [] → let G := s.gcasts.getD (s.chosen 700 % max 1 s.gcasts.length) []
      let at' := fun (i : Nat) => mget (0xFFFF#16, false) G i
      let later := fun (old new : Ticket) => if exceeds new old = true then new else old
      (s.grafting k = true → ∃ H, exec (.gUpdate (.tile k)) s = .next (s.modTile k (fun T => { T with heldG := some H })) ∧ ∀ i, i < 64 →
        let old := mget (0xFFFF#16, false) (T.heldG.getD []) i
        mget (0xFFFF#16, false) H i = (later old.1 (at' i).1, old.2 || (at' i).2)) ∧
      (s.grafting k = false → ∃ v : State, exec (.gUpdate (.tile k)) s = .next ((v.releaseTile k).drain k) ∧ (v.tile k).pad = T.pad ∧ ∀ i, i < 64 →
        let g := later (T.gcopy i) (at' i).1
        (v.tile k).gcopy i = g ∧ (v.tile k).removed i = (T.removed i || (at' i).2) ∧
        (v.tile k).vec i = if exceeds (T.vec i) g = true then T.vec i else g) ∧
      (∀ p, p < 48 → becomes (.gUpdate (.cellar p)) (fun u => (u.stack p).mem = (s.stack p).mem ∧ ∀ i, i < 64 →
        (u.stack p).gAt i = (later ((s.stack p).gAt i).1 (at' i).1, ((s.stack p).gAt i).2 || (at' i).2))) ∧
      becomes (.gUpdate (.overflow n)) (fun u => u.tiles = s.tiles ∧ ∀ i, i < 64 →
        (u.field n).gAt i = (later (F.gAt i).1 (at' i).1, (F.gAt i).2 || (at' i).2))) ∧
    (firstMet F.gAt F.ovf 0 = none → exec (.overflowReturn f) s = .next s) ∧
    (∀ i p lost, firstMet F.gAt F.ovf 0 = some (i, p, lost) → becomes (.overflowReturn f) (fun u => (u.field n).ovf = F.ovf.eraseIdx i ∧
      ∃ q : Packet, u.net = s.net ++ [q] ∧ q.met = true ∧ q.lost = lost ∧ q.arrived = false ∧ q.dst = p.dst ∧
        q.body = p.body ∧ q.stamp = p.stamp)) ∧
    ((s.readCau n).getLsbD 52 = true ↔ s.backPressed n = true) ∧
    (let l := s.heldPackets n
     (l = [] → exec (.causalStall f) s = .next s) ∧
     ∀ p g, l[s.chosen 951 % max 1 l.length]? = some (p, g) →
       (unmetPair g p.stamp = none → exec (.causalStall f) s = .next s) ∧
       ∀ q, unmetPair g p.stamp = some q → ∃ v : State,
         exec (.causalStall f) s = .next { v.report 10 n 0 ((s.mapEntry (s.agentTile p.dst)).site.getD 0) with resyncDue := true } ∧
         (v.reg0 (offCau n)).getLsbD 53 = true ∧ (v.field n).stalled = some (p.dst, q) ∧ v.net = s.net ∧ v.tiles = s.tiles)

/-- R84 to R88, R100, R104, R109, R110, R116, R118 and R429: a channel payload that has arrived is written at the receiver's own wp when its
dependences are met, waits in the early buffer when not, is discarded when it is stale or strays; one with a lost pair is delivered, counted
and marked; once written it is
acknowledged and is handed to its context or kept; a window return goes to the peer and never lifts the window past its
size. (The model's choices, no rules of the spec: what a loss delivery marks, log 18; that the verdict of an overflow buffer stands, and the
order of its early buffer, log 19; an event whose condition fails does nothing, log 7.) -/
def Obligations.ChannelEvents : Prop :=
  ∀ (s : State) (j : Nat) (t : BitVec 14) (ch : BitVec 6), t.toNat < 15360 →
    let n := t.toNat
    let c := ch.toNat
    let becomes := fun (i : Instr) (post : State → Prop) => ∃ u, exec i s = .next u ∧ post u
    let counts := fun (T T' : Tile) (m : Nat) => fld (T'.cst m) 55 8 = min 255 (fld (T.cst m) 55 8 + 1)
    (∀ (p : Packet) k m data, s.net[j]? = some p → p.dst = .tile k → p.body = .payload m data →
      let runs := exec (.channelPayloadArrival j) s
      let T := s.tile k
      (p.arrived = false → runs = .next s) ∧
      (p.arrived = true → T.plot.isSome = true → T.released = false → runs = .next s) ∧
      (p.arrived = true → (T.plot = none ∨ T.released = true) →
        (s.fresh p = false → becomes (.channelPayloadArrival j) (fun u => u.net = s.net.eraseIdx j ∧ (u.tile k).pad = T.pad ∧
          fld ((u.tile k).cr 0x640) 45 8 = min 255 (fld (T.cr 0x640) 45 8 + 1))) ∧
        (s.fresh p = true → T.ebuf = [] →
          let v := p.verdict T.gAt
          (∀ q, p.lost = some q → v = .lost q) ∧ (∀ q, p.lost = none → judge T.gAt p.stamp = .lost q → v = .lost q) ∧
          (p.lost = none → (p.met = true ∧ judge T.gAt p.stamp = .unmet) ∨ judge T.gAt p.stamp = .met → v = .met) ∧
          (p.lost = none → p.met = false → judge T.gAt p.stamp = .unmet → v = .unmet) ∧
          (v = .unmet → roomFor [] p 32 128 = true → becomes (.channelPayloadArrival j) (fun u =>
            u.net = s.net.eraseIdx j ∧ (u.tile k).ebuf = [p] ∧ (u.tile k).pad = T.pad)) ∧
          (v ≠ .unmet → T.accepts m 2 p.sx p.sy = false → becomes (.channelPayloadArrival j) (fun u => u.net = s.net.eraseIdx j ∧
            (u.tile k).pad = T.pad ∧ counts T (u.tile k) m)) ∧
          (v ≠ .unmet → T.accepts m 2 p.sx p.sy = true → T.rxFree = false → runs = .next s) ∧
          (∀ lost : Option Pair, (lost = none → v = .met) → (∀ q, lost = some q → v = .lost q) →
            T.accepts m 2 p.sx p.sy = true → T.rxFree = true →
            let wp := fld (T.cst m) 0 16
            let lines := linesOf data.length
            let skip := skipOf (T.cfg m) wp lines
            let a := (fld (T.cfg m) 22 16 + (wp + skip) % chSize (T.cfg m)) * 64
            becomes (.channelPayloadArrival j) (fun u => let T' := u.tile k
              u.net = s.net.eraseIdx j ∧ (∀ i, i < data.length → mget 0#8 T'.pad (a + i) = (data.getD i (0#8, false)).1) ∧
              (∀ b, (b < a ∨ a + data.length ≤ b) → mget 0#8 T'.pad b = mget 0#8 T.pad b) ∧
              fld (T'.cst m) 0 16 = (wp + skip + lines) % (2 * chSize (T.cfg m)) ∧ (T'.chan m).writing.length = (T.chan m).writing.length + 1 ∧
              ((T'.chan m).writing.getLast?.bind (·.lost)) = lost ∧
              fld (T'.cr 0x640) 53 8 = (if lost = none then fld (T.cr 0x640) 53 8 else min 255 (fld (T.cr 0x640) 53 8 + 1)) ∧
              T'.acks = T.acks ∧ T'.ctxs = T.ctxs))))) ∧
    (let T := s.tile n
     ((T.chan c).writing = [] → exec (.payloadFullyWritten t ch) s = .next s) ∧
     (∀ p l, (T.chan c).writing = p :: l → T.ebuf = [] →
       let x := fld (T.arm c) 14 2
       let acked := fun (u : State) => (u.tile n).acks = T.acks ++ p.stamp.tickets ∧ ((u.tile n).chan c).writing = l ∧ (u.tile n).pad = T.pad
       ((T.arm c).getLsbD 16 = false → becomes (.payloadFullyWritten t ch) (fun u => acked u ∧
         ((u.tile n).chan c).ready = (T.chan c).ready ++ [p] ∧ (u.tile n).ctxs = T.ctxs)) ∧
       ((T.arm c).getLsbD 16 = true → (T.ctx x).st = dormant → T.stopped = false → p.lost = none → becomes (.payloadFullyWritten t ch) (fun u => acked u ∧
         let C := u.ctx n x
         C.st = ready ∧ C.pc = fld (T.arm c) 0 14 ∧ C.sMode = false ∧ mget {} C.regs (gKey 1) = gval (BitVec.ofNat 64 p.addr) false ∧
         mget {} C.regs (gKey 2) = gval (BitVec.ofNat 64 p.len) false ∧ mget {} C.regs (gKey 3) = gval (BitVec.ofNat 64 c) false ∧
         mget {} C.regs (gKey 4) = gval (BitVec.ofNat 64 p.src) false)) ∧
       ((T.arm c).getLsbD 16 = true → (T.ctx x).st ≠ dormant ∨ T.stopped = true → becomes (.payloadFullyWritten t ch) (fun u => acked u ∧
         (u.ctx n x).arrivals.length = (T.ctx x).arrivals.length + 1 ∧ (u.ctx n x).regs = (T.ctx x).regs))) ∧
     (s.grafting n = true ∨ (T.chan c).ret = none → exec (.windowReturnSend t ch) s = .next s) ∧
     (∀ lines pkts, s.grafting n = false → (T.chan c).ret = some (lines, pkts) → becomes (.windowReturnSend t ch) (fun u =>
       ((u.tile n).chan c).ret = none ∧ (u.tile n).pad = T.pad ∧ ∃ q : Packet, u.net = s.net ++ [q] ∧ q.cls = 1 ∧ q.stamp = none ∧
         q.dst = .tile (tileAt (fld (T.cfg c) 2 7) (fld (T.cfg c) 9 7)) ∧ q.body = .winret (fld (T.cfg c) 16 6) lines pkts))) ∧
    (∀ (p : Packet) k m lines pkts, s.net[j]? = some p → p.dst = .tile k → p.body = .winret m lines pkts →
      let T := s.tile k
      (p.arrived = false → exec (.windowReturnReceive j) s = .next s) ∧
      (p.arrived = true → becomes (.windowReturnReceive j) (fun u => let w := (u.tile k).cst m
        u.net = s.net.eraseIdx j ∧ (u.tile k).pad = T.pad ∧
        if T.accepts m 1 p.sx p.sy = true then fld w 32 16 = min (chSize (T.cfg m)) (fld (T.cst m) 32 16 + lines) ∧
          fld w 48 5 = min 16 (fld (T.cst m) 48 5 + pkts)
        else counts T (u.tile k) m)))

/-- R56, R100, R106, R107, R123, R125, R126, R274, R412 to R416: the engines' requests and their responses. A command with nothing before
it sends its next piece, a read with the tile's pending entries and a write with its ticket as well; at most 256 requests
are outstanding. A good response of a read is written into the pad, a bad one keeps the lowest element and its status. The
reply of an atomic on a peer enters the completion queue unless that is full. The head of the emission order leaves with
its ticket and its stamp. (The model's choices, no rules of the spec: a completion queue whose next entry is still in use waits like a full one,
log 57; a flushing read at SYS, log 17; an event whose condition fails does nothing, log 7.) -/
def Obligations.EngineEvents : Prop :=
  ∀ (s : State) (j : Nat) (t : BitVec 14), t.toNat < 15360 →
    let n := t.toNat
    let T := s.tile n
    let h := s.tileField n
    let outstanding := T.cmds.foldl (fun k m => k + m.out) 0
    let becomes := fun (i : Instr) (post : State → Prop) => ∃ u, exec i s = .next u ∧ post u
    let ready := T.pending.length ≤ 3 ∧ 16 < T.blockLeft ∧ T.staleTickets h = 0 ∧ h < 64
    let stamped := fun (st : Option Stamp) (u : Tile) =>
      st = some { own := some ⟨h, T.blockNext⟩, deps := T.pending, vint := s.vint, null := T.nullPair h } ∧
      u.blockLeft + 1 = T.blockLeft ∧ u.vec h = wmax (T.vec h) T.blockNext
    (T.frozen = true → exec (.lineRequestEmit t) s = .next s) ∧
    (T.frozen = false → 256 ≤ outstanding → exec (.lineRequestEmit t) s = .next (s.flushRelease n)) ∧
    (∀ m a, T.frozen = false → T.cmds = [m] → m.out < 256 → m.next ≠ m.elems → m.begun = true → m.ghost = false →
      s.addressee n m.setDefs m.piece.va = .inr a →
      let sent := fun (post : Packet → Tile → Prop) => ∃ v : State, exec (.lineRequestEmit t) s = .next (v.drain n) ∧ ∃ q : Packet,
        v.net = s.net ++ [q] ∧ q.dst = a ∧ q.src = .tile n ∧ q.cls = 2 ∧ (v.tile n).pad = T.pad ∧
        (v.tile n).cmds = [{ m.advance m.piece.len with out := m.out + 1, swait := false }] ∧
        (∃ head data, q.body = .request head data m.ctx m.token m.piece.elem m.piece.pad ∧ head.va.toNat = m.piece.va ∧
          head.len.toNat = min m.piece.len 64 - 1 ∧ head.op.toNat = m.op % 16 ∧ head.tag.toNat = T.nextTag % 1024 ∧
          (m.op = 0 ∨ m.op = 4 → data = []) ∧ (m.op = 1 → data = T.padBytes m.piece.pad (min m.piece.len 64))) ∧ post q (v.tile n)
      (m.op = 0 ∨ m.op = 4 → T.pending.length ≤ 4 → sent (fun q _ => q.stamp = some { own := none, deps := T.pending, vint := s.vint, null := T.nullPair h })) ∧
      (∀ e, m.op = 1 → T.emitq = [e] → e.cmd = some m.token → e.ctx = m.ctx → ready → sent (fun q T' => stamped q.stamp T'))) ∧
    (T.frozen = true → exec (.stampWaitRelease t) s = .next s) ∧
    (T.frozen = false → (∀ m ∈ T.cmds, m.swait = false) → exec (.stampWaitRelease t) s = .next (s.drain n)) ∧
    (T.frozen = false → (∃ m ∈ T.cmds, m.swait = true) → outstanding < 256 → s.flushRelease n = s →
      exec (.stampWaitRelease t) s = exec (.lineRequestEmit t) s) ∧
    (∀ e, T.frozen = false → T.emitq = [e] → T.pass.held = [] → e.place = false → e.nest = none → e.acq = false → e.rel = false → e.ch < 64 → ready →
      let u := s.drain n
      (u.tile n).emitq = [] ∧ (u.tile n).pad = T.pad ∧ ∃ q : Packet, u.net = s.net ++ [q] ∧ q.dst = .tile e.dst ∧ q.cls = 1 ∧
        q.body = .payload e.pch (e.data.getD (T.padBytes e.addr e.len)) ∧ stamped q.stamp (u.tile n)) ∧
    (∀ (p : Packet) k tag status data lost x token elem pad m, s.net[j]? = some p → p.dst = .tile k →
      p.body = .response tag status data lost x token elem pad → (s.tile k).cmd x token = some m →
      (p.arrived = false ∨ m.peerAtom = true ∧ s.fresh p = true → exec (.externalResponse j) s = .next s) ∧
      (p.arrived = true → s.fresh p = true → m.peerAtom = false → m.ghost = false → ∃ v : State,
        exec (.externalResponse j) s = .next (v.drain k) ∧ v.net = s.net.eraseIdx j ∧ let T' := v.tile k
        (∃ m', T'.cmd x token = some m' ∧ m'.out = m.out - 1 ∧ m'.next = m.next ∧
          m'.bad = (if status = 0 then m.bad else match m.bad with
            | none => some (elem, pad, status)
            | some b => if elem < b.1 ∨ (elem = b.1 ∧ pad < b.2.1) then some (elem, pad, status) else some b)) ∧
        (status = 0 → m.op = 0 → (∀ w ∈ m.wrote, w.1 ≤ elem) → ∀ i, i < data.length → mget 0#8 T'.pad (pad + i) = (data.getD i (0#8, false)).1) ∧
        ((status ≠ 0 ∨ m.writesPad = false) → T'.pad = (s.tile k).pad))) ∧
    (∀ (p : Packet) tag status data lost x token elem pad m, s.net[j]? = some p → p.arrived = true → p.dst = .tile n →
      p.body = .response tag status data lost x token elem pad → T.cmd x token = some m → m.peerAtom = true → s.fresh p = true →
      (∀ i q, i < j → s.net[i]? = some q → q.arrived = false ∨ q.dst ≠ .tile n) →
      let a := T.cqAddr T.cqHead
      let taken := T.cqSize ≤ T.cq.length ∨ ∃ e ∈ T.cq, e.slot = T.cqHead
      let full := taken ∨ 4 ≤ (T.trk.filter (fun e => 28 ≤ e.n)).length
      (taken → ∃ T' : Tile, exec (.cqEntry t) s = .next (s.setTile n T') ∧ (T'.cr 0x482).getLsbD 13 = true ∧ T'.pad = T.pad ∧
        T'.cq = T.cq) ∧
      (full → ¬ taken → exec (.cqEntry t) s = .next s) ∧
      (¬ full → fld (T.cr 0x481) 20 2 = 0 → m.op = 3 → m.ghost = false → status = 0 → (∀ w ∈ m.wrote, w.1 ≤ elem) → becomes (.cqEntry t) (fun u => let T' := u.tile n
        u.net = s.net.eraseIdx j ∧ T'.cq = T.cq ∧ T'.cqHead = (T.cqHead + 1) % T.cqSize ∧ (T'.cr 0x482).getLsbD 13 = false ∧
        ∀ i, i < data.length → mget 0#8 T'.pad (pad + i) = (data.getD i (0#8, false)).1)) ∧
      (¬ full → fld (T.cr 0x481) 20 2 ≠ 0 → (m.next ≠ m.elems ∨ 1 < m.out) → becomes (.cqEntry t) (fun u => let T' := u.tile n
        u.net = s.net.eraseIdx j ∧ T'.cqHead = (T.cqHead + 1) % T.cqSize ∧ T'.ctxs = T.ctxs ∧
        T'.cq = T.cq ++ [{ slot := T.cqHead, old := oldValue data, elem := elem, token := m.token, ctx := m.ctx, status := status, pad := pad }] ∧
        readBytes T'.pad a 8 = (oldValue data).toNat ∧ readBytes T'.pad (a + 8) 4 = elem % 2 ^ 32))) ∧
    ((∀ q ∈ s.net, q.arrived = false ∨ q.dst ≠ .tile n) → exec (.cqEntry t) s = .next s)

/-! ### Optical ports -/

/-- R51 to R53, R59, R61 to R63, R65, R66 and R430: a flit that is bad or out of order is answered once with NAK of the last good number,
or with NARROW by a port that has lost a lane; one in order enters the ingress buffer, and an earlier one is dropped;
acknowledged flits leave the replay buffer and a NAK sends the others again. ALLOW never lifts an allowance past 2,048. One
failed wavelength takes the idle spare, any other failure narrows the port; NARROW sets the width that both ends share, and
one without a lane takes the port down; flow resumes once both ends have sent RESUME. (The model's choices, no rules of the spec: a failure
while the port narrows begins that anew, log 64; how often a NAK is sent, a DRAIN outside a dimming or a reconfiguration, how a resend counts and the
laser of a port that goes down, log 57; an event whose condition fails does nothing, log 7.) -/
def Obligations.LinkEvents : Prop :=
  ∀ (s : State) (p : BitVec 7) (flit : LinkFlit) (q : BitVec 13) (cls : BitVec 2) (units : BitVec 13) (wl : BitVec 4) (also : BitVec 9) (mask : BitVec 4),
    p.toNat < 96 →
    let n := p.toNat
    let P := s.port n
    let becomes := fun (i : Instr) (post : State → Prop) => ∃ u, exec i s = .next u ∧ post u
    let pumps := fun (i : Instr) (post : State → Prop) => ∃ v : State, exec i s = .next (v.pump n) ∧ post v
    let drops := fun (i : Instr) => ∃ v : State, exec i s = .next (v.report 11 n 0 0) ∧ (v.port n).down = true ∧ (v.port n).queue = [] ∧
      (v.port n).replay = [] ∧ v.laser n = dark ∧ v.width n = 3
    let tells := fun (u : State) (c : LinkCtl) => (u.port n).sent = P.sent ++ [.control P.ack c]
    let again := fun (l : List DataFlit) => l.map (fun d => LinkOut.data (P.form d))
    let cut := fun (u : State) (a : BitVec 13) => match P.replay.findIdx? (fun d => d.seq == a) with
      | some k => (u.port n).replay = P.replay.drop (k + 1) ∧ fld (u.reg0 (offState n)) 18 13 = a.toNat
      | none => (u.port n).replay = P.replay ∧ fld (u.reg0 (offState n)) 18 13 = fld (s.reg0 (offState n)) 18 13
    let narrowed := fun (u : State) => (u.port n).narrowing = true ∧ (u.port n).farMask = none ∧ (u.port n).myMask = u.laneMask n ∧
      tells u (.narrow (u.laneMask n))
    let missed := fun (gap : Bool) (u : State) => (u.port n).rxNext = P.rxNext ∧ (u.port n).ingress = P.ingress ∧
      if P.narrowing = true ∨ P.training = true ∨ (gap = true ∧ P.nakked = true) then (u.port n).sent = P.sent
      else if s.laneBroken n = true then narrowed u else tells u (.nak P.ack) ∧ (u.port n).nakked = true
    (P.down = true → exec (.linkFlitReceive p flit) s = .next s ∧ exec (.narrowReceive p mask) s = .next s) ∧
    (P.down = false → flitBad flit = true → becomes (.linkFlitReceive p flit) (fun u => missed false u ∧ (u.port n).replay = P.replay)) ∧
    (P.down = false → flitBad flit = false →
      (flit.kind ≠ 0#3 → flit.kind ≠ 3#3 → pumps (.linkFlitReceive p flit) (fun v => cut v flit.ack ∧ (v.port n).rxNext = P.rxNext)) ∧
      (flit.kind = 3#3 → pumps (.linkFlitReceive p flit) (fun v => cut v flit.ack ∧ (v.port n).rxNext = P.rxNext ∧
        (P.reconf = 1 → (v.port n).farDrain = true ∧ (v.port n).sent = P.sent) ∧
        (P.reconf ≠ 1 → P.dimming = true → v.laser n = bud ∧ (v.port n).dimming = false ∧ (v.port n).sent = P.sent) ∧
        (P.reconf ≠ 1 → P.dimming = false → tells v .drain ∧ v.laser n = s.laser n))) ∧
      (flit.kind = 0#3 → flit.seq = P.rxNext → pumps (.linkFlitReceive p flit) (fun v => cut v flit.ack ∧ (v.port n).rxNext = P.rxNext + 1 ∧
        (v.port n).nakked = false ∧ (v.port n).ingress = P.ingress ++
          [{ seq := flit.seq, cls := flit.cls, last := flit.last, payload := flit.payload, poison := flit.poison }])) ∧
      (flit.kind = 0#3 → flit.seq ≠ P.rxNext → (P.rxNext - flit.seq).toNat ≤ 4096 → becomes (.linkFlitReceive p flit) (fun u =>
        (u.port n).rxNext = P.rxNext ∧ (u.port n).sent = P.sent ∧ (u.port n).ingress = P.ingress ∧ cut u flit.ack)) ∧
      (flit.kind = 0#3 → 4096 < (P.rxNext - flit.seq).toNat → becomes (.linkFlitReceive p flit) (fun u => missed true u ∧ cut u flit.ack))) ∧
    becomes (.nakReceive p q) (fun u => let P' := u.port n
      cut u q ∧ P'.queue = P.queue ∧
      (s.canSend n = true → P'.replay ≠ [] → P'.sent = P.sent ++ again P'.replay ∧
        fld (u.reg0 (offOptLink n)) 0 16 = min 0xFFFF (fld (s.reg0 (offOptLink n)) 0 16 + 1)) ∧
      (s.canSend n = false ∨ P'.replay = [] → P'.sent = P.sent ∧ u.reg0 (offOptLink n) = s.reg0 (offOptLink n))) ∧
    becomes (.idleSend p) (fun u => tells u .idle ∧ (u.port n).replay = P.replay ∧ (u.port n).allow2 = P.allow2) ∧
    pumps (.allowReceive p cls units) (fun v => (v.port n).replay = P.replay ∧
      (v.port n).allow2 = (if cls = 2#2 then min 2048 (P.allow2 + units.toNat) else P.allow2) ∧
      (v.port n).allow3 = if cls = 3#2 then min 2048 (P.allow3 + units.toNat) else P.allow3) ∧
    (let ws := also ||| 1#9 <<< wl.toNat
     let l := s.newlyFailed n ws
     let marked := fun (u : State) => ∀ w ∈ l, u.wlFailed n w = true
     let kept := fun (u : State) => u.spareFor n = s.spareFor n
     (s.laser n ≠ bloom → s.laser n ≠ bud → exec (.wavelengthFail p wl also) s = .next s) ∧
     (s.laser n = bud → becomes (.wavelengthFail p wl also) (fun u => marked u ∧ kept u ∧ (u.port n).sent = P.sent ∧
       ∀ w, w < 9 → (u.port n).lostInBud.getLsbD w = (P.lostInBud.getLsbD w || l.contains w))) ∧
     (s.laser n = bloom →
       (l = [] → exec (.wavelengthFail p wl also) s = .next s) ∧
       (l = [8] → s.spareFor n = 15 → becomes (.wavelengthFail p wl also) (fun u => marked u ∧ kept u ∧ u.ports = s.ports)) ∧
       (∀ w, l = [w] → w < 8 → s.spareFor n = 15 → s.wlFailed n 8 = false → P.narrowing = false → becomes (.wavelengthFail p wl also) (fun u =>
         marked u ∧ u.spareFor n = w ∧ u.wlWorks n w = true ∧ (u.port n).training = true ∧ (u.port n).sent = P.sent)) ∧
       ((∃ w ∈ l, w < 8 ∧ (l ≠ [w] ∨ s.spareFor n ≠ 15 ∨ s.wlFailed n 8 = true ∨ P.narrowing = true)) ∨ (l = [8] ∧ s.spareFor n ≠ 15) →
         becomes (.wavelengthFail p wl also) (fun u => marked u ∧ kept u ∧ narrowed u)))) ∧
    (P.down = false →
      let own := P.narrowing = true ∧ P.farMask = none
      let W := widthOf ((if own then P.myMask else s.laneMask n) &&& mask)
      (W.1 = 3 → drops (.narrowReceive p mask)) ∧
      (W.1 ≠ 3 → becomes (.narrowReceive p mask) (fun u => u.width n = W.1 ∧ fld (u.reg0 (offState n)) 6 4 = W.2 ∧ (u.port n).narrowing = true ∧
        (u.port n).farMask = some mask ∧ (own → (u.port n).sent = P.sent) ∧ (¬ own → tells u (.narrow (s.laneMask n))) ∧
        fld (u.reg0 (offOptLink n)) 16 8 = if s.width n < W.1 then min 255 (fld (s.reg0 (offOptLink n)) 16 8 + 1)
          else fld (s.reg0 (offOptLink n)) 16 8))) ∧
    (P.narrowing = true →
      (P.farMask = none → exec (.narrowRestriped p) s = .next s ∧ drops (.narrowTimeout p)) ∧
      (P.farMask ≠ none → exec (.narrowTimeout p) s = .next s ∧
        (P.resumed = true → exec (.narrowRestriped p) s = .next s) ∧
        (P.resumed = false → P.farResumed = false → becomes (.narrowRestriped p) (fun u => tells u .resume ∧ (u.port n).resumed = true ∧
          (u.port n).narrowing = true)) ∧
        (P.resumed = false → P.farResumed = true → pumps (.narrowRestriped p) (fun v => (v.port n).narrowing = false ∧
          (v.port n).sent = P.sent ++ [.control P.ack .resume] ++ again P.replay)))) ∧
    (P.narrowing = false → exec (.narrowTimeout p) s = .next s ∧
      (P.training = false → exec (.narrowRestriped p) s = .next s) ∧
      (P.training = true → pumps (.narrowRestriped p) (fun v => (v.port n).training = false ∧
        (v.port n).sent = P.sent ++ [.control P.ack .resume] ++ again P.replay))) ∧
    (P.narrowing = true → P.resumed = false → becomes (.resumeReceive p q) (fun u => cut u q ∧ (u.port n).farResumed = true ∧
      (u.port n).narrowing = true ∧ (u.port n).sent = P.sent)) ∧
    (P.narrowing = false ∨ P.resumed = true →
      (P.training = true → becomes (.resumeReceive p q) (fun u => cut u q ∧ (u.port n).training = true ∧ (u.port n).sent = P.sent)) ∧
      (P.training = false → pumps (.resumeReceive p q) (fun v => cut v q ∧ (v.port n).narrowing = false ∧
        (v.port n).sent = P.sent ++ again (v.port n).replay ∧ v.reg0 (offOptLink n) = s.reg0 (offOptLink n))))

/-- R54, R56, R60, R64 to R67, R431 to R433: the laser states follow the use of the port; a bring-up starts the link at full
allowances or leaves the port down; a peer's request is served here, forwarded with the next hop, or answered PEERUNREACH,
and an answer goes back the way its request came; a reconfiguration drains, waits for light, and relocks. (The model's choices, no rules of the
spec: that the event tells a request from an answer, the width after a relock, and a DARK port in a reconfiguration, log 64; what a port does with its
lasers when it goes down, and ports without light in a drain, log 57; an event whose condition fails does nothing, log 7.) -/
def Obligations.PortEvents : Prop :=
  ∀ (s : State) (p : BitVec 7) (pct far : BitVec 8) (ok farSlow : Bool) (bad : BitVec 9) (farMask : BitVec 4) (c : BitVec 2) (tag : BitVec 10)
    (status : BitVec 4), p.toNat < 96 →
    let n := p.toNat
    let P := s.port n
    let pol := s.reg0 (offPolicy n)
    let win := max 1 (fld pol 16 8)
    let becomes := fun (i : Instr) (post : State → Prop) => ∃ u, exec i s = .next u ∧ post u
    let pumps := fun (i : Instr) (post : State → Prop) => ∃ v : State, exec i s = .next (v.pump n) ∧ post v
    let drops := fun (i : Instr) => ∃ v : State, exec i s = .next (v.report 11 n 0 0) ∧ (v.port n).down = true ∧ (v.port n).queue = [] ∧
      (v.port n).replay = [] ∧ v.laser n = dark ∧ v.width n = 3
    let idle := P.queue = [] ∧ P.owed = []
    let busy := P.owed ≠ [] ∨ (P.queue ≠ [] ∧ s.holding n = false)
    let over' := (s.laser n ≠ bloom ∨ (P.drained = true ∧ P.farDrain = true ∧ P.allow2 = 2048 ∧ P.allow3 = 2048)) ∧ P.replay = [] ∧
      P.unanswered = [] ∧ P.serving = [] ∧ P.ingress = [] ∧ P.narrowing = false ∧ P.training = false
    let answers := fun (l : List PeerPkt) => l.flatMap (fun q => match q.via, q.pkt with
      | none, some r => s.responses (.port n) r 8 [] none []
      | _, _ => [])
    let started := fun (v : State) => v.laser n = bloom ∧ (v.port n).txSeq = 0 ∧ (v.port n).rxNext = 0 ∧ (v.port n).allow2 = 2048 ∧
      (v.port n).allow3 = 2048 ∧ (v.port n).replay = [] ∧ (v.port n).down = false ∧ fld (v.reg0 (offState n)) 10 8 = far.toNat ∧
      (v.reg0 (offState n)).getLsbD 4 = (P.slow || farSlow)
    (s.holding n = true → exec (.laserWindow p pct) s = .next s ∧ exec (.portDarkTimeout p) s = .next s) ∧
    (s.laser n = bloom → s.holding n = false →
      (pct.toNat < fld pol 0 8 → win ≤ P.below + 1 → P.replay = [] → idle → P.dimming = false → becomes (.laserWindow p pct) (fun u =>
        u.laser n = bloom ∧ (u.port n).dimming = true ∧ (u.port n).sent = P.sent ++ [.control P.ack .drain])) ∧
      (pct.toNat < fld pol 0 8 → P.below + 1 < win → becomes (.laserWindow p pct) (fun u => u.laser n = bloom ∧ (u.port n).below = P.below + 1)) ∧
      (fld pol 0 8 ≤ pct.toNat → becomes (.laserWindow p pct) (fun u => u.laser n = bloom ∧ (u.port n).below = 0))) ∧
    (s.laser n = bud → s.holding n = false →
      (fld pol 8 8 < pct.toNat → win ≤ P.above + 1 → P.lostInBud = 0 → pumps (.laserWindow p pct) (fun v => v.laser n = bloom ∧ (v.port n).above = 0)) ∧
      (fld pol 8 8 < pct.toNat → P.above + 1 < win → becomes (.laserWindow p pct) (fun u => u.laser n = bud ∧ (u.port n).above = P.above + 1)) ∧
      (pct.toNat ≤ fld pol 8 8 → becomes (.laserWindow p pct) (fun u => u.laser n = bud ∧ (u.port n).above = 0)) ∧
      (idle → becomes (.portDarkTimeout p) (fun u => u.ports = s.ports ∧ u.laser n = if fld pol 24 16 = 0 then bud else dark)) ∧
      (¬ idle → exec (.portDarkTimeout p) s = .next s)) ∧
    (s.laser n ≠ bud → exec (.portDarkTimeout p) s = .next s) ∧
    (busy → P.down = false → P.disabled = false → P.reconf < 2 →
      (s.laser n = bud → P.lostInBud = 0 → pumps (.portWake p) (fun v => v.laser n = bloom ∧ ∀ k, v.port k = s.port k)) ∧
      (s.laser n = dark → becomes (.portWake p) (fun u => u.laser n = changing ∧ u.ports = s.ports ∧
        ∀ w, w < 9 → fld (u.reg0 (offHealth n w)) 4 10 = P.heater0.toNat))) ∧
    (¬ busy ∨ P.down = true ∨ P.disabled = true ∨ 2 ≤ P.reconf → exec (.portWake p) s = .next s) ∧
    (s.laser n ≠ changing → exec (.bringupDone p ok far farSlow bad farMask) s = .next s) ∧
    (s.laser n = changing →
      (ok = false → drops (.bringupDone p ok far farSlow bad farMask)) ∧
      (ok = true → bad ||| P.wlBad = 0 → farMask = 0 → drops (.bringupDone p ok far farSlow bad farMask)) ∧
      (ok = true → bad ||| P.wlBad = 0 → farMask ≠ 0 → pumps (.bringupDone p ok far farSlow bad farMask) (fun v => started v ∧
        (v.width n, fld (v.reg0 (offState n)) 6 4) = widthOf farMask ∧ v.spareFor n = 15 ∧ (∀ w, w < 9 → v.wlFailed n w = false) ∧
        (v.port n).queue = P.queue))) ∧
    (P.takePacket c = none → exec (.peerRequestArrival p c) s = .next s ∧ exec (.peerAnswerReturn p c tag status) s = .next s) ∧
    (∀ l P₁, P.takePacket c = some (l, P₁) →
      let bytes := l.flatMap DataFlit.bytes
      let freed := fun (Q : Port) => Q.freed2 + Q.freed3 = P.freed2 + P.freed3 + l.length ∧ Q.ingress = P₁.ingress
      let head := headOf (leNat (bytes.take 16))
      let data := (bytes.drop 16).take (requestBytes head)
      let k := P.nextToken
      let id := head.va.toNat / 2 ^ 42 % 256
      let mine := fld (s.reg0 offSelf) 0 8
      let entered := fun (v : State) => (v.port n).serving = P.serving ++ (if P.reconf < 2 then [(k, head.tag.toNat)] else []) ∧
        (v.port n).nextToken = k + 1
      let unreached := P.reconf < 2 → pumps (.peerRequestArrival p c) (fun v => entered v ∧ freed (v.port n) ∧ (v.port n).owed = P.owed ++ [(k, 8, [])])
      ((c = 2#2 ∨ c = 3#2) ∧ l ≠ [] ∧ (∀ d ∈ l, d.cls = c ∧ d ∈ P.ingress) ∧ l.getLast?.map (·.last) = some true ∧ P₁ = { P with ingress := P₁.ingress }) ∧
      (id = mine →
        (P.entered ≠ [] → pumps (.peerRequestArrival p c) (fun v => entered v ∧ v.net = s.net ∧ (v.port n).entered = P.entered ++
          [{ head := head, data := data, token := k, cls := c, flits := l.length }])) ∧
        (P.entered = [] → P.reconf < 2 → ∀ st, s.peerWindow (head.va.toNat % 2 ^ 42) head.op.toNat = .inl st → pumps (.peerRequestArrival p c) (fun v =>
          entered v ∧ freed (v.port n) ∧ (v.port n).owed = P.owed ++ [(k, st, [])])) ∧
        (P.entered = [] → head.op = 0#4 → ∀ va m, s.peerWindow (head.va.toNat % 2 ^ 42) 0 = .inr va → va < 2 ^ 56 → s.portOf va = some m →
          pumps (.peerRequestArrival p c) (fun v => entered v ∧ freed (v.port n) ∧ ∃ q : Packet, v.net = s.net ++ [q] ∧ q.dst = .cellar m ∧
            q.src = .port n ∧ ∃ h, q.body = .request h data 0 k 0 0 ∧ h.va.toNat = va ∧ h.op = 0#4 ∧ h.tix = 0x3FFF#14))) ∧
      (id ≠ mine →
        (head.hops = 7#3 ∨ s.peerPort id = none → unreached) ∧
        (head.hops ≠ 7#3 → ∀ m, s.peerPort id = some m →
          ((s.port m).down = true ∨ (s.port m).disabled = true → unreached) ∧
          ((s.port m).down = false → (s.port m).disabled = false → ∃ v : State, exec (.peerRequestArrival p c) s = .next ((v.pump m).pump n) ∧
            entered v ∧ freed (v.port n) ∧ ∃ q : PeerPkt, (v.port m).queue = (s.port m).queue ++ [q] ∧
              q.head = { head with hops := head.hops + 1 } ∧ q.data = data ∧ q.via = some (n, k)))) ∧
      (let w := leNat (bytes.take 4)
       let st := status.toNat
       let mineQ := fun (q : PeerPkt) => q.tag == tag.toNat
       (w % 1024 ≠ tag.toNat ∨ w / 1024 % 16 ≠ st → exec (.peerAnswerReturn p c tag status) s = .next s) ∧
       (w % 1024 = tag.toNat → w / 1024 % 16 = st → (P.unanswered.find? mineQ = none → pumps (.peerAnswerReturn p c tag status) (fun v => freed (v.port n) ∧ v.net = s.net ∧
         (v.port n).unanswered = P.unanswered)) ∧
       (∀ q, P.unanswered.find? mineQ = some q →
         let payload := (bytes.drop 4).take (answerBytes q.head)
         (∀ r, q.via = none → q.pkt = some r → pumps (.peerAnswerReturn p c tag status) (fun v => freed (v.port n) ∧
           v.net = s.net ++ s.responses (.port n) r st payload none [] ∧ (v.port n).unanswered = eraseFirst mineQ P.unanswered)) ∧
         (∀ m i, q.via = some (m, i) → m ≠ n → (∃ e ∈ (s.port m).serving, e.1 = i) → ∃ v : State,
           exec (.peerAnswerReturn p c tag status) s = .next ((v.pump n).pump m) ∧ v.net = s.net ∧ freed (v.port n) ∧
           (v.port m).owed = (s.port m).owed ++ [(i, st, payload)]))))) ∧
    (∀ a op, op ∈ [1, 2, 3, 6, 7] → (s.reg0 (offPeerwin (a / 2 ^ 36 % 64))).getLsbD 1 = false → s.peerWindow a op = .inl 2) ∧
    (P.reconf = 1 → over' → becomes (.reconfDrained p) (fun u => (u.port n).reconf = 2 ∧ u.laser n = bud ∧ (u.port n).allow2 = 2048 ∧
      (u.port n).allow3 = 2048)) ∧
    (P.reconf ≠ 1 ∨ ¬ over' → exec (.reconfDrained p) s = .next s) ∧
    (P.reconf = 1 → becomes (.reconfDrainTimeout p) (fun u => (u.port n).reconf = 2 ∧ u.laser n = bud ∧ (u.port n).unanswered = [] ∧
      (u.port n).serving = [] ∧ (u.port n).owed = [] ∧ u.net = s.net ++ answers P.unanswered)) ∧
    (P.reconf ≠ 1 → exec (.reconfDrainTimeout p) s = .next s) ∧
    (P.reconf = 3 → drops (.lightTimeout p) ∧ ((∀ e ∈ s.host.peerTable, e.1 < 256) →
      becomes (.reconfRelock p far farSlow) (fun u => (u.port n).reconf = 0 ∧ u.holding n = false ∧
        u.laser n = bloom ∧ fld (u.reg0 (offState n)) 10 8 = far.toNat ∧ (P.lostInBud = 0 → s.width n ≠ 3 → u.width n = s.width n) ∧
        ((s.host.peerTable.map (·.1)).Nodup → ∀ e ∈ s.host.peerTable, (u.reg0 (offPeer e.1)).toNat = e.2.toNat % 256)))) ∧
    (P.reconf ≠ 3 → exec (.lightTimeout p) s = .next s ∧ exec (.reconfRelock p far farSlow) s = .next s)

/-! ### Stacks -/

/-- R104, R105, R109 to R111, R116, R122, R125, R126, R130 to R132, R134, R138, R139 and R141: what a cellar port does with a request. What
the early buffer can release goes first; then the oldest arrival that the port takes goes in, and the oldest that none holds back is
served: a lost dependence, a dead stack, a bad header, a foreign owner and a forbidden access are refused with their statuses and change no
byte of the stack; a read returns the bytes with the sector's poison; a write, a reduction and an atomic change their bytes and no others, join
P and have their tickets acknowledged; a checked sector answers EXTRACE to another tile's access of the same phase; a place outside the stack gets a
copy of the request; a miss walks the table once for all requests of its page, and a walk without a leaf answers XLATE; the answer
to a forwarded copy goes to the requester. (The model's choices, no rules of the spec: BADREQ above 48 GiB, the keys of forwarded
requests and the pairs of their answers, log 63; the tag after a reduction, log 57; an event whose condition fails does nothing, log 7.) -/
def Obligations.CellarEvents : Prop :=
  ∀ (s : State) (k : BitVec 6), k.toNat < 48 →
    let n := k.toNat
    let K := s.stack n
    let quick := K.pendingP.length ≤ 4
    let reply := fun (p : Packet) (st : Nat) (data : List PByte) (lost : Option Pair) => s.responses (.cellar n) p st data lost K.pendingP
    let ackedFor := fun (p : Packet) (u : State) => (u.stack n).acks = K.acks ++ (p.stamp.map Stamp.tickets).getD []
    let arrived := fun (f : Packet → Bool) (j : Nat) (p : Packet) => s.net[j]? = some p ∧ p.arrived = true ∧ p.dst = .cellar n ∧ f p = true ∧
      ∀ i q, i < j → s.net[i]? = some q → q.arrived = false ∨ q.dst ≠ .cellar n ∨ f q = false
    let becomes := fun (i : Instr) (post : State → Prop) => ∃ u, exec i s = .next u ∧ post u
    let r := s.releaseStack n
    let R := r.stack n
    let inTurn := fun (q : Packet) => q.isRequest && !r.hasElder n q && r.takes n q
    (r.net = s.net ∧ (firstMet K.gAt K.ebuf 0 = none → R = K) ∧
      ∀ i p lost, firstMet K.gAt K.ebuf 0 = some (i, p, lost) → s.missq n < 4096 → ∃ l, R.ready = K.ready ++ { p with turn := K.turns } :: l) ∧
    ((∀ q ∈ s.net, q.arrived = false ∨ q.dst ≠ .cellar n ∨ inTurn q = false) → exec (.cellarRequest k) s = .next (r.serveNext n)) ∧
    (∀ j p, arrived inTurn j p → ∃ v : State, exec (.cellarRequest k) s = .next (v.serveNext n) ∧ v.net = s.net.eraseIdx j ∧ (v.stack n).mem = R.mem ∧
      (s.fresh p = false → (v.stack n).ready = R.ready ∧ (v.stack n).ebuf = R.ebuf ∧
        fld (v.reg0 (offCau (stackField n))) 54 8 = min 255 (fld (s.reg0 (offCau (stackField n))) 54 8 + 1)) ∧
      (s.fresh p = true → p.verdict R.gAt ≠ .unmet → (v.stack n).ready = R.ready ++ [{ p with turn := R.turns }] ∧ (v.stack n).ebuf = R.ebuf) ∧
      (s.fresh p = true → p.verdict R.gAt = .unmet → (v.stack n).ready = R.ready ∧
        (roomFor R.ebuf p 64 256 = true → (v.stack n).ebuf = R.ebuf ++ [p]) ∧
        (roomFor R.ebuf p 64 256 = false → (v.field (stackField n)).ovf = (s.field (stackField n)).ovf ++ [p]))) ∧
    ((∀ p ∈ K.ready, s.parked n p = true) → s.serveNext n = s) ∧
    (∀ p l h data ctx token elem pad, K.ready = p :: l → p.body = .request h data ctx token elem pad → s.parked n p = false →
      p.copyOf = none → s.fresh p = true →
      let u := s.serveNext n
      let K' := u.stack n
      let va := h.va.toNat
      let owner := ownerOf va
      let off := va % 2 ^ 50
      let len := h.len.toNat + 1
      let op := h.op.toNat
      let fn := h.fn.toNat
      let refused := fun (st : Nat) (lost : Option Pair) => (quick → u.net = s.net ++ reply p st [] lost) ∧ ackedFor p u ∧
        (∀ i, (u.stack i).mem = (s.stack i).mem) ∧ K'.ready = l
      let met := ∀ q, p.verdict K.gAt ≠ .lost q
      let served := fun (kind pa : Nat) (chk : Bool) => K.poison.length < 512 →
        let sec := pa / 64
        let bad := K.poison.contains sec
        let tag := (K.tag sec).toNat
        let race := chk = true ∧ h.tix ≠ 0x3FFF#14 ∧ tag % 2 ^ 14 ≠ h.tix.toNat ∧ tag % 2 ^ 14 ≠ 0x3FFF ∧ tag / 2 ^ 14 = h.ph.toNat
        let old := getBytes K.mem pa len
        let same := fun (a n : Nat) => ∀ b, (b < a ∨ a + n ≤ b) → mget 0#8 K'.mem b = mget 0#8 K.mem b
        let answers := fun (st : Nat) (d : List PByte) => K'.ready = l ∧ ackedFor p u ∧
          (K'.pendingP.length ≤ 4 → u.net = s.net ++ s.responses (.cellar n) p st d none K'.pendingP) ∧
          ∀ q, p.stamp.bind (·.own) = some q → (p.stamp.map (·.merge)).getD false = false →
            let g := (K.gAt q.f).1
            let v := wmax (mget g K.pvec q.f) q.t
            mget g K'.pvec q.f = if st = 0 ∧ exceeds v g = true then v else mget g K.pvec q.f
        let kept := K'.mem = K.mem ∧ K'.tag sec = K.tag sec
        let wrote := K'.tag sec = if chk = false then K.tag sec else if h.tix = 0x3FFF#14 then 0x3FFF#16 else BitVec.ofNat 16 (h.tix.toNat + h.ph.toNat * 2 ^ 14)
        (kind = 0 → s.strikes 600 = false → answers (if race then 6 else 0) (old.map (fun b => (b, bad))) ∧ kept) ∧
        (kind = 0 → s.strikes 600 = true → answers (if race then 6 else 0) (old.map (fun b => (b, true))) ∧ kept ∧ sec ∈ K'.poison) ∧
        (kind = 4 → answers (if race then 6 else 0) [] ∧ kept) ∧
        (kind = 1 ∨ kind = 3 → race → s.strikes 600 = false → answers 6 [] ∧ kept) ∧
        (kind = 1 → ¬ race → len ≤ data.length → answers 0 [] ∧ wrote ∧ same pa len ∧
          (∀ i, i < len → mget 0#8 K'.mem (pa + i) = (data.getD i (0#8, false)).1) ∧
          ((∃ b ∈ data.take len, b.2 = true) → sec ∈ K'.poison) ∧
          ((∀ b ∈ data.take len, b.2 = false) → (len = 64 → sec ∉ K'.poison) ∧ (len ≠ 64 → K'.poison = K.poison))) ∧
        (kind = 2 ∨ (kind = 3 ∧ ¬ race) → s.strikes 600 = false → bad = true → answers 5 [] ∧ kept) ∧
        (kind = 2 → s.strikes 600 = false → bad = false → answers 0 [] ∧ same pa len ∧ K'.tag sec = K.tag sec ∧ ∀ j, j < len →
          let w := redBytes fn
          let i := (va % 64 + j) / w
          let plain := old.map (fun b => (b, false))
          mget 0#8 K'.mem (pa + j) = if h.rmask.getLsbD i = true then
            BitVec.ofNat 8 (redItem fn (itemAt plain (va % 64) w i).1 (itemAt data (va % 64) w i).1 / 256 ^ ((va % 64 + j) % w))
          else mget 0#8 K.mem (pa + j)) ∧
        (kind = 3 → ¬ race → s.strikes 600 = false → bad = false →
          let w := atomWidth fn
          let oldB : List PByte := (old.take w).map (fun b => (b, false))
          let f := fn / 8 % 16
          let x := leNat (data.take w)
          let y := leNat ((data.drop w).take w)
          answers 0 oldB ∧ wrote ∧ match (if f = 9 then atomicNew 9 w (leNat oldB) y x else atomicNew f w (leNat oldB) x 0) with
            | none => K'.mem = K.mem
            | some v => same pa w ∧ ∀ i, i < w → mget 0#8 K'.mem (pa + i) = BitVec.ofNat 8 (v / 256 ^ i))
      (∀ q, p.verdict K.gAt = .lost q → refused 7 (some q)) ∧
      (met → s.stackDead n = true → refused 3 none) ∧
      (met → s.stackDead n = false → badHead h p.red = true → refused 4 none) ∧
      (met → s.stackDead n = false → badHead h p.red = false → 5 ≤ op →
        (48 * 2 ^ 30 ≤ va % 2 ^ 36 → refused 4 none) ∧
        (va % 2 ^ 36 < 48 * 2 ^ 30 → p.quar = none → served (if p.red = true then 2 else if op = 5 then 0 else if op = 6 then 1 else 3) (va % 2 ^ 36) p.chk)) ∧
      (met → s.stackDead n = false → badHead h p.red = false → op < 5 → n ∉ s.membersOf owner → refused 3 none) ∧
      (met → s.stackDead n = false → badHead h p.red = false → op < 5 → n ∈ s.membersOf owner →
        (∀ q ∈ K.homeQ, samePage p q = false) → (∀ q ∈ K.walkQ, samePage p q = false) →
        (tlbFind K.tlb owner off = none → s.homeOf owner off ≠ n → K'.homeQ = K.homeQ ++ [p] ∧ u.net = s.net) ∧
        (tlbFind K.tlb owner off = none → s.homeOf owner off = n → tlbFind K.slice owner off = none →
          K'.walkQ = K.walkQ ++ [p] ∧ u.net = s.net) ∧
        (∀ e, tlbFind K.tlb owner off = none → s.homeOf owner off = n → tlbFind K.slice owner off = some e → ∃ v : State,
          u = v.serveWith n p e ∧ e ∈ (v.stack n).tlb ∧ v.net = s.net) ∧
        ∀ e, tlbFind K.tlb owner off = some e →
          (∀ kr x, s.heldBy p = some (kr, x) → u.net = s.net ∧ (∀ i, (u.stack i).mem = (s.stack i).mem) ∧ K'.counts = K.counts) ∧
          (s.heldBy p = none → K.counts.length < 256 →
          (leafAllows e.leaf op = false → refused 2 none) ∧
          (leafAllows e.leaf op = true → p.red = false →
            let copied := fun (a : Agent) (va' op' : Nat) => ∀ key, K.nextKey = some key → K'.fwd = K.fwd ++ [(key, p)] ∧ (∀ f ∈ K.fwd, f.1 ≠ key) ∧
              (∀ i, (u.stack i).mem = (s.stack i).mem) ∧ ∃ q : Packet, u.net = s.net ++ [q] ∧ q.dst = a ∧ q.src = .cellar n ∧ q.cls = 2 ∧
                ∃ h', q.body = .request h' data 0 key 0 0 ∧ h'.va = BitVec.ofNat 56 va' ∧ h'.op.toNat = op' ∧ h'.len = h.len ∧ h'.fn = h.fn ∧
                  h'.rmask = h.rmask ∧ h'.tix = h.tix ∧ h'.ph = h.ph
            (∀ j pa, s.locate owner e.leaf (off - e.base) = .sector j pa →
              (j = n → e.leaf.getLsbD 9 = false → served op pa (e.leaf.getLsbD 7)) ∧
              (j ≠ n → copied (.cellar j) pa (if op = 0 ∨ op = 4 then 5 else if op = 1 then 6 else 7))) ∧
            (∀ j a, s.locate owner e.leaf (off - e.base) = .host j a →
              (op = 2 ∨ (op = 3 ∧ s.hostAtomOk j fn = false) → refused 2 none) ∧
              (¬ (op = 2 ∨ (op = 3 ∧ s.hostAtomOk j fn = false)) → copied (.pcie j) (60 * 2 ^ 50 + a) (if op = 4 then 0 else op))) ∧
            (∀ id o, s.locate owner e.leaf (off - e.base) = .peer id o →
              (id = fld (s.reg0 offSelf) 0 8 ∨ s.peerPort id = none → refused 8 none) ∧
              (∀ j, id ≠ fld (s.reg0 offSelf) 0 8 → s.peerPort id = some j → copied (.port j) (61 * 2 ^ 50 + id * 2 ^ 42 + o) op)))))) ∧
    (s.homeWaiter n = none → exec (.tlbHomeQuery k) s = .next s) ∧
    (∀ r p, s.homeWaiter n = some (r, p) →
      let mine := (s.stack r).homeQ.filter (samePage p)
      let rest := (s.stack r).homeQ.filter (fun q => !samePage p q)
      let given := s.homeEntry n r (ownerOf p.reqVa) (p.reqVa % 2 ^ 50)
      (s.shotFor r (ownerOf p.reqVa) (p.reqVa % 2 ^ 50) = true → given = none) ∧
      (given = none → becomes (.tlbHomeQuery k) (fun u => (u.stack r).homeQ = rest ∧
        (u.stack r).walkQ = (s.stack r).walkQ ++ mine ∧ u.net = s.net)) ∧
      (∀ e, given = some e → ∃ v : State,
        exec (.tlbHomeQuery k) s = .next (mine.foldl (fun s q => s.serveWith r q e) v) ∧ (v.stack r).homeQ = rest ∧ e ∈ (v.stack r).tlb ∧ v.net = s.net)) ∧
    (K.walkQ = [] → exec (.walkDone k) s = .next s) ∧
    (∀ p l, K.walkQ = p :: l →
      let mine := K.walkQ.filter (samePage p)
      let rest := K.walkQ.filter (fun q => !samePage p q)
      let owner := ownerOf p.reqVa
      let off := p.reqVa % 2 ^ 50
      (s.walk owner off = none → quick → becomes (.walkDone k) (fun u => (u.stack n).walkQ = rest ∧
        u.net = s.net ++ mine.flatMap (fun q => reply q 1 [] none))) ∧
      (∀ e, s.walk owner off = some e → ∃ v : State, exec (.walkDone k) s = .next (mine.foldl (fun s q => s.serveWith n q e) v) ∧
        (v.stack n).walkQ = rest ∧ e ∈ (v.stack n).tlb ∧ e ∈ (v.stack (s.homeOf owner off)).slice ∧ v.net = s.net)) ∧
    ((∀ q ∈ s.net, q.arrived = false ∨ q.dst ≠ .cellar n ∨ q.isResponse = false) → exec (.forwardResponse k) s = .next s) ∧
    (∀ j r tag status data lost x key e pad i p, arrived Packet.isResponse j r → s.fresh r = true →
      r.body = .response tag status data lost x key e pad → K.fwd.find? (fun f => f.1 == key) = some (i, p) →
      becomes (.forwardResponse k) (fun u => (u.stack n).fwd = eraseFirst (fun f => f.1 == key) K.fwd ∧ ackedFor p u ∧
        ((u.stack n).pendingP.length ≤ 4 → u.net = s.net.eraseIdx j ++
          s.responses (.cellar n) p status (if p.isPrefetch = true then [] else data) lost (u.stack n).pendingP)))

/-- R130, R135 to R138, R140, R143 and R144: access counters saturate and are halved; a racking starts on a valid leaf, copies its page, and
ends with the new entry written, or the old one where the new frame fails; a shoot-down waits for every member; a stack is
retired only from ACTIVE. (The model's choices, no rules of the spec: when a racked page's lines are taken, log 26; how they leave the
wafer, log 63; the quarantine of a page, log 25; an event whose condition fails does nothing, log 7.) -/
def Obligations.StackEvents : Prop :=
  ∀ (s : State) (k m : BitVec 6) (leaf v : BitVec 64) (va : BitVec 56) (link : BitVec 2) (off : BitVec 22), k.toNat < 48 → m.toNat < 48 →
    let n := k.toNat
    let j := m.toNat
    let K := s.stack n
    let becomes := fun (i : Instr) (post : State → Prop) => ∃ u, exec i s = .next u ∧ post u
    let stk := s.reg0 (offStk n)
    let shoot := s.reg0 (offShoot n)
    let owner := ownerOf (fld shoot 0 56)
    let clear := fun (l : List TlbEntry) (o base bits : Nat) => ∀ e ∈ l, e.owner = o → base + 2 ^ bits ≤ e.base ∨ e.base + 2 ^ e.bits ≤ base
    let ends := fun (i : Instr) (r : Racking) (entry : W64) (code : Nat) => ∃ w : State,
      exec i s = .next (((w.report 13 n 0 r.va).nextRack n).checkEmptyAll) ∧
      readBytes (w.stack (s.tableStack (ownerOf r.va))).mem r.entry 8 = entry.toNat ∧
      (∃ l, (w.stack n).racks = eraseFirst (fun x => x.va == r.va) K.racks ++ l ∧ ∀ x ∈ l, x.quar = true) ∧
      (∃ rec, (w.stack n).rackDone = K.rackDone ++ [rec] ∧ fld rec 0 16 = code ∧ fld rec 16 42 = leafFrame r.old / 65536) ∧
      ∀ i ∈ s.membersOf (ownerOf r.va), clear (w.stack i).tlb (ownerOf r.va) (r.va % 2 ^ 50) r.bits ∧
        clear (w.stack i).slice (ownerOf r.va) (r.va % 2 ^ 50) r.bits
    becomes (.counterWriteback k) (fun u => (u.stack n).counts = [] ∧
      (K.counts.Pairwise (fun e f => e.1 ≠ f.1 ∨ e.2.1 + 2 ≤ f.2.1 ∨ f.2.1 + 2 ≤ e.2.1) → ∀ e ∈ K.counts,
        readBytes (u.stack e.1).mem e.2.1 2 = min 0xFFFF (readBytes (s.stack e.1).mem e.2.1 2 + e.2.2.2))) ∧
    (K.counts = [] → let tabs := (s.owners.filter (fun o => s.tableStack o == n)).flatMap s.level3
      becomes (.counterDecay k) (fun u => (∀ i, i ≠ n → (u.stack i).mem = (s.stack i).mem) ∧
        (∀ a, (∀ tab ∈ tabs, a < tab + 4096 ∨ tab + 5120 ≤ a) → mget 0#8 (u.stack n).mem a = mget 0#8 K.mem a) ∧
        (tabs.Pairwise (fun a b => a + 5120 ≤ b ∨ b + 5120 ≤ a) → ∀ tab ∈ tabs, ∀ i, i < 512 →
          readBytes (u.stack n).mem (tab + 4096 + 2 * i) 2 = readBytes K.mem (tab + 4096 + 2 * i) 2 / 2))) ∧
    (let q := s.reg0 (offRackq n)
     let bits := pageBits (fld q 56 2)
     let running := (K.racks.filter (fun r => !r.quar)).length
     (s.rackTarget (fld q 0 56) bits = none ∨ 64 ≤ K.rackQ.length → becomes (.rackCommand k leaf) (fun u => (u.stack n).racks = K.racks ∧
       (u.stack n).rackQ = K.rackQ ∧ fld (u.reg0 (offRack n)) 28 8 = min 255 (fld (s.reg0 (offRack n)) 28 8 + 1))) ∧
     (∀ e, s.rackTarget (fld q 0 56) bits = some e → K.rackQ.length < 64 →
       (16 ≤ running → becomes (.rackCommand k leaf) (fun u => (u.stack n).racks = K.racks ∧
         (u.stack n).rackQ = K.rackQ ++ [(fld q 0 56, bits, leaf)])) ∧
       (running < 16 → K.rackQ = [] → becomes (.rackCommand k leaf) (fun u => (u.stack n).rackQ = [] ∧
         (u.stack n).racks = K.racks ++ [{ va := fld q 0 56, bits := bits, leaf := leaf, old := e.leaf, entry := e.entry }] ∧
         readBytes (u.stack (s.tableStack e.owner)).mem e.entry 8 = (e.leaf ||| 0x400#64).toNat)))) ∧
    (s.rackAt n va.toNat = none → exec (.rackCopyDone k va) s = .next s ∧ exec (.rackSwitchDone k va) s = .next s ∧ exec (.rackAbort k va) s = .next s) ∧
    (∀ r, s.rackAt n va.toNat = some r →
      let o := ownerOf r.va
      let base := r.va % 2 ^ 50
      let busy := ∃ i ∈ s.membersOf o, s.forwarding i o base r.bits = true
      (r.switch = true → exec (.rackCopyDone k va) s = .next s ∧ exec (.rackAbort k va) s = .next s) ∧
      (r.switch = false → exec (.rackSwitchDone k va) s = .next s) ∧
      (r.switch = false → s.frameDead o r.leaf = true → exec (.rackCopyDone k va) s = .next s) ∧
      (r.switch = false → s.frameDead o r.leaf = false → becomes (.rackCopyDone k va) (fun w =>
        w.rackAt n va.toNat = some { r with switch := true } ∧ w.net = s.net ∧ ∀ i, (w.stack i).mem = (s.stack i).mem)) ∧
      (r.switch = false → s.frameDead o r.leaf = false → exec (.rackAbort k va) s = .next s) ∧
      (r.switch = true → busy → exec (.rackSwitchDone k va) s = .next s) ∧
      (r.switch = true → ¬ busy → r.quar = false → ends (.rackSwitchDone k va) r (r.leaf &&& ~~~0x400#64) 1) ∧
      (r.switch = true → ¬ busy → r.quar = true → r.leaf = r.old → exec (.rackSwitchDone k va) s = .next s) ∧
      (r.switch = true → ¬ busy → r.quar = true → r.leaf ≠ r.old → ∃ w : State,
        exec (.rackSwitchDone k va) s = .next ((w.report 9 n 0 r.va).checkEmptyAll) ∧
        readBytes (w.stack (s.tableStack o)).mem r.entry 8 = r.leaf.toNat ∧
        fld (w.reg0 (offPois n)) 10 8 = min 255 (fld (s.reg0 (offPois n)) 10 8 + 1)) ∧
      (r.switch = false → s.frameDead o r.leaf = true → ends (.rackAbort k va) r (r.old &&& ~~~0x400#64) 3)) ∧
    (off.toNat = offRackdone n →
      (s.linkUp link.toNat = false → exec (.memRackdoneRead ⟨link, off, 8⟩) s = .next s) ∧
      (s.linkUp link.toNat = true → K.rackDone = [] → becomes (.memRackdoneRead ⟨link, off, 8⟩) (fun u =>
        u.host.replies = s.host.replies ++ [(link.toNat, .data (wordBytes 0))] ∧ u.cellars = s.cellars)) ∧
      (∀ r l, s.linkUp link.toNat = true → K.rackDone = r :: l → becomes (.memRackdoneRead ⟨link, off, 8⟩) (fun u =>
        u.host.replies = s.host.replies ++ [(link.toNat, .data (wordBytes r))] ∧ (u.stack n).rackDone = l))) ∧
    (shoot.getLsbD 58 = true → exec (.shootdown k v) s = .next s) ∧
    (shoot.getLsbD 58 = false → becomes (.shootdown k v) (fun u => let ms := s.membersOf (ownerOf (fld v 0 56))
      (u.stack n).shootWait = ms ∧ (u.stack n).shootInval = [] ∧ fld (u.reg0 (offShoot n)) 0 58 = fld v 0 58 ∧
      (u.reg0 (offShoot n)).getLsbD 58 = decide (ms ≠ []))) ∧
    (let base := fld shoot 0 50
     let bits := pageBits (fld shoot 56 2)
     (j ∈ K.shootWait → j ∉ K.shootInval → becomes (.shootdownInvalidate k m) (fun u => (u.stack n).shootInval = K.shootInval ++ [j] ∧
       (u.stack n).shootWait = K.shootWait ∧ clear (u.stack j).tlb owner base bits ∧ clear (u.stack j).slice owner base bits)) ∧
     (j ∉ K.shootWait ∨ j ∈ K.shootInval → exec (.shootdownInvalidate k m) s = .next s) ∧
     (j ∈ K.shootInval → s.forwarding j owner base bits = false → becomes (.shootdownAck k m) (fun u =>
       (u.stack n).shootWait = K.shootWait.filter (· != j) ∧ j ∉ (u.stack n).shootInval ∧
       (u.reg0 (offShoot n)).getLsbD 58 = (shoot.getLsbD 58 && !(K.shootWait.filter (· != j)).isEmpty))) ∧
     (j ∉ K.shootInval ∨ s.forwarding j owner base bits = true → exec (.shootdownAck k m) s = .next s)) ∧
    (fld stk 0 2 = 0 → s.tableOfSet n = false → becomes (.stackRetire k) (fun u => fld (u.reg0 (offStk n)) 0 2 = (if s.frameFree n = true then 2 else 1) ∧
      fld (u.reg0 (offStk n)) 2 36 = fld stk 2 36 ∧ u.cellars = s.cellars)) ∧
    (fld stk 0 2 ≠ 0 ∨ s.tableOfSet n = true → exec (.stackRetire k) s = .next s)

/-! ### The host -/

/-- R147, R149, R152, R155 and R159: a register write of a link waits behind the link's posted ingress entries; with none it changes what
its access codes allow and nothing else, an unaligned one and one of a private region nothing; a go starts a command or,
while one runs, sets rej. A read returns the register, the half of it, or the bytes of a buffer, or Unsupported Request. The
wafer's own accesses through the control-space interface are 8-byte reads and writes outside the private regions. An event
entry goes to the head of the ring, or sets ovf when it is full. (The model's choices, no rules of the spec: a 4-byte write, log 47; a
posted queue without room takes no access, log 57; an access by a link that is down does nothing, log 7.) -/
def Obligations.RegisterAccesses : Prop :=
  ∀ (s : State) (n : BitVec 2) (off : BitVec 22) (dword : Bool) (v : BitVec 64) (len : Nat),
    let k := n.toNat
    let o := off.toNat
    let size := if dword = true then 4 else 8
    let up := s.linkUp k = true
    let quiet := up ∧ ∀ e ∈ s.host.posted, e.1 ≠ k
    let becomes := fun (i : Instr) (post : State → Prop) => ∃ u, exec i s = .next u ∧ post u
    let puts := fun (o : Nat) (post : W64 → Prop) => ∀ b, b.toNat = o → ∃ w, exec (.registerWrite ⟨n, b⟩ false v) s = .next (s.setReg0 o w) ∧ post w
    (s.linkUp k = false → exec (.registerWrite ⟨n, off⟩ dword v) s = .next s ∧ exec (.memRackdoneRead ⟨n, off, len⟩) s = .next s) ∧
    (up → ∀ t e, s.firstPosted k = some (.entry t e) → (s.host.posted.filter (fun e => e.1 == k)).length < 256 →
      exec (.registerWrite ⟨n, off⟩ dword v) s =
        .next { s with host := { s.host with posted := s.host.posted ++ [(k, .register o dword v)] } }) ∧
    (up → (len ≠ 4 ∧ len ≠ 8) ∨ o % len ≠ 0 → exec (.memRackdoneRead ⟨n, off, len⟩) s = .next (s.reply k .unsupported)) ∧
    (up → len = 4 ∨ len = 8 → o % len = 0 →
      let q := o / 8 * 8
      let reads := fun (w : W64) => exec (.memRackdoneRead ⟨n, off, len⟩) s = .next (s.reply k (.data (((wordBytes w).drop (o % 8)).take len)))
      (privateOff q = false → (∀ j, j < 48 → q ≠ offRackdone j) → reads (s.readReg q)) ∧
      ((0x10000 ≤ q ∧ q < 0x18000) ∨ (0xC0000 ≤ q ∧ q < 0xC1000) → reads (w64 (readBytes s.host.mbx q 8))) ∧
      (0x80000 ≤ q → q < 0x82000 → reads (w64 (readBytes s.host.ring (q - 0x80000) 8)))) ∧
    (quiet →
    (o % size ≠ 0 → exec (.registerWrite ⟨n, off⟩ dword v) s = .next s) ∧
    (o % size = 0 → privateOff o = true → bufferOff o = false → exec (.registerWrite ⟨n, off⟩ dword v) s = .next s) ∧
    (o % size = 0 → bufferOff o = true → becomes (.registerWrite ⟨n, off⟩ dword v) (fun u => readBytes u.host.mbx o size = v.toNat % 2 ^ (8 * size) ∧
      u.bar0 = s.bar0 ∧ ∀ a, (a < o ∨ o + size ≤ a) → mget 0#8 u.host.mbx a = mget 0#8 s.host.mbx a)) ∧
    (∀ p, p < 96 → puts (offPolicy p) (fun w => fld w 0 48 = fld v 0 48 ∧ fld w 48 16 = fld (s.reg0 (offPolicy p)) 48 16) ∧
      puts (offState p) (fun w => w = s.reg0 (offState p)) ∧
      puts (offOptLink p) (fun w => fld w 0 16 = (if fld v 0 16 = 0 then 0 else fld (s.reg0 (offOptLink p)) 0 16) ∧
        fld w 16 8 = if fld v 16 8 = 0 then 0 else fld (s.reg0 (offOptLink p)) 16 8)) ∧
    puts offStatus (fun w => ∀ b, w.getLsbD b = ((s.reg0 offStatus).getLsbD b && !([32, 38, 39].contains b && v.getLsbD b))) ∧
    puts offLimit (fun w => w = s.reg0 offLimit) ∧
    puts offEvt (fun w => fld w 8 8 = fld v 8 8 ∧ fld w 0 8 = fld (s.reg0 offEvt) 0 8 ∧ w.getLsbD 16 = ((s.reg0 offEvt).getLsbD 16 && !v.getLsbD 16)) ∧
    (∀ f, f < 64 → puts (offFld f) (fun w => fld w 0 16 = fld (s.reg0 (offFld f)) 0 16 ∧ fld w 32 32 = fld (s.reg0 (offFld f)) 32 32 ∧
      fld w 16 16 = if fld v 16 16 = 0 then 0 else fld (s.reg0 (offFld f)) 16 16)) ∧
    (∀ m, m < 4 → ∀ b : BitVec 22, b.toNat = offMbx m →
      let w := s.reg0 (offMbx m)
      (v.getLsbD 0 = true → w.getLsbD 1 = false → becomes (.registerWrite ⟨n, b⟩ false v) (fun u => (u.reg0 (offMbx m)).getLsbD 1 = true ∧
        u.host.goQ = s.host.goQ ++ [m])) ∧
      (v.getLsbD 0 = true → w.getLsbD 1 = true → becomes (.registerWrite ⟨n, b⟩ false v) (fun u => (u.reg0 (offMbx m)).getLsbD 2 = true ∧
        (u.reg0 (offMbx m)).getLsbD 1 = true ∧ u.host = s.host)))) ∧
    ((∀ q ∈ s.net, q.arrived = false ∨ q.dst ≠ .ctrl ∨ q.isRequest = false) → exec .ctrlAccess s = .next s) ∧
    (∀ j p h data ctx token elem pad, s.net[j]? = some p → p.arrived = true → p.dst = .ctrl → s.fresh p = true →
      p.body = .request h data ctx token elem pad →
      (∀ i q, i < j → s.net[i]? = some q → q.arrived = false ∨ q.dst ≠ .ctrl ∨ q.isRequest = false) →
      let a := h.va.toNat % 2 ^ 50
      let good := (h.op = 0#4 ∨ h.op = 1#4) ∧ h.len = 7#6 ∧ a % 8 = 0 ∧ a < 2 ^ 22
      let replies := fun (st : Nat) (l : List PByte) (post : State → Prop) => becomes .ctrlAccess (fun u =>
        u.net = s.net.eraseIdx j ++ s.responses .ctrl p st l none [] ∧ post u)
      (¬ good → replies 4 [] (fun u => u.bar0 = s.bar0)) ∧
      (good → privateOff a = true → replies 2 [] (fun u => u.bar0 = s.bar0)) ∧
      (good → privateOff a = false → h.op = 0#4 → (∀ k, k < 48 → a ≠ offRackdone k) → replies 0 (wordBytes (s.readReg a)) (fun u => u.bar0 = s.bar0)) ∧
      (∀ i, i < 96 → good → a = offPolicy i → h.op = 1#4 → replies 0 [] (fun u => fld (u.reg0 a) 0 32 = readBytes (putBytes [] 0 (data.map (·.1))) 0 4))) ∧
    (∀ type num plot val,
      let w := s.reg0 offEvt
      let head := fld w 0 8
      let u := s.report type num plot val
      ((head + 1) % 256 = fld w 8 8 → u = s.setReg0 offEvt (w ||| 0x10000#64)) ∧
      ((head + 1) % 256 ≠ fld w 8 8 → fld (u.reg0 offEvt) 0 8 = (head + 1) % 256 ∧ readBytes u.host.ring (32 * head) 2 = type % 2 ^ 16 ∧
        readBytes u.host.ring (32 * head + 2) 2 = num % 2 ^ 16 ∧ readBytes u.host.ring (32 * head + 4) 4 = plot % 2 ^ 32 ∧
        readBytes u.host.ring (32 * head + 8) 8 = val % 2 ^ 64 ∧ ∀ n, n < 4 → s.linkUp n = true → (n, 1) ∈ u.host.msix))

/-- R100, R134, R145, R146, R148, R150 to R154, R157, R158, R276 and R288: a write through BAR 2 becomes an ingress entry in the link's posted
queue, which travels as an unstamped packet of class 2 to its tile when that can take it, and is dropped after a
millisecond when it cannot; a read returns the pad of a resident plot; BAR 4 accesses enter the fabric as requests; the
wafer's writes to the host leave as TLPs, and completions answer its other requests; a link that goes down owns nothing. (The model's
choices, no rules of the spec: an entry for a tile without a resident plot, log 48; BAR 4 accesses, log 49; the requests that leave the wafer,
log 27; the flush read, log 17; a lost link, log 51; the paths' own tickets, log 21; an event whose condition fails does nothing, log 7.) -/
def Obligations.HostEvents : Prop :=
  ∀ (s : State) (n : BitVec 2) (off : BitVec 36) (data : List Byte) (poison on w64 : Bool) (len : BitVec 13) (off4 : BitVec 34)
      (op : PcieAtomic) (a c : BitVec 64) (gen : BitVec 3) (width : BitVec 5) (cpl : Completion),
    let k := n.toNat
    let o := off.toNat
    let line := s.reg0 (offLink k)
    let becomes := fun (i : Instr) (post : State → Prop) => ∃ u, exec i s = .next u ∧ post u
    let tile := o / 2 ^ 22
    let present := tile < 15360 ∧ (s.mapEntry tile).site.isSome = true
    let quiet := ∀ e ∈ s.host.posted, e.1 ≠ k
    let replies := fun (i : Instr) (r : Reply) => exec i s = .next { s with host := { s.host with replies := s.host.replies ++ [(k, r)] } }
    let accesses : List Instr := [.bar2Write n off data poison, .bar2Read n off len, .bar2Atomicop n, .bar4Read n off4 len,
      .bar4Write n off4 data poison, .bar4Atomicop n off4 op w64 a c]
    (s.linkUp k = false → ∀ i ∈ accesses, exec i s = .next s) ∧
    (s.linkUp k = true →
      (quiet → data ≠ [] → o % 64 + data.length ≤ 64 → becomes (.bar2Write n off data poison) (fun u => u.tiles = s.tiles ∧ u.net = s.net ∧
        u.host.posted = s.host.posted ++
          if present then [(k, .entry tile (Ingress.mk (o % 2 ^ 22 / 64) ((List.range data.length).map (fun i => (o % 64 + i, data.getD i 0#8))) poison))]
          else [])) ∧
      (512 < data.length → exec (.bar2Write n off data poison) s = .next s ∧ exec (.bar4Write n off4 data poison) s = .next s) ∧
      (len.toNat ≤ 4096 → ¬ present → replies (.bar2Read n off len) .unsupported) ∧
      (len.toNat ≤ 4096 → present → s.resides tile = true → replies (.bar2Read n off len) (.data ((s.tile tile).padBytes (o % 2 ^ 22) len.toNat))) ∧
      (len.toNat ≤ 4096 → present → s.resides tile = false → replies (.bar2Read n off len) .aborted) ∧
      replies (.bar2Atomicop n) .unsupported ∧
      (let va := fld line 10 22 * 2 ^ 34 + off4.toNat
       let sends := fun (i : Instr) (dst : Agent) (op len fn token : Nat) (stamped : Bool) (l : List PByte) => becomes i (fun u => u.tiles = s.tiles ∧
         ∃ q : Packet, u.net = s.net ++ [q] ∧ q.dst = dst ∧ q.src = .pcie k ∧ q.cls = 2 ∧ (q.stamp.bind (·.own)).isSome = stamped ∧
         ∃ h, q.body = .request h l 0 token 0 0 ∧ h.va.toNat = va ∧ h.op.toNat = op ∧ h.len.toNat + 1 = len ∧ h.fn.toNat = fn ∧ h.tix = 0x3FFF#14)
       let unsupported := fun (i : Instr) => becomes i (fun u => u.tiles = s.tiles ∧ u.net = s.net ∧ u.host.replies = s.host.replies ++ [(k, .unsupported)])
       let F := s.field (linkField k)
       let ready := 16 < F.b4.left ∧ F.b4.staleTickets = 0
       let width := if w64 = true then 8 else 4
       let bytes := fun (v : BitVec 64) => (bytesOf v.toNat width).map (fun b => (b, false))
       let reads := 1 ≤ len.toNat ∧ off4.toNat % 64 + len.toNat ≤ 64
       let writes := data ≠ [] ∧ off4.toNat % 64 + data.length ≤ 64
       (s.freeTag k = none → reads → exec (.bar4Read n off4 len) s = .next s) ∧
       (off4.toNat % width ≠ 0 → replies (.bar4Atomicop n off4 op w64 a c) .unsupported) ∧
       (s.bar4Dst va = none → quiet →
         (writes → ∃ w, exec (.bar4Write n off4 data poison) s = .next (s.setReg0 (offLink k) w) ∧ fld w 40 8 = min 255 (fld line 40 8 + 1)) ∧
         (∀ tag, s.freeTag k = some tag → (reads → unsupported (.bar4Read n off4 len)) ∧
           (off4.toNat % width = 0 → unsupported (.bar4Atomicop n off4 op w64 a c)))) ∧
       (∀ dst, s.bar4Dst va = some dst → quiet → (∀ e ∈ s.host.bar4, e.1 ≠ k) →
         (ready → writes → sends (.bar4Write n off4 data poison) dst 1 data.length 0 1 true (data.map (fun b => (b, poison)))) ∧
         (∀ tag, s.freeTag k = some tag →
           (reads → sends (.bar4Read n off4 len) dst 0 len.toNat 0 (4 * tag) false []) ∧
           (ready → off4.toNat % width = 0 → sends (.bar4Atomicop n off4 op w64 a c) dst 3 width (pcieFn op * 8 + (if w64 = true then 4 else 0))
             (2 + 4 * tag) true (if op = .cas then bytes c ++ bytes a else bytes a)))))) ∧
    ((∀ t e, s.firstPosted k ≠ some (.entry t e)) → exec (.postedQueueTimeout n) s = .next s ∧
      (s.entryArrived k = none → exec (.hostIngressEntry n) s = .next s)) ∧
    (∀ t e, s.firstPosted k = some (.entry t e) →
      let rest := eraseFirst (fun e => e.1 == k) s.host.posted
      (s.takesEntry t = true → exec (.postedQueueTimeout n) s = .next s) ∧
      (s.entryArrived k = none → s.takesEntry t = false ∨ s.entryFlies k t = true → exec (.hostIngressEntry n) s = .next s) ∧
      (s.entryArrived k = none → s.takesEntry t = true → s.entryFlies k t = false → ∃ v : State,
        exec (.hostIngressEntry n) s = .next (v.flushPosted k) ∧ v.host.posted = rest ∧ v.tiles = s.tiles ∧ ∃ q : Packet, v.net = s.net ++ [q] ∧
          q.dst = .tile t ∧ q.src = .pcie k ∧ q.cls = 2 ∧ q.stamp = none ∧ q.body = .ingress e) ∧
      (s.takesEntry t = false → ∃ v : State, exec (.postedQueueTimeout n) s = .next (v.flushPosted k) ∧ v.host.posted = rest ∧
        (v.tile t).ingress = (s.tile t).ingress ∧ ((v.tile t).cr 0x690).getLsbD 6 = true ∧
        fld (v.reg0 (offLink k)) 32 8 = min 255 (fld line 32 8 + 1))) ∧
    (∀ j p t e, s.entryArrived k = some j → s.net[j]? = some p → p.dst = .tile t → p.body = .ingress e →
      (s.resides t = true → (s.tile t).frozen = false → becomes (.hostIngressEntry n) (fun u => u.net = s.net.eraseIdx j ∧
        (u.tile t).ingress = (s.tile t).ingress ++ [e] ∧ (u.tile t).pad = (s.tile t).pad ∧ u.host = s.host)) ∧
      (s.resides t = false ∨ (s.tile t).frozen = true → becomes (.hostIngressEntry n) (fun u => u.net = s.net.eraseIdx j ∧ u.tiles = s.tiles ∧
        u.host.posted = (k, .entry t e) :: s.host.posted))) ∧
    (∀ p h l ctx token elem pad, p.body = .request h l ctx token elem pad → s.fresh p = true →
      let u := s.acceptHost k p
      let told := fun (st : Nat) => u.net = s.net ++ s.responses (.pcie k) p st [] none []
      (s.linkUp k = false → told 3 ∧ u.host.tlps = s.host.tlps) ∧
      (s.linkUp k = true → h.op = 1#4 → told 0 ∧ u.host.tlps = s.host.tlps ++ [(k, .write (h.va.toNat % 2 ^ 50) l)] ∧
        ∀ t, p.src = .tile t → ∃ w ∈ (u.tile t).hostLinks, w.link = k) ∧
      (s.linkUp k = true → h.op = 0#4 → u.net = s.net ∧ u.host.outstanding = s.host.outstanding ++ [.request k p] ∧
        u.host.tlps = s.host.tlps ++ [(k, .read (h.va.toNat % 2 ^ 50) (h.len.toNat + 1))])) ∧
    ((∀ r ∈ s.host.outstanding, r.link ≠ k) → exec (.hostCompletion n cpl) s = .next s ∧ exec (.hostCompletionTimeout n) s = .next s) ∧
    (let first := s.host.outstanding.find? (fun r => r.link == k)
     let taken : State := { s with host := { s.host with outstanding := eraseFirst (fun r => r.link == k) s.host.outstanding } }
     (∀ l p, first = some (.request l p) →
       let answers := fun (i : Instr) (st : Nat) (l : List PByte) => becomes i (fun u => u.net = s.net ++ s.responses (.pcie k) p st l none [] ∧
         u.host = taken.host)
       (∀ b, answers (.hostCompletion n (.data b)) 0 (completionData p b false) ∧
         (p.isAtomic = true → answers (.hostCompletion n (.poisoned b)) 5 []) ∧
         (p.isAtomic = false → answers (.hostCompletion n (.poisoned b)) 0 (completionData p b true))) ∧
       answers (.hostCompletion n .unsupported) 2 [] ∧ answers (.hostCompletion n .aborted) 2 [] ∧ answers (.hostCompletionTimeout n) 4 []) ∧
     (∀ l t, first = some (.flush l t) → ∀ i ∈ [Instr.hostCompletion n cpl, .hostCompletionTimeout n], becomes i (fun u => u.net = s.net ∧
       u.host = taken.host ∧ (u.tile t).flushing = (s.tile t).flushing.filter (fun w => w.link != k) ∧ (u.tile t).pad = (s.tile t).pad)) ∧
     (∀ l, first = some (.copy l) →
       (∀ b, exec (.hostCompletion n (.data b)) s = .next (taken.copyData k (some b)) ∧
         exec (.hostCompletion n (.poisoned b)) s = .next (taken.copyData k none)) ∧
       exec (.hostCompletion n .unsupported) s = .next (taken.copyData k none) ∧
       exec (.hostCompletion n .aborted) s = .next (taken.copyData k none) ∧ exec (.hostCompletionTimeout n) s = .next (taken.copyData k none))) ∧
    (if 4 ≤ gen.toNat ∧ gen.toNat ≤ 6 ∧ 1 ≤ width.toNat ∧ width.toNat ≤ 16 then ∃ w, exec (.linkTrain n gen width) s = .next (s.setReg0 (offLink k) w) ∧
        fld w 0 3 = gen.toNat ∧ fld w 3 5 = width.toNat ∧ w.getLsbD 8 = decide (gen = 6#3) ∧ fld w 9 55 = fld line 9 55
      else exec (.linkTrain n gen width) s = .next s) ∧
    becomes (.linkDown n) (fun u => u.linkUp k = false ∧ u.plots = s.plots ∧ u.tiles = s.tiles ∧
      u.host.owner = if s.host.owner = some k then none else s.host.owner) ∧
    (∃ w, exec (.atomicopRequesterEnable n on) s = .next (s.setReg0 (offLink k) w) ∧ ∀ b, w.getLsbD b = if b = 9 then on else line.getLsbD b)

/-- R160 to R162: the SPDM responder. Nothing answers without power; with no firmware every request is an error, and one out of
order is unexpected. Each transport, DOE of a PCIe function or MCTP, has a connection of its own, which agrees a version,
capabilities and algorithms in that order and answers over the transport by which the request came; digests, certificates,
challenges and measurements then answer for slot 0 and blocks 1 to 5; an unsupported request is answered with ERROR. The
codes and layouts are the model's own, after the SPDM standard (log entry 45). -/
def Obligations.SpdmResponder : Prop :=
  ∀ (s : State) (slot op code : BitVec 8) (off len seq : BitVec 16) (nonce : BitVec 256) (signed last : Bool) (chunk : List Byte),
    let v := s.spdmVia
    let ver := BitVec.ofNat 8 (s.chosen 965)
    let tells := fun (i : Instr) (code : Nat) (body : List Byte) (stage : Nat) (ver : BitVec 8) => ∃ u, exec i s = .next u ∧
      u.host.spdmSent = s.host.spdmSent ++ [{ via := v, ver := ver, code := code, body := body }] ∧ (u.conn v).stage = stage ∧ u.tiles = s.tiles ∧
      ∀ w, w ≠ v → u.conn w = s.conn w
    let stage := (s.conn v).stage
    let now := (s.conn v).ver
    let fails := fun (i : Instr) (e : Nat) => tells i 0x7F [BitVec.ofNat 8 e] stage now
    let chain := Config.certChain 0
    let small := fun (l : List Byte) => l.length ≤ 4096
    let known := code.toNat ∈ spdmRequests
    let needs : List (Instr × Nat) := [(.getVersion, 0), (.getCapabilities, 1), (.negotiateAlgorithms, 2), (.getDigests, 3),
      (.getCertificate slot off len, 3), (.challenge slot nonce, 3), (.getMeasurements op signed nonce, 3), (.chunkSend last chunk, 3),
      (.chunkGet seq, 3)]
    (∀ e ∈ needs, (s.module.step = 0 ∨ 5 ≤ v → exec e.1 s = .next s) ∧ (s.module.step = 2 → v < 5 → fails e.1 0x05) ∧
      (s.module.step ≠ 0 → s.module.step ≠ 2 → v < 5 → stage < e.2 → fails e.1 0x04)) ∧
    (known ∨ s.module.step = 0 ∨ 5 ≤ v → exec (.spdmUnsupported code) s = .next s) ∧
    (¬ known → s.module.step ≠ 0 → v < 5 → fails (.spdmUnsupported code) (if s.module.step = 2 then 0x05 else 0x07)) ∧
    (s.module.step ≠ 0 → s.module.step ≠ 2 → v < 5 →
      tells .getVersion 0x04 [0x12#8, 0x13#8] 1 0x10#8 ∧
      (1 ≤ stage →
        (ver = 0x12#8 ∨ ver = 0x13#8 → ∃ body, tells .getCapabilities 0x61 body 2 ver ∧ body.drop 4 = bytesOf 4096 4) ∧
        (ver ≠ 0x12#8 → ver ≠ 0x13#8 → fails .getCapabilities 0x41)) ∧
      (2 ≤ stage → ∃ body, tells .negotiateAlgorithms 0x63 body 3 now) ∧
      (3 ≤ stage →
        tells .getDigests 0x01 (1#8 :: bytesOf (Config.sha512 chain).toNat 64) stage now ∧
        (slot ≠ 0#8 → fails (.getCertificate slot off len) 0x01 ∧ fails (.challenge slot nonce) 0x01) ∧
        (let part := (chain.drop off.toNat).take len.toNat
         slot = 0#8 → off.toNat ≤ chain.length → part.length + 4 ≤ 4096 → ∃ head, head.length = 4 ∧
           tells (.getCertificate slot off len) 0x02 (head ++ part) stage now) ∧
        (slot = 0#8 → ∃ own sig, own.length = 32 ∧ sig = Config.ecdsaSign (bytesOf nonce.toNat 32 ++ (bytesOf (Config.sha512 chain).toNat 64 ++ own)) s.seed ∧
          (small (bytesOf (Config.sha512 chain).toNat 64 ++ own ++ sig) → tells (.challenge slot nonce) 0x03
            (bytesOf (Config.sha512 chain).toNat 64 ++ own ++ sig) stage now)) ∧
        (signed = false → (op = 0#8 → tells (.getMeasurements op signed nonce) 0x60 [5#8] stage now) ∧
          (1 ≤ op.toNat → op.toNat ≤ 5 → tells (.getMeasurements op signed nonce) 0x60 (s.measurement op.toNat) stage now) ∧
          (op = 0xFF#8 → tells (.getMeasurements op signed nonce) 0x60 ([1, 2, 3, 4, 5].flatMap s.measurement) stage now)) ∧
        (5 < op.toNat → op ≠ 0xFF#8 → fails (.getMeasurements op signed nonce) 0x01) ∧
        (small chunk → tells (.chunkSend last chunk) 0x05 (if last = true then [0x7F#8, 0x07#8] else []) stage now) ∧
        (let part := ((s.conn v).resp.drop (4096 * seq.toNat)).take 4096
         (part ≠ [] → tells (.chunkGet seq) 0x06 part stage now) ∧ (part = [] → fails (.chunkGet seq) 0x04)))) ∧
    s.measurement 5 = 5#8 :: bytesOf (Config.sha512 s.covered).toNat 64

/-! ### Steps, words and the whole machine -/

/-- R201, R202, R227, R434: what one step does, in terms of `exec`. An event of the schedule is `exec` of it, on the
state with the event taken off. A step of a tile's core whose active context stands at an issue group of one word is `exec` of the
decoded word: a word that completes leaves the context at the packet's next group, or at the packet's end; a
word that traps has no effect but its trap, unless the trap reports a status; a word that waits waits; SYSCALL and BRKPT are done as
they are; a cycle of the tile passes. In a group of two words the words are done in order; a trap of one leaves no effect of
either: a register that the second writes is undefined to the first (R202).
An event of a tile, port or stack that the wafer does not have (R27, R48, R121) stops with the fault `offWafer`. (The model's choices, no
rules of the spec: that a step is one issue cycle, log 56; what drives it, log 5; that a group waits whole, log 9; several traps in one
group, log 10; a read before its writer has landed, log 8.) -/
def Obligations.AStepRunsTheDecodedInstruction : Prop :=
    (∀ (s : State) (i : Instr) (c : AMap Nat) (l : List Move), s.schedule = .event i c :: l → encode 0#1 i = none →
      step s = exec i { s with seed := s.seed + 1, cur := {}, schedule := l, choices := c }) ∧
    (∀ (s b₀ : State) (t x w : Nat) (i : Instr), s.coreMove b₀ t → s.atWord t x w → s.wordAt t x w = some i →
      chained ((s.tile t).imemWord (s.ctx t x).pc w) = false →
      let b := b₀.issuing t x w w w ((s.tile t).imemWord (s.ctx t x).pc w)
      (∀ u, isCall i = false → exec i b = .next u →
        (u.cur.ended = .done → step s = .next ((u.pastGroup t x w).ticked t)) ∧
        (u.cur.ended = .trapped → step s =
          .next ((if u.cur.kept then u else b.raise u.cur.cause u.cur.info).ticked t)) ∧
        (u.cur.ended = .waits → step s = .next (u.ticked t))) ∧
      (∀ u, isCall i = true → exec i ((b₀.wentOn t x).issuing t x w w w ((s.tile t).imemWord (s.ctx t x).pc w)) = .next u →
        step s = .next (u.ticked t))) ∧
    (∀ (s b : State) (t x w : Nat) (i j : Instr), s.coreMove b t → s.atWord t x w → w < 2 →
      s.wordAt t x w = some i → s.wordAt t x (w + 1) = some j → isCall i = false → isCall j = false →
      let q := (s.tile t).imemWord (s.ctx t x).pc w
      let r := (s.tile t).imemWord (s.ctx t x).pc (w + 1)
      chained q = true → chained r = false →
      let b₁ := b.issuing t x w w (w + 1) q
      let h := b.writes t x (w + 1) w (w + 1) r j
      ∀ u, exec i { b₁ with cur := { b₁.cur with hidden := h } } = .next u →
        (u.cur.ended = .trapped → u.cur.kept = false →
          step s = .next ((b₁.raise u.cur.cause u.cur.info).ticked t)) ∧
        (u.cur.ended = .done →
          let b₂ := u.issuing t x (w + 1) w (w + 1) r
          let b₂ : State := { b₂ with cur := { b₂.cur with popped := u.cur.popped, trial := u.cur.trial } }
          let b₃ := b.issuing t x (w + 1) w (w + 1) r
          ∀ v, exec j b₂ = .next v →
            (v.cur.ended = .done → step s = .next ((v.pastGroup t x (w + 1)).ticked t)) ∧
            (v.cur.ended = .trapped → v.cur.kept = false →
              step s = .next ((b₃.raise v.cur.cause v.cur.info).ticked t)))) ∧
    (∀ (s : State) (t : BitVec 14) (p : BitVec 7) (k m : BitVec 6) (x bd sl : BitVec 2) (f : BitVec 6) (e : BitVec 4)
      (j : BitVec 3) (word : BitVec 15) (cause : BitVec 8) (v : W64) (va : BitVec 56),
      (15360 ≤ t.toNat →
        ∀ i ∈ [Instr.graftRequest t, .ticketIdleReturn (.tile t.toNat), .recallAnswer (.tile t.toNat), .payloadFullyWritten t f, .windowReturnSend t f,
          .lineRequestEmit t, .stampWaitRelease t, .cqEntry t, .powerGrant t, .monitorOverrun t e, .throttleEnd t,
          .bandGate t bd, .bandWakeDone t bd, .timingReplay t, .rasWindowExpiry t, .scrub t, .imemUncorrectable t word,
          .trapEntry t x cause v, .asyncTrapTake t x, .timerExpiry t x, .loopBack t x, .rngAppend t, .poisonRollback t,
          .rngSeedWrite t v, .chnCfgWrite t f v, .cauVecWrite t f v, .passCfgWrite t v, .rasThreshWrite t v,
          .matFinjWrite t v, .matFidWrite t x v, .matNestWrite t sl j v, .matrixOpStart t, .matrixRowEnd t,
          .matrixOpComplete t, .mldbComplete t, .transferComplete t, .illegalWord t x, .packetFetchFault t x],
          exec i s = .fault .offWafer) ∧
      (96 ≤ p.toNat →
        ∀ i ∈ [Instr.nakReceive p 0, .idleSend p, .narrowRestriped p, .narrowTimeout p, .portDarkTimeout p, .portWake p,
          .reconfDrained p, .reconfDrainTimeout p, .lightTimeout p, .heldPacketTimeout p],
          exec i s = .fault .offWafer) ∧
      (48 ≤ k.toNat →
        ∀ i ∈ [Instr.rackCommand k v, .rackCopyDone k va, .rackSwitchDone k va, .rackAbort k va,
          .shootdown k v, .shootdownInvalidate k m, .shootdownAck k m, .stackRetire k],
          exec i s = .fault .offWafer))

/-- R306 to R310: words written out from the spec's layouts decode to the instructions they stand for, at the positions
that allow them; the words that R310 refuses decode to nothing there. -/
def Obligations.SampleWordsDecode : Prop :=
  -- the packet of 15's first example
  decodeAt 0x8228C380#32 0 = some (.add 5 6 7) ∧ decodeAt 0x04411FFF#32 1 = some (.addi 8 8 (-1)) ∧
  decodeAt 0x4048A002#32 2 = some (.ldS32 9 1 2) ∧
  -- the examples of R331, R351 and R369
  decodeAt 0x0E280000#32 0 = some (.limm 5 0) ∧ decodeAt 0x102C8D15#32 0 = some (.lsh19 5 0x48D15) ∧
  decodeAt 0x2E380C28#32 0 = some (.spsc 7 40) ∧ decodeAt 0x2E380829#32 0 = some (.splc 7 41) ∧
  decodeAt 0x2E1803F0#32 0 = some (.splv 3 1008) ∧
  decodeAt 0x30410C8E#32 1 = some (.vclmul 4 2 3 1) ∧ decodeAt 0x30510C8F#32 1 = some (.vclmulh 5 2 3 1) ∧
  -- R310: fates of single words
  decodeAt 0#32 0 = some .nop ∧ decodeAt 0#32 1 = some .nop ∧ decodeAt 0#32 2 = some .nop ∧
  decodeAt 0x80000000#32 0 = some .nop ∧ decodeAt 0x80000000#32 1 = some .nop ∧ decodeAt 0x80000000#32 2 = none ∧
  decodeAt 0x60000000#32 0 = none ∧ decodeAt 0x60000000#32 1 = none ∧ decodeAt 0x60000000#32 2 = none ∧
  decodeAt 0x30000000#32 0 = none ∧ decodeAt 0x30000000#32 1 = some (.vadd 0 0 0 0) ∧ decodeAt 0x30000000#32 2 = none ∧
  decodeAt 0x02000007#32 0 = none ∧ decodeAt 0x02000007#32 1 = none ∧ decodeAt 0x02000007#32 2 = none

/-- R306 to R310: the word of an instruction decodes to it, with its chain bit; every operand has every value that its field
admits. -/
def Obligations.DecodingUndoesEncoding : Prop :=
  ∀ (ch : BitVec 1) (i : Instr) (w : W32), wellFormed i = true → encode ch i = some w → decodeWord w = some (ch == 1#1, i)

/-- R306 to R310: a word that decodes is the word of its instruction, bit for bit: no reserved field that R308 shows as 0 is
set, and no two words stand for one instruction. -/
def Obligations.ADecodedWordIsItsEncoding : Prop :=
  ∀ (w : W32) (c : Bool) (i : Instr), decodeWord w = some (c, i) →
    wellFormed i = true ∧ encode (if c then 1#1 else 0#1) i = some w

/-- Every memory of the machine is in its canonical form, and a step keeps that: equal memories stay equal data. The form
is the model's own (a byte that no memory lists reads 0, notes/assumptions/2.md); the memories are R199's instruction memory, R5's pad, the stacks, the mailbox buffers and the
event ring, the manifest flash, and the saved images of a plot (R185). -/
def Obligations.EveryStepKeepsTheMemoriesCanonical : Prop :=
  ∀ s t : State, s.memoriesWf → step s = .next t → t.memoriesWf

/-- Reset: every memory is canonical and empty, and the registers whose reset value the spec gives hold it: HOST_MOD_LIMIT (R25),
the optical registers (R57), CAU_VECf and HOST_CAU_FLD (R119, R120), MEM_RACK (R144), CTX_STATUS of contexts 1 to 3 (R168),
PWR_GRANT (R198), MAT_SHAPE and MAT_IDLE (R269), RAS_THRESH (R305). That a tile is not released and nothing is in flight is
the model's reading (notes/assumptions/1.md). -/
def Obligations.ResetHoldsTheSpecsValues : Prop :=
  let s := State.reset
  s.memoriesWf ∧
  (fld (s.reg0 0x00000) 0 12 = 0xE10 ∧ fld (s.reg0 0x00000) 12 12 = 0x4E2 ∧ fld (s.reg0 0x00000) 24 8 = 0x69 ∧
    fld (s.reg0 0x00000) 32 9 = 0x1F4 ∧ fld (s.reg0 0x00000) 41 11 = 0x44C) ∧
  (∀ p, p < 96 →
    fld (s.reg0 (0x30000 + 0x100 * p)) 2 2 = 3 ∧ fld (s.reg0 (0x30000 + 0x100 * p + 8)) 0 4 = 0xF ∧
    fld (s.reg0 (0x30000 + 0x100 * p + 0x10)) 0 8 = 10 ∧ fld (s.reg0 (0x30000 + 0x100 * p + 0x10)) 8 8 = 40 ∧
    fld (s.reg0 (0x30000 + 0x100 * p + 0x10)) 16 8 = 16 ∧ fld (s.reg0 (0x30000 + 0x100 * p + 0x10)) 40 8 = 0x28) ∧
  (∀ k, k < 48 → fld (s.reg0 (0x50000 + 0x100 * k + 8)) 0 16 = 0xFFFF ∧ fld (s.reg0 (0x50000 + 0x100 * k + 8)) 16 4 = 10) ∧
  (∀ f, f < 64 → (s.field f).stable = 0xFFFF#16 ∧ (s.field f).next = 0#16) ∧
  (∀ t, t < 15360 →
    (s.tile t).released = false ∧
    (∀ x, x < 4 → (s.ctx t x).st = 0 ∧ (s.ctx t x).cr 0x400 = 0xF#64) ∧
    (∀ f, f < 64 → fld ((s.tile t).cr (0x600 + f)) 0 16 = 0xFFFF ∧ fld ((s.tile t).cr (0x600 + f)) 16 16 = 0xFFFF) ∧
    (s.tile t).cr 0x402 = 0x1000#64 ∧ fld ((s.tile t).cr 0x501) 0 4 = 1 ∧
    fld ((s.tile t).cr 0x787) 0 8 = 0x40 ∧ fld ((s.tile t).cr 0x787) 8 12 = 0x800 ∧ fld ((s.tile t).cr 0x787) 20 8 = 0x40 ∧
    fld ((s.tile t).cr 0x787) 28 12 = 0x400 ∧ fld ((s.tile t).cr 0x787) 40 8 = 0x10 ∧ fld ((s.tile t).cr 0x787) 48 4 = 4) ∧
  s.net = [] ∧ s.schedule = []
end

