-- ==== Sys2Proof/Laws/Encode.lean ====
section
/-! SUPPORT. Reading a field back from a word laid out by `push`: the lemmas that turn `rowOf` of an
`encode` into the instruction, by simp with `decide` as discharger. -/

namespace Sys2Proof

/-- A slice inside the field laid out last. -/
theorem slice_push_low {m : Nat} (acc : Nat) (x : BitVec m) (lo k : Nat) (h : lo + k ≤ m) :
    slice (push acc x) lo k = x.extractLsb' lo k := by
  apply BitVec.eq_of_toNat_eq
  simp only [slice, push, BitVec.toNat_ofNat, BitVec.extractLsb'_toNat, Nat.shiftRight_eq_div_pow]
  obtain ⟨e, rfl⟩ : ∃ e, m = lo + k + e := ⟨m - lo - k, by omega⟩
  rw [show acc * 2 ^ (lo + k + e) = 2 ^ lo * (2 ^ k * (acc * 2 ^ e)) by
    rw [pow_add, pow_add]; ring, Nat.mul_add_div (Nat.two_pow_pos lo), Nat.mul_add_mod]

/-- A slice above the field laid out last. -/
theorem slice_push_high {m : Nat} (acc : Nat) (x : BitVec m) (lo k : Nat) (h : m ≤ lo) :
    slice (push acc x) lo k = slice acc (lo - m) k := by
  obtain ⟨e, rfl⟩ : ∃ e, lo = m + e := ⟨lo - m, by omega⟩
  simp only [slice, push, Nat.shiftRight_eq_div_pow, pow_add, ← Nat.div_div_eq_div_mul]
  rw [Nat.mul_comm acc, Nat.mul_add_div (Nat.two_pow_pos m), Nat.div_eq_of_lt x.isLt,
    Nat.add_sub_cancel_left]
  simp

/-- The whole of one field. -/
theorem slice_self {m : Nat} (x : BitVec m) : slice x.toNat 0 m = x := by simp [slice]

/-- A slice of a 32-bit word sees nothing above bit 31. -/
theorem slice_mod (n lo k : Nat) (h : lo + k ≤ 32) : slice (n % 4294967296) lo k = slice n lo k := by
  obtain ⟨e, he⟩ : ∃ e, 32 = lo + k + e := ⟨32 - lo - k, by omega⟩
  apply BitVec.eq_of_toNat_eq
  simp only [slice, BitVec.toNat_ofNat, Nat.shiftRight_eq_div_pow]
  rw [show 4294967296 = 2 ^ lo * (2 ^ k * 2 ^ e) by
    rw [← pow_add, ← pow_add, ← Nat.add_assoc, ← he]; rfl,
    Nat.mod_mul_right_div_self, Nat.mod_mul_right_mod]

end Sys2Proof
end

