-- ==== Sys2Proof/Laws/Map.lean ====
section
/-! SUPPORT. The laws of sparse tables: read after write, and the canonical form. -/

namespace Sys2Proof.Machine

variable {α : Type}

@[simp] theorem mget_nil (d : α) (k : Nat) : mget d [] k = d := rfl

/-- Read after insertion. -/
@[simp] theorem mget_mput_same (d : α) (m : AMap α) (k : Nat) (v : α) : mget d (mput m k v) k = v := by
  induction m with
  | nil => simp [mput, mget]
  | cons p m ih =>
    obtain ⟨k', v'⟩ := p
    rw [mput]
    split
    · simp [mget]
    · split
      · simp [mget]
      · rw [mget, if_neg (by omega), ih]

/-- An insertion leaves every other key alone. -/
theorem mget_mput_other (d : α) (m : AMap α) {k j : Nat} (v : α) (hj : j ≠ k) :
    mget d (mput m k v) j = mget d m j := by
  induction m with
  | nil => simp [mput, mget, hj]
  | cons p m ih =>
    obtain ⟨k', v'⟩ := p
    rw [mput]
    split
    · simp [mget, hj]
    · split
      · rename_i hk; subst hk; simp [mget, hj]
      · simp only [mget]; split
        · rfl
        · exact ih

/-- Taking a key out leaves the default there. -/
@[simp] theorem mget_mdel_same (d : α) (m : AMap α) (k : Nat) : mget d (mdel m k) k = d := by
  induction m with
  | nil => rfl
  | cons p m ih =>
    obtain ⟨k', v'⟩ := p
    by_cases hk : k' = k
    · simpa [mdel, hk] using ih
    · simp only [mdel, List.filter_cons, bne_iff_ne, ne_eq, hk, not_false_eq_true, if_true, mget]
      rw [if_neg (Ne.symm hk)]; exact ih

/-- Taking a key out leaves every other key alone. -/
theorem mget_mdel_other (d : α) (m : AMap α) {k j : Nat} (hj : j ≠ k) : mget d (mdel m k) j = mget d m j := by
  induction m with
  | nil => rfl
  | cons p m ih =>
    obtain ⟨k', v'⟩ := p
    by_cases hk : k' = k
    · subst hk; simpa [mdel, mget, hj] using ih
    · simp only [mdel, List.filter_cons, bne_iff_ne, ne_eq, hk, not_false_eq_true, if_true, mget]
      split
      · rfl
      · exact ih

/-- The value written is the value read. -/
@[simp] theorem mget_mset_same [DecidableEq α] (d : α) (m : AMap α) (k : Nat) (v : α) :
    mget d (mset d m k v) k = v := by
  unfold mset; split
  · simp [*]
  · simp

/-- A write leaves every other key alone. -/
theorem mget_mset_other [DecidableEq α] (d : α) (m : AMap α) {k j : Nat} (v : α) (hj : j ≠ k) :
    mget d (mset d m k v) j = mget d m j := by
  unfold mset; split
  · exact mget_mdel_other d m hj
  · exact mget_mput_other d m v hj

/-- The same where the two keys have defaults of their own, as registers with reset values do. -/
theorem mget_mset_other_default [DecidableEq α] (d e : α) (m : AMap α) {k j : Nat} (v : α) (hj : j ≠ k) :
    mget d (mset e m k v) j = mget d m j := by
  unfold mset; split
  · exact mget_mdel_other d m hj
  · exact mget_mput_other d m v hj

theorem mwfFrom_mono [DecidableEq α] (d : α) : ∀ (m : AMap α) {lo lo' : Nat}, lo' ≤ lo → mwfFrom d lo m = true →
    mwfFrom d lo' m = true
  | [], _, _, _, _ => rfl
  | (k, v) :: m, lo, lo', hl, h => by
    simp only [mwfFrom, Bool.and_eq_true, decide_eq_true_eq] at h ⊢
    exact ⟨⟨by omega, h.1.2⟩, h.2⟩

theorem mwfFrom_mdel [DecidableEq α] (d : α) (k : Nat) (m : AMap α) : ∀ {lo : Nat}, mwfFrom d lo m = true →
    mwfFrom d lo (mdel m k) = true := by
  induction m with
  | nil => intros; rfl
  | cons p m ih =>
    intro lo h
    obtain ⟨k', v'⟩ := p
    simp only [mwfFrom, Bool.and_eq_true, decide_eq_true_eq] at h
    by_cases hk : k' = k
    · have := ih h.2
      simpa [mdel, hk] using mwfFrom_mono d _ (show lo ≤ k' + 1 by omega) this
    · simp only [mdel, List.filter_cons, bne_iff_ne, ne_eq, hk, not_false_eq_true, if_true, mwfFrom, Bool.and_eq_true,
        decide_eq_true_eq]
      exact ⟨h.1, ih h.2⟩

theorem mwfFrom_mput [DecidableEq α] (d : α) (k : Nat) (v : α) (hv : v ≠ d) (m : AMap α) : ∀ {lo : Nat}, lo ≤ k →
    mwfFrom d lo m = true → mwfFrom d lo (mput m k v) = true := by
  induction m with
  | nil => intro lo hl _; simp [mput, mwfFrom, hv, hl]
  | cons p m ih =>
    intro lo hl h
    obtain ⟨k', v'⟩ := p
    simp only [mwfFrom, Bool.and_eq_true, decide_eq_true_eq] at h
    rw [mput]
    split
    · simp only [mwfFrom, Bool.and_eq_true, decide_eq_true_eq]
      exact ⟨⟨hl, hv⟩, ⟨by omega, h.1.2⟩, h.2⟩
    · split
      · rename_i hk; subst hk
        simp only [mwfFrom, Bool.and_eq_true, decide_eq_true_eq]
        exact ⟨⟨hl, hv⟩, h.2⟩
      · simp only [mwfFrom, Bool.and_eq_true, decide_eq_true_eq]
        exact ⟨h.1, ih (by omega) h.2⟩

/-- A write keeps the canonical form. -/
theorem mwf_mset [DecidableEq α] (d : α) (m : AMap α) (k : Nat) (v : α) (h : mwf d m = true) :
    mwf d (mset d m k v) = true := by
  unfold mset; split
  · exact mwfFrom_mdel d k m h
  · exact mwfFrom_mput d k v ‹_› m (Nat.zero_le k) h

@[simp] theorem mwf_nil [DecidableEq α] (d : α) : mwf d [] = true := rfl

theorem mwf_writeBytes (n : Nat) : ∀ (m : AMap Byte) (a v : Nat), mwf 0#8 m = true →
    mwf 0#8 (writeBytes m a n v) = true := by
  induction n with
  | zero => intros; assumption
  | succ n ih => intro m a v h; exact ih _ _ _ (mwf_mset _ _ _ _ h)

theorem mwf_putBytes (bs : List Byte) : ∀ (m : AMap Byte) (a : Nat), mwf 0#8 m = true →
    mwf 0#8 (putBytes m a bs) = true := by
  induction bs with
  | nil => intros; assumption
  | cons b bs ih => intro m a h; exact ih _ _ (mwf_mset _ _ _ _ h)

/-- A write of `n` bytes leaves every byte outside them alone. -/
theorem mget_writeBytes_outside (n : Nat) : ∀ (m : AMap Byte) (a v j : Nat), (j < a ∨ a + n ≤ j) →
    mget 0#8 (writeBytes m a n v) j = mget 0#8 m j := by
  induction n with
  | zero => intros; rfl
  | succ n ih =>
    intro m a v j h
    rw [writeBytes, ih _ _ _ _ (by omega), mget_mset_other _ _ _ (by omega)]

end Sys2Proof.Machine
end

