-- ==== Sys2Proof/Laws/State.lean ====
section
/-! SUPPORT. What each update of the state leaves alone, one lemma a field, each true by `rfl`: no later proof unfolds a
record update. -/

namespace Sys2Proof.Machine

open Sys2Proof

/-! ### Updates of the whole state -/

@[simp] theorem State.setTile_module (s : State) (t : Nat) (T : Tile) : (s.setTile t T).module = s.module := rfl
@[simp] theorem State.setTile_fields (s : State) (t : Nat) (T : Tile) : (s.setTile t T).fields = s.fields := rfl
@[simp] theorem State.setTile_map (s : State) (t : Nat) (T : Tile) : (s.setTile t T).map = s.map := rfl
@[simp] theorem State.setTile_sites (s : State) (t : Nat) (T : Tile) : (s.setTile t T).sites = s.sites := rfl
@[simp] theorem State.setTile_ports (s : State) (t : Nat) (T : Tile) : (s.setTile t T).ports = s.ports := rfl
@[simp] theorem State.setTile_cellars (s : State) (t : Nat) (T : Tile) : (s.setTile t T).cellars = s.cellars := rfl
@[simp] theorem State.setTile_bar0 (s : State) (t : Nat) (T : Tile) : (s.setTile t T).bar0 = s.bar0 := rfl
@[simp] theorem State.setTile_host (s : State) (t : Nat) (T : Tile) : (s.setTile t T).host = s.host := rfl
@[simp] theorem State.setTile_plots (s : State) (t : Nat) (T : Tile) : (s.setTile t T).plots = s.plots := rfl
@[simp] theorem State.setTile_gvec (s : State) (t : Nat) (T : Tile) : (s.setTile t T).gvec = s.gvec := rfl
@[simp] theorem State.setTile_gcasts (s : State) (t : Nat) (T : Tile) : (s.setTile t T).gcasts = s.gcasts := rfl
@[simp] theorem State.setTile_net (s : State) (t : Nat) (T : Tile) : (s.setTile t T).net = s.net := rfl
@[simp] theorem State.setTile_detours (s : State) (t : Nat) (T : Tile) : (s.setTile t T).detours = s.detours := rfl
@[simp] theorem State.setTile_vint (s : State) (t : Nat) (T : Tile) : (s.setTile t T).vint = s.vint := rfl
@[simp] theorem State.setTile_remapDue (s : State) (t : Nat) (T : Tile) : (s.setTile t T).remapDue = s.remapDue := rfl
@[simp] theorem State.setTile_resyncDue (s : State) (t : Nat) (T : Tile) : (s.setTile t T).resyncDue = s.resyncDue := rfl
@[simp] theorem State.setTile_remapSites (s : State) (t : Nat) (T : Tile) : (s.setTile t T).remapSites = s.remapSites := rfl
@[simp] theorem State.setTile_remapOut (s : State) (t : Nat) (T : Tile) : (s.setTile t T).remapOut = s.remapOut := rfl
@[simp] theorem State.setTile_resyncOut (s : State) (t : Nat) (T : Tile) : (s.setTile t T).resyncOut = s.resyncOut := rfl
@[simp] theorem State.setTile_ctrlAcks (s : State) (t : Nat) (T : Tile) : (s.setTile t T).ctrlAcks = s.ctrlAcks := rfl
@[simp] theorem State.setTile_attach (s : State) (t : Nat) (T : Tile) : (s.setTile t T).attach = s.attach := rfl
@[simp] theorem State.setTile_cur (s : State) (t : Nat) (T : Tile) : (s.setTile t T).cur = s.cur := rfl
@[simp] theorem State.setTile_schedule (s : State) (t : Nat) (T : Tile) : (s.setTile t T).schedule = s.schedule := rfl
@[simp] theorem State.setTile_focus (s : State) (t : Nat) (T : Tile) : (s.setTile t T).focus = s.focus := rfl
@[simp] theorem State.setTile_choices (s : State) (t : Nat) (T : Tile) : (s.setTile t T).choices = s.choices := rfl
@[simp] theorem State.setTile_seed (s : State) (t : Nat) (T : Tile) : (s.setTile t T).seed = s.seed := rfl

@[simp] theorem State.modTile_module (s : State) (t : Nat) (f : Tile → Tile) : (s.modTile t f).module = s.module := rfl
@[simp] theorem State.modTile_fields (s : State) (t : Nat) (f : Tile → Tile) : (s.modTile t f).fields = s.fields := rfl
@[simp] theorem State.modTile_map (s : State) (t : Nat) (f : Tile → Tile) : (s.modTile t f).map = s.map := rfl
@[simp] theorem State.modTile_sites (s : State) (t : Nat) (f : Tile → Tile) : (s.modTile t f).sites = s.sites := rfl
@[simp] theorem State.modTile_ports (s : State) (t : Nat) (f : Tile → Tile) : (s.modTile t f).ports = s.ports := rfl
@[simp] theorem State.modTile_cellars (s : State) (t : Nat) (f : Tile → Tile) : (s.modTile t f).cellars = s.cellars := rfl
@[simp] theorem State.modTile_bar0 (s : State) (t : Nat) (f : Tile → Tile) : (s.modTile t f).bar0 = s.bar0 := rfl
@[simp] theorem State.modTile_host (s : State) (t : Nat) (f : Tile → Tile) : (s.modTile t f).host = s.host := rfl
@[simp] theorem State.modTile_plots (s : State) (t : Nat) (f : Tile → Tile) : (s.modTile t f).plots = s.plots := rfl
@[simp] theorem State.modTile_gvec (s : State) (t : Nat) (f : Tile → Tile) : (s.modTile t f).gvec = s.gvec := rfl
@[simp] theorem State.modTile_gcasts (s : State) (t : Nat) (f : Tile → Tile) : (s.modTile t f).gcasts = s.gcasts := rfl
@[simp] theorem State.modTile_net (s : State) (t : Nat) (f : Tile → Tile) : (s.modTile t f).net = s.net := rfl
@[simp] theorem State.modTile_detours (s : State) (t : Nat) (f : Tile → Tile) : (s.modTile t f).detours = s.detours := rfl
@[simp] theorem State.modTile_vint (s : State) (t : Nat) (f : Tile → Tile) : (s.modTile t f).vint = s.vint := rfl
@[simp] theorem State.modTile_remapDue (s : State) (t : Nat) (f : Tile → Tile) : (s.modTile t f).remapDue = s.remapDue := rfl
@[simp] theorem State.modTile_resyncDue (s : State) (t : Nat) (f : Tile → Tile) : (s.modTile t f).resyncDue = s.resyncDue := rfl
@[simp] theorem State.modTile_remapSites (s : State) (t : Nat) (f : Tile → Tile) : (s.modTile t f).remapSites = s.remapSites := rfl
@[simp] theorem State.modTile_remapOut (s : State) (t : Nat) (f : Tile → Tile) : (s.modTile t f).remapOut = s.remapOut := rfl
@[simp] theorem State.modTile_resyncOut (s : State) (t : Nat) (f : Tile → Tile) : (s.modTile t f).resyncOut = s.resyncOut := rfl
@[simp] theorem State.modTile_ctrlAcks (s : State) (t : Nat) (f : Tile → Tile) : (s.modTile t f).ctrlAcks = s.ctrlAcks := rfl
@[simp] theorem State.modTile_attach (s : State) (t : Nat) (f : Tile → Tile) : (s.modTile t f).attach = s.attach := rfl
@[simp] theorem State.modTile_cur (s : State) (t : Nat) (f : Tile → Tile) : (s.modTile t f).cur = s.cur := rfl
@[simp] theorem State.modTile_schedule (s : State) (t : Nat) (f : Tile → Tile) : (s.modTile t f).schedule = s.schedule := rfl
@[simp] theorem State.modTile_focus (s : State) (t : Nat) (f : Tile → Tile) : (s.modTile t f).focus = s.focus := rfl
@[simp] theorem State.modTile_choices (s : State) (t : Nat) (f : Tile → Tile) : (s.modTile t f).choices = s.choices := rfl
@[simp] theorem State.modTile_seed (s : State) (t : Nat) (f : Tile → Tile) : (s.modTile t f).seed = s.seed := rfl

@[simp] theorem State.modCtx_module (s : State) (t x : Nat) (f : Ctx → Ctx) : (s.modCtx t x f).module = s.module := rfl
@[simp] theorem State.modCtx_fields (s : State) (t x : Nat) (f : Ctx → Ctx) : (s.modCtx t x f).fields = s.fields := rfl
@[simp] theorem State.modCtx_map (s : State) (t x : Nat) (f : Ctx → Ctx) : (s.modCtx t x f).map = s.map := rfl
@[simp] theorem State.modCtx_sites (s : State) (t x : Nat) (f : Ctx → Ctx) : (s.modCtx t x f).sites = s.sites := rfl
@[simp] theorem State.modCtx_ports (s : State) (t x : Nat) (f : Ctx → Ctx) : (s.modCtx t x f).ports = s.ports := rfl
@[simp] theorem State.modCtx_cellars (s : State) (t x : Nat) (f : Ctx → Ctx) : (s.modCtx t x f).cellars = s.cellars := rfl
@[simp] theorem State.modCtx_bar0 (s : State) (t x : Nat) (f : Ctx → Ctx) : (s.modCtx t x f).bar0 = s.bar0 := rfl
@[simp] theorem State.modCtx_host (s : State) (t x : Nat) (f : Ctx → Ctx) : (s.modCtx t x f).host = s.host := rfl
@[simp] theorem State.modCtx_plots (s : State) (t x : Nat) (f : Ctx → Ctx) : (s.modCtx t x f).plots = s.plots := rfl
@[simp] theorem State.modCtx_gvec (s : State) (t x : Nat) (f : Ctx → Ctx) : (s.modCtx t x f).gvec = s.gvec := rfl
@[simp] theorem State.modCtx_gcasts (s : State) (t x : Nat) (f : Ctx → Ctx) : (s.modCtx t x f).gcasts = s.gcasts := rfl
@[simp] theorem State.modCtx_net (s : State) (t x : Nat) (f : Ctx → Ctx) : (s.modCtx t x f).net = s.net := rfl
@[simp] theorem State.modCtx_detours (s : State) (t x : Nat) (f : Ctx → Ctx) : (s.modCtx t x f).detours = s.detours := rfl
@[simp] theorem State.modCtx_vint (s : State) (t x : Nat) (f : Ctx → Ctx) : (s.modCtx t x f).vint = s.vint := rfl
@[simp] theorem State.modCtx_remapDue (s : State) (t x : Nat) (f : Ctx → Ctx) : (s.modCtx t x f).remapDue = s.remapDue := rfl
@[simp] theorem State.modCtx_resyncDue (s : State) (t x : Nat) (f : Ctx → Ctx) : (s.modCtx t x f).resyncDue = s.resyncDue := rfl
@[simp] theorem State.modCtx_remapSites (s : State) (t x : Nat) (f : Ctx → Ctx) : (s.modCtx t x f).remapSites = s.remapSites := rfl
@[simp] theorem State.modCtx_remapOut (s : State) (t x : Nat) (f : Ctx → Ctx) : (s.modCtx t x f).remapOut = s.remapOut := rfl
@[simp] theorem State.modCtx_resyncOut (s : State) (t x : Nat) (f : Ctx → Ctx) : (s.modCtx t x f).resyncOut = s.resyncOut := rfl
@[simp] theorem State.modCtx_ctrlAcks (s : State) (t x : Nat) (f : Ctx → Ctx) : (s.modCtx t x f).ctrlAcks = s.ctrlAcks := rfl
@[simp] theorem State.modCtx_attach (s : State) (t x : Nat) (f : Ctx → Ctx) : (s.modCtx t x f).attach = s.attach := rfl
@[simp] theorem State.modCtx_cur (s : State) (t x : Nat) (f : Ctx → Ctx) : (s.modCtx t x f).cur = s.cur := rfl
@[simp] theorem State.modCtx_schedule (s : State) (t x : Nat) (f : Ctx → Ctx) : (s.modCtx t x f).schedule = s.schedule := rfl
@[simp] theorem State.modCtx_focus (s : State) (t x : Nat) (f : Ctx → Ctx) : (s.modCtx t x f).focus = s.focus := rfl
@[simp] theorem State.modCtx_choices (s : State) (t x : Nat) (f : Ctx → Ctx) : (s.modCtx t x f).choices = s.choices := rfl
@[simp] theorem State.modCtx_seed (s : State) (t x : Nat) (f : Ctx → Ctx) : (s.modCtx t x f).seed = s.seed := rfl

@[simp] theorem State.modHere_module (s : State) (f : Tile → Tile) : (s.modHere f).module = s.module := rfl
@[simp] theorem State.modHere_fields (s : State) (f : Tile → Tile) : (s.modHere f).fields = s.fields := rfl
@[simp] theorem State.modHere_map (s : State) (f : Tile → Tile) : (s.modHere f).map = s.map := rfl
@[simp] theorem State.modHere_sites (s : State) (f : Tile → Tile) : (s.modHere f).sites = s.sites := rfl
@[simp] theorem State.modHere_ports (s : State) (f : Tile → Tile) : (s.modHere f).ports = s.ports := rfl
@[simp] theorem State.modHere_cellars (s : State) (f : Tile → Tile) : (s.modHere f).cellars = s.cellars := rfl
@[simp] theorem State.modHere_bar0 (s : State) (f : Tile → Tile) : (s.modHere f).bar0 = s.bar0 := rfl
@[simp] theorem State.modHere_host (s : State) (f : Tile → Tile) : (s.modHere f).host = s.host := rfl
@[simp] theorem State.modHere_plots (s : State) (f : Tile → Tile) : (s.modHere f).plots = s.plots := rfl
@[simp] theorem State.modHere_gvec (s : State) (f : Tile → Tile) : (s.modHere f).gvec = s.gvec := rfl
@[simp] theorem State.modHere_gcasts (s : State) (f : Tile → Tile) : (s.modHere f).gcasts = s.gcasts := rfl
@[simp] theorem State.modHere_net (s : State) (f : Tile → Tile) : (s.modHere f).net = s.net := rfl
@[simp] theorem State.modHere_detours (s : State) (f : Tile → Tile) : (s.modHere f).detours = s.detours := rfl
@[simp] theorem State.modHere_vint (s : State) (f : Tile → Tile) : (s.modHere f).vint = s.vint := rfl
@[simp] theorem State.modHere_remapDue (s : State) (f : Tile → Tile) : (s.modHere f).remapDue = s.remapDue := rfl
@[simp] theorem State.modHere_resyncDue (s : State) (f : Tile → Tile) : (s.modHere f).resyncDue = s.resyncDue := rfl
@[simp] theorem State.modHere_remapSites (s : State) (f : Tile → Tile) : (s.modHere f).remapSites = s.remapSites := rfl
@[simp] theorem State.modHere_remapOut (s : State) (f : Tile → Tile) : (s.modHere f).remapOut = s.remapOut := rfl
@[simp] theorem State.modHere_resyncOut (s : State) (f : Tile → Tile) : (s.modHere f).resyncOut = s.resyncOut := rfl
@[simp] theorem State.modHere_ctrlAcks (s : State) (f : Tile → Tile) : (s.modHere f).ctrlAcks = s.ctrlAcks := rfl
@[simp] theorem State.modHere_attach (s : State) (f : Tile → Tile) : (s.modHere f).attach = s.attach := rfl
@[simp] theorem State.modHere_cur (s : State) (f : Tile → Tile) : (s.modHere f).cur = s.cur := rfl
@[simp] theorem State.modHere_schedule (s : State) (f : Tile → Tile) : (s.modHere f).schedule = s.schedule := rfl
@[simp] theorem State.modHere_focus (s : State) (f : Tile → Tile) : (s.modHere f).focus = s.focus := rfl
@[simp] theorem State.modHere_choices (s : State) (f : Tile → Tile) : (s.modHere f).choices = s.choices := rfl
@[simp] theorem State.modHere_seed (s : State) (f : Tile → Tile) : (s.modHere f).seed = s.seed := rfl

@[simp] theorem State.modMe_module (s : State) (f : Ctx → Ctx) : (s.modMe f).module = s.module := rfl
@[simp] theorem State.modMe_fields (s : State) (f : Ctx → Ctx) : (s.modMe f).fields = s.fields := rfl
@[simp] theorem State.modMe_map (s : State) (f : Ctx → Ctx) : (s.modMe f).map = s.map := rfl
@[simp] theorem State.modMe_sites (s : State) (f : Ctx → Ctx) : (s.modMe f).sites = s.sites := rfl
@[simp] theorem State.modMe_ports (s : State) (f : Ctx → Ctx) : (s.modMe f).ports = s.ports := rfl
@[simp] theorem State.modMe_cellars (s : State) (f : Ctx → Ctx) : (s.modMe f).cellars = s.cellars := rfl
@[simp] theorem State.modMe_bar0 (s : State) (f : Ctx → Ctx) : (s.modMe f).bar0 = s.bar0 := rfl
@[simp] theorem State.modMe_host (s : State) (f : Ctx → Ctx) : (s.modMe f).host = s.host := rfl
@[simp] theorem State.modMe_plots (s : State) (f : Ctx → Ctx) : (s.modMe f).plots = s.plots := rfl
@[simp] theorem State.modMe_gvec (s : State) (f : Ctx → Ctx) : (s.modMe f).gvec = s.gvec := rfl
@[simp] theorem State.modMe_gcasts (s : State) (f : Ctx → Ctx) : (s.modMe f).gcasts = s.gcasts := rfl
@[simp] theorem State.modMe_net (s : State) (f : Ctx → Ctx) : (s.modMe f).net = s.net := rfl
@[simp] theorem State.modMe_detours (s : State) (f : Ctx → Ctx) : (s.modMe f).detours = s.detours := rfl
@[simp] theorem State.modMe_vint (s : State) (f : Ctx → Ctx) : (s.modMe f).vint = s.vint := rfl
@[simp] theorem State.modMe_remapDue (s : State) (f : Ctx → Ctx) : (s.modMe f).remapDue = s.remapDue := rfl
@[simp] theorem State.modMe_resyncDue (s : State) (f : Ctx → Ctx) : (s.modMe f).resyncDue = s.resyncDue := rfl
@[simp] theorem State.modMe_remapSites (s : State) (f : Ctx → Ctx) : (s.modMe f).remapSites = s.remapSites := rfl
@[simp] theorem State.modMe_remapOut (s : State) (f : Ctx → Ctx) : (s.modMe f).remapOut = s.remapOut := rfl
@[simp] theorem State.modMe_resyncOut (s : State) (f : Ctx → Ctx) : (s.modMe f).resyncOut = s.resyncOut := rfl
@[simp] theorem State.modMe_ctrlAcks (s : State) (f : Ctx → Ctx) : (s.modMe f).ctrlAcks = s.ctrlAcks := rfl
@[simp] theorem State.modMe_attach (s : State) (f : Ctx → Ctx) : (s.modMe f).attach = s.attach := rfl
@[simp] theorem State.modMe_cur (s : State) (f : Ctx → Ctx) : (s.modMe f).cur = s.cur := rfl
@[simp] theorem State.modMe_schedule (s : State) (f : Ctx → Ctx) : (s.modMe f).schedule = s.schedule := rfl
@[simp] theorem State.modMe_focus (s : State) (f : Ctx → Ctx) : (s.modMe f).focus = s.focus := rfl
@[simp] theorem State.modMe_choices (s : State) (f : Ctx → Ctx) : (s.modMe f).choices = s.choices := rfl
@[simp] theorem State.modMe_seed (s : State) (f : Ctx → Ctx) : (s.modMe f).seed = s.seed := rfl

@[simp] theorem State.setReg0_module (s : State) (off : Nat) (v : W64) : (s.setReg0 off v).module = s.module := rfl
@[simp] theorem State.setReg0_fields (s : State) (off : Nat) (v : W64) : (s.setReg0 off v).fields = s.fields := rfl
@[simp] theorem State.setReg0_map (s : State) (off : Nat) (v : W64) : (s.setReg0 off v).map = s.map := rfl
@[simp] theorem State.setReg0_sites (s : State) (off : Nat) (v : W64) : (s.setReg0 off v).sites = s.sites := rfl
@[simp] theorem State.setReg0_tiles (s : State) (off : Nat) (v : W64) : (s.setReg0 off v).tiles = s.tiles := rfl
@[simp] theorem State.setReg0_ports (s : State) (off : Nat) (v : W64) : (s.setReg0 off v).ports = s.ports := rfl
@[simp] theorem State.setReg0_cellars (s : State) (off : Nat) (v : W64) : (s.setReg0 off v).cellars = s.cellars := rfl
@[simp] theorem State.setReg0_host (s : State) (off : Nat) (v : W64) : (s.setReg0 off v).host = s.host := rfl
@[simp] theorem State.setReg0_plots (s : State) (off : Nat) (v : W64) : (s.setReg0 off v).plots = s.plots := rfl
@[simp] theorem State.setReg0_gvec (s : State) (off : Nat) (v : W64) : (s.setReg0 off v).gvec = s.gvec := rfl
@[simp] theorem State.setReg0_gcasts (s : State) (off : Nat) (v : W64) : (s.setReg0 off v).gcasts = s.gcasts := rfl
@[simp] theorem State.setReg0_net (s : State) (off : Nat) (v : W64) : (s.setReg0 off v).net = s.net := rfl
@[simp] theorem State.setReg0_detours (s : State) (off : Nat) (v : W64) : (s.setReg0 off v).detours = s.detours := rfl
@[simp] theorem State.setReg0_vint (s : State) (off : Nat) (v : W64) : (s.setReg0 off v).vint = s.vint := rfl
@[simp] theorem State.setReg0_remapDue (s : State) (off : Nat) (v : W64) : (s.setReg0 off v).remapDue = s.remapDue := rfl
@[simp] theorem State.setReg0_resyncDue (s : State) (off : Nat) (v : W64) : (s.setReg0 off v).resyncDue = s.resyncDue := rfl
@[simp] theorem State.setReg0_remapSites (s : State) (off : Nat) (v : W64) : (s.setReg0 off v).remapSites = s.remapSites := rfl
@[simp] theorem State.setReg0_remapOut (s : State) (off : Nat) (v : W64) : (s.setReg0 off v).remapOut = s.remapOut := rfl
@[simp] theorem State.setReg0_resyncOut (s : State) (off : Nat) (v : W64) : (s.setReg0 off v).resyncOut = s.resyncOut := rfl
@[simp] theorem State.setReg0_ctrlAcks (s : State) (off : Nat) (v : W64) : (s.setReg0 off v).ctrlAcks = s.ctrlAcks := rfl
@[simp] theorem State.setReg0_attach (s : State) (off : Nat) (v : W64) : (s.setReg0 off v).attach = s.attach := rfl
@[simp] theorem State.setReg0_cur (s : State) (off : Nat) (v : W64) : (s.setReg0 off v).cur = s.cur := rfl
@[simp] theorem State.setReg0_schedule (s : State) (off : Nat) (v : W64) : (s.setReg0 off v).schedule = s.schedule := rfl
@[simp] theorem State.setReg0_focus (s : State) (off : Nat) (v : W64) : (s.setReg0 off v).focus = s.focus := rfl
@[simp] theorem State.setReg0_choices (s : State) (off : Nat) (v : W64) : (s.setReg0 off v).choices = s.choices := rfl
@[simp] theorem State.setReg0_seed (s : State) (off : Nat) (v : W64) : (s.setReg0 off v).seed = s.seed := rfl

@[simp] theorem State.modReg0_module (s : State) (off : Nat) (f : W64 → W64) : (s.modReg0 off f).module = s.module := rfl
@[simp] theorem State.modReg0_fields (s : State) (off : Nat) (f : W64 → W64) : (s.modReg0 off f).fields = s.fields := rfl
@[simp] theorem State.modReg0_map (s : State) (off : Nat) (f : W64 → W64) : (s.modReg0 off f).map = s.map := rfl
@[simp] theorem State.modReg0_sites (s : State) (off : Nat) (f : W64 → W64) : (s.modReg0 off f).sites = s.sites := rfl
@[simp] theorem State.modReg0_tiles (s : State) (off : Nat) (f : W64 → W64) : (s.modReg0 off f).tiles = s.tiles := rfl
@[simp] theorem State.modReg0_ports (s : State) (off : Nat) (f : W64 → W64) : (s.modReg0 off f).ports = s.ports := rfl
@[simp] theorem State.modReg0_cellars (s : State) (off : Nat) (f : W64 → W64) : (s.modReg0 off f).cellars = s.cellars := rfl
@[simp] theorem State.modReg0_host (s : State) (off : Nat) (f : W64 → W64) : (s.modReg0 off f).host = s.host := rfl
@[simp] theorem State.modReg0_plots (s : State) (off : Nat) (f : W64 → W64) : (s.modReg0 off f).plots = s.plots := rfl
@[simp] theorem State.modReg0_gvec (s : State) (off : Nat) (f : W64 → W64) : (s.modReg0 off f).gvec = s.gvec := rfl
@[simp] theorem State.modReg0_gcasts (s : State) (off : Nat) (f : W64 → W64) : (s.modReg0 off f).gcasts = s.gcasts := rfl
@[simp] theorem State.modReg0_net (s : State) (off : Nat) (f : W64 → W64) : (s.modReg0 off f).net = s.net := rfl
@[simp] theorem State.modReg0_detours (s : State) (off : Nat) (f : W64 → W64) : (s.modReg0 off f).detours = s.detours := rfl
@[simp] theorem State.modReg0_vint (s : State) (off : Nat) (f : W64 → W64) : (s.modReg0 off f).vint = s.vint := rfl
@[simp] theorem State.modReg0_remapDue (s : State) (off : Nat) (f : W64 → W64) : (s.modReg0 off f).remapDue = s.remapDue := rfl
@[simp] theorem State.modReg0_resyncDue (s : State) (off : Nat) (f : W64 → W64) : (s.modReg0 off f).resyncDue = s.resyncDue := rfl
@[simp] theorem State.modReg0_remapSites (s : State) (off : Nat) (f : W64 → W64) : (s.modReg0 off f).remapSites = s.remapSites := rfl
@[simp] theorem State.modReg0_remapOut (s : State) (off : Nat) (f : W64 → W64) : (s.modReg0 off f).remapOut = s.remapOut := rfl
@[simp] theorem State.modReg0_resyncOut (s : State) (off : Nat) (f : W64 → W64) : (s.modReg0 off f).resyncOut = s.resyncOut := rfl
@[simp] theorem State.modReg0_ctrlAcks (s : State) (off : Nat) (f : W64 → W64) : (s.modReg0 off f).ctrlAcks = s.ctrlAcks := rfl
@[simp] theorem State.modReg0_attach (s : State) (off : Nat) (f : W64 → W64) : (s.modReg0 off f).attach = s.attach := rfl
@[simp] theorem State.modReg0_cur (s : State) (off : Nat) (f : W64 → W64) : (s.modReg0 off f).cur = s.cur := rfl
@[simp] theorem State.modReg0_schedule (s : State) (off : Nat) (f : W64 → W64) : (s.modReg0 off f).schedule = s.schedule := rfl
@[simp] theorem State.modReg0_focus (s : State) (off : Nat) (f : W64 → W64) : (s.modReg0 off f).focus = s.focus := rfl
@[simp] theorem State.modReg0_choices (s : State) (off : Nat) (f : W64 → W64) : (s.modReg0 off f).choices = s.choices := rfl
@[simp] theorem State.modReg0_seed (s : State) (off : Nat) (f : W64 → W64) : (s.modReg0 off f).seed = s.seed := rfl

@[simp] theorem State.setField_module (s : State) (n : Nat) (F : Field) : (s.setField n F).module = s.module := rfl
@[simp] theorem State.setField_map (s : State) (n : Nat) (F : Field) : (s.setField n F).map = s.map := rfl
@[simp] theorem State.setField_sites (s : State) (n : Nat) (F : Field) : (s.setField n F).sites = s.sites := rfl
@[simp] theorem State.setField_tiles (s : State) (n : Nat) (F : Field) : (s.setField n F).tiles = s.tiles := rfl
@[simp] theorem State.setField_ports (s : State) (n : Nat) (F : Field) : (s.setField n F).ports = s.ports := rfl
@[simp] theorem State.setField_cellars (s : State) (n : Nat) (F : Field) : (s.setField n F).cellars = s.cellars := rfl
@[simp] theorem State.setField_bar0 (s : State) (n : Nat) (F : Field) : (s.setField n F).bar0 = s.bar0 := rfl
@[simp] theorem State.setField_host (s : State) (n : Nat) (F : Field) : (s.setField n F).host = s.host := rfl
@[simp] theorem State.setField_plots (s : State) (n : Nat) (F : Field) : (s.setField n F).plots = s.plots := rfl
@[simp] theorem State.setField_gvec (s : State) (n : Nat) (F : Field) : (s.setField n F).gvec = s.gvec := rfl
@[simp] theorem State.setField_gcasts (s : State) (n : Nat) (F : Field) : (s.setField n F).gcasts = s.gcasts := rfl
@[simp] theorem State.setField_net (s : State) (n : Nat) (F : Field) : (s.setField n F).net = s.net := rfl
@[simp] theorem State.setField_detours (s : State) (n : Nat) (F : Field) : (s.setField n F).detours = s.detours := rfl
@[simp] theorem State.setField_vint (s : State) (n : Nat) (F : Field) : (s.setField n F).vint = s.vint := rfl
@[simp] theorem State.setField_remapDue (s : State) (n : Nat) (F : Field) : (s.setField n F).remapDue = s.remapDue := rfl
@[simp] theorem State.setField_resyncDue (s : State) (n : Nat) (F : Field) : (s.setField n F).resyncDue = s.resyncDue := rfl
@[simp] theorem State.setField_remapSites (s : State) (n : Nat) (F : Field) : (s.setField n F).remapSites = s.remapSites := rfl
@[simp] theorem State.setField_remapOut (s : State) (n : Nat) (F : Field) : (s.setField n F).remapOut = s.remapOut := rfl
@[simp] theorem State.setField_resyncOut (s : State) (n : Nat) (F : Field) : (s.setField n F).resyncOut = s.resyncOut := rfl
@[simp] theorem State.setField_ctrlAcks (s : State) (n : Nat) (F : Field) : (s.setField n F).ctrlAcks = s.ctrlAcks := rfl
@[simp] theorem State.setField_attach (s : State) (n : Nat) (F : Field) : (s.setField n F).attach = s.attach := rfl
@[simp] theorem State.setField_cur (s : State) (n : Nat) (F : Field) : (s.setField n F).cur = s.cur := rfl
@[simp] theorem State.setField_schedule (s : State) (n : Nat) (F : Field) : (s.setField n F).schedule = s.schedule := rfl
@[simp] theorem State.setField_focus (s : State) (n : Nat) (F : Field) : (s.setField n F).focus = s.focus := rfl
@[simp] theorem State.setField_choices (s : State) (n : Nat) (F : Field) : (s.setField n F).choices = s.choices := rfl
@[simp] theorem State.setField_seed (s : State) (n : Nat) (F : Field) : (s.setField n F).seed = s.seed := rfl

@[simp] theorem State.modField_module (s : State) (n : Nat) (g : Field → Field) : (s.modField n g).module = s.module := rfl
@[simp] theorem State.modField_map (s : State) (n : Nat) (g : Field → Field) : (s.modField n g).map = s.map := rfl
@[simp] theorem State.modField_sites (s : State) (n : Nat) (g : Field → Field) : (s.modField n g).sites = s.sites := rfl
@[simp] theorem State.modField_tiles (s : State) (n : Nat) (g : Field → Field) : (s.modField n g).tiles = s.tiles := rfl
@[simp] theorem State.modField_ports (s : State) (n : Nat) (g : Field → Field) : (s.modField n g).ports = s.ports := rfl
@[simp] theorem State.modField_cellars (s : State) (n : Nat) (g : Field → Field) : (s.modField n g).cellars = s.cellars := rfl
@[simp] theorem State.modField_bar0 (s : State) (n : Nat) (g : Field → Field) : (s.modField n g).bar0 = s.bar0 := rfl
@[simp] theorem State.modField_host (s : State) (n : Nat) (g : Field → Field) : (s.modField n g).host = s.host := rfl
@[simp] theorem State.modField_plots (s : State) (n : Nat) (g : Field → Field) : (s.modField n g).plots = s.plots := rfl
@[simp] theorem State.modField_gvec (s : State) (n : Nat) (g : Field → Field) : (s.modField n g).gvec = s.gvec := rfl
@[simp] theorem State.modField_gcasts (s : State) (n : Nat) (g : Field → Field) : (s.modField n g).gcasts = s.gcasts := rfl
@[simp] theorem State.modField_net (s : State) (n : Nat) (g : Field → Field) : (s.modField n g).net = s.net := rfl
@[simp] theorem State.modField_detours (s : State) (n : Nat) (g : Field → Field) : (s.modField n g).detours = s.detours := rfl
@[simp] theorem State.modField_vint (s : State) (n : Nat) (g : Field → Field) : (s.modField n g).vint = s.vint := rfl
@[simp] theorem State.modField_remapDue (s : State) (n : Nat) (g : Field → Field) : (s.modField n g).remapDue = s.remapDue := rfl
@[simp] theorem State.modField_resyncDue (s : State) (n : Nat) (g : Field → Field) : (s.modField n g).resyncDue = s.resyncDue := rfl
@[simp] theorem State.modField_remapSites (s : State) (n : Nat) (g : Field → Field) : (s.modField n g).remapSites = s.remapSites := rfl
@[simp] theorem State.modField_remapOut (s : State) (n : Nat) (g : Field → Field) : (s.modField n g).remapOut = s.remapOut := rfl
@[simp] theorem State.modField_resyncOut (s : State) (n : Nat) (g : Field → Field) : (s.modField n g).resyncOut = s.resyncOut := rfl
@[simp] theorem State.modField_ctrlAcks (s : State) (n : Nat) (g : Field → Field) : (s.modField n g).ctrlAcks = s.ctrlAcks := rfl
@[simp] theorem State.modField_attach (s : State) (n : Nat) (g : Field → Field) : (s.modField n g).attach = s.attach := rfl
@[simp] theorem State.modField_cur (s : State) (n : Nat) (g : Field → Field) : (s.modField n g).cur = s.cur := rfl
@[simp] theorem State.modField_schedule (s : State) (n : Nat) (g : Field → Field) : (s.modField n g).schedule = s.schedule := rfl
@[simp] theorem State.modField_focus (s : State) (n : Nat) (g : Field → Field) : (s.modField n g).focus = s.focus := rfl
@[simp] theorem State.modField_choices (s : State) (n : Nat) (g : Field → Field) : (s.modField n g).choices = s.choices := rfl
@[simp] theorem State.modField_seed (s : State) (n : Nat) (g : Field → Field) : (s.modField n g).seed = s.seed := rfl

@[simp] theorem State.setPort_module (s : State) (p : Nat) (P : Port) : (s.setPort p P).module = s.module := rfl
@[simp] theorem State.setPort_fields (s : State) (p : Nat) (P : Port) : (s.setPort p P).fields = s.fields := rfl
@[simp] theorem State.setPort_map (s : State) (p : Nat) (P : Port) : (s.setPort p P).map = s.map := rfl
@[simp] theorem State.setPort_sites (s : State) (p : Nat) (P : Port) : (s.setPort p P).sites = s.sites := rfl
@[simp] theorem State.setPort_tiles (s : State) (p : Nat) (P : Port) : (s.setPort p P).tiles = s.tiles := rfl
@[simp] theorem State.setPort_cellars (s : State) (p : Nat) (P : Port) : (s.setPort p P).cellars = s.cellars := rfl
@[simp] theorem State.setPort_bar0 (s : State) (p : Nat) (P : Port) : (s.setPort p P).bar0 = s.bar0 := rfl
@[simp] theorem State.setPort_host (s : State) (p : Nat) (P : Port) : (s.setPort p P).host = s.host := rfl
@[simp] theorem State.setPort_plots (s : State) (p : Nat) (P : Port) : (s.setPort p P).plots = s.plots := rfl
@[simp] theorem State.setPort_gvec (s : State) (p : Nat) (P : Port) : (s.setPort p P).gvec = s.gvec := rfl
@[simp] theorem State.setPort_gcasts (s : State) (p : Nat) (P : Port) : (s.setPort p P).gcasts = s.gcasts := rfl
@[simp] theorem State.setPort_net (s : State) (p : Nat) (P : Port) : (s.setPort p P).net = s.net := rfl
@[simp] theorem State.setPort_detours (s : State) (p : Nat) (P : Port) : (s.setPort p P).detours = s.detours := rfl
@[simp] theorem State.setPort_vint (s : State) (p : Nat) (P : Port) : (s.setPort p P).vint = s.vint := rfl
@[simp] theorem State.setPort_remapDue (s : State) (p : Nat) (P : Port) : (s.setPort p P).remapDue = s.remapDue := rfl
@[simp] theorem State.setPort_resyncDue (s : State) (p : Nat) (P : Port) : (s.setPort p P).resyncDue = s.resyncDue := rfl
@[simp] theorem State.setPort_remapSites (s : State) (p : Nat) (P : Port) : (s.setPort p P).remapSites = s.remapSites := rfl
@[simp] theorem State.setPort_remapOut (s : State) (p : Nat) (P : Port) : (s.setPort p P).remapOut = s.remapOut := rfl
@[simp] theorem State.setPort_resyncOut (s : State) (p : Nat) (P : Port) : (s.setPort p P).resyncOut = s.resyncOut := rfl
@[simp] theorem State.setPort_ctrlAcks (s : State) (p : Nat) (P : Port) : (s.setPort p P).ctrlAcks = s.ctrlAcks := rfl
@[simp] theorem State.setPort_attach (s : State) (p : Nat) (P : Port) : (s.setPort p P).attach = s.attach := rfl
@[simp] theorem State.setPort_cur (s : State) (p : Nat) (P : Port) : (s.setPort p P).cur = s.cur := rfl
@[simp] theorem State.setPort_schedule (s : State) (p : Nat) (P : Port) : (s.setPort p P).schedule = s.schedule := rfl
@[simp] theorem State.setPort_focus (s : State) (p : Nat) (P : Port) : (s.setPort p P).focus = s.focus := rfl
@[simp] theorem State.setPort_choices (s : State) (p : Nat) (P : Port) : (s.setPort p P).choices = s.choices := rfl
@[simp] theorem State.setPort_seed (s : State) (p : Nat) (P : Port) : (s.setPort p P).seed = s.seed := rfl

@[simp] theorem State.modPort_module (s : State) (p : Nat) (f : Port → Port) : (s.modPort p f).module = s.module := rfl
@[simp] theorem State.modPort_fields (s : State) (p : Nat) (f : Port → Port) : (s.modPort p f).fields = s.fields := rfl
@[simp] theorem State.modPort_map (s : State) (p : Nat) (f : Port → Port) : (s.modPort p f).map = s.map := rfl
@[simp] theorem State.modPort_sites (s : State) (p : Nat) (f : Port → Port) : (s.modPort p f).sites = s.sites := rfl
@[simp] theorem State.modPort_tiles (s : State) (p : Nat) (f : Port → Port) : (s.modPort p f).tiles = s.tiles := rfl
@[simp] theorem State.modPort_cellars (s : State) (p : Nat) (f : Port → Port) : (s.modPort p f).cellars = s.cellars := rfl
@[simp] theorem State.modPort_bar0 (s : State) (p : Nat) (f : Port → Port) : (s.modPort p f).bar0 = s.bar0 := rfl
@[simp] theorem State.modPort_host (s : State) (p : Nat) (f : Port → Port) : (s.modPort p f).host = s.host := rfl
@[simp] theorem State.modPort_plots (s : State) (p : Nat) (f : Port → Port) : (s.modPort p f).plots = s.plots := rfl
@[simp] theorem State.modPort_gvec (s : State) (p : Nat) (f : Port → Port) : (s.modPort p f).gvec = s.gvec := rfl
@[simp] theorem State.modPort_gcasts (s : State) (p : Nat) (f : Port → Port) : (s.modPort p f).gcasts = s.gcasts := rfl
@[simp] theorem State.modPort_net (s : State) (p : Nat) (f : Port → Port) : (s.modPort p f).net = s.net := rfl
@[simp] theorem State.modPort_detours (s : State) (p : Nat) (f : Port → Port) : (s.modPort p f).detours = s.detours := rfl
@[simp] theorem State.modPort_vint (s : State) (p : Nat) (f : Port → Port) : (s.modPort p f).vint = s.vint := rfl
@[simp] theorem State.modPort_remapDue (s : State) (p : Nat) (f : Port → Port) : (s.modPort p f).remapDue = s.remapDue := rfl
@[simp] theorem State.modPort_resyncDue (s : State) (p : Nat) (f : Port → Port) : (s.modPort p f).resyncDue = s.resyncDue := rfl
@[simp] theorem State.modPort_remapSites (s : State) (p : Nat) (f : Port → Port) : (s.modPort p f).remapSites = s.remapSites := rfl
@[simp] theorem State.modPort_remapOut (s : State) (p : Nat) (f : Port → Port) : (s.modPort p f).remapOut = s.remapOut := rfl
@[simp] theorem State.modPort_resyncOut (s : State) (p : Nat) (f : Port → Port) : (s.modPort p f).resyncOut = s.resyncOut := rfl
@[simp] theorem State.modPort_ctrlAcks (s : State) (p : Nat) (f : Port → Port) : (s.modPort p f).ctrlAcks = s.ctrlAcks := rfl
@[simp] theorem State.modPort_attach (s : State) (p : Nat) (f : Port → Port) : (s.modPort p f).attach = s.attach := rfl
@[simp] theorem State.modPort_cur (s : State) (p : Nat) (f : Port → Port) : (s.modPort p f).cur = s.cur := rfl
@[simp] theorem State.modPort_schedule (s : State) (p : Nat) (f : Port → Port) : (s.modPort p f).schedule = s.schedule := rfl
@[simp] theorem State.modPort_focus (s : State) (p : Nat) (f : Port → Port) : (s.modPort p f).focus = s.focus := rfl
@[simp] theorem State.modPort_choices (s : State) (p : Nat) (f : Port → Port) : (s.modPort p f).choices = s.choices := rfl
@[simp] theorem State.modPort_seed (s : State) (p : Nat) (f : Port → Port) : (s.modPort p f).seed = s.seed := rfl

@[simp] theorem State.setStack_module (s : State) (k : Nat) (K : Stack) : (s.setStack k K).module = s.module := rfl
@[simp] theorem State.setStack_fields (s : State) (k : Nat) (K : Stack) : (s.setStack k K).fields = s.fields := rfl
@[simp] theorem State.setStack_map (s : State) (k : Nat) (K : Stack) : (s.setStack k K).map = s.map := rfl
@[simp] theorem State.setStack_sites (s : State) (k : Nat) (K : Stack) : (s.setStack k K).sites = s.sites := rfl
@[simp] theorem State.setStack_tiles (s : State) (k : Nat) (K : Stack) : (s.setStack k K).tiles = s.tiles := rfl
@[simp] theorem State.setStack_ports (s : State) (k : Nat) (K : Stack) : (s.setStack k K).ports = s.ports := rfl
@[simp] theorem State.setStack_bar0 (s : State) (k : Nat) (K : Stack) : (s.setStack k K).bar0 = s.bar0 := rfl
@[simp] theorem State.setStack_host (s : State) (k : Nat) (K : Stack) : (s.setStack k K).host = s.host := rfl
@[simp] theorem State.setStack_plots (s : State) (k : Nat) (K : Stack) : (s.setStack k K).plots = s.plots := rfl
@[simp] theorem State.setStack_gvec (s : State) (k : Nat) (K : Stack) : (s.setStack k K).gvec = s.gvec := rfl
@[simp] theorem State.setStack_gcasts (s : State) (k : Nat) (K : Stack) : (s.setStack k K).gcasts = s.gcasts := rfl
@[simp] theorem State.setStack_net (s : State) (k : Nat) (K : Stack) : (s.setStack k K).net = s.net := rfl
@[simp] theorem State.setStack_detours (s : State) (k : Nat) (K : Stack) : (s.setStack k K).detours = s.detours := rfl
@[simp] theorem State.setStack_vint (s : State) (k : Nat) (K : Stack) : (s.setStack k K).vint = s.vint := rfl
@[simp] theorem State.setStack_remapDue (s : State) (k : Nat) (K : Stack) : (s.setStack k K).remapDue = s.remapDue := rfl
@[simp] theorem State.setStack_resyncDue (s : State) (k : Nat) (K : Stack) : (s.setStack k K).resyncDue = s.resyncDue := rfl
@[simp] theorem State.setStack_remapSites (s : State) (k : Nat) (K : Stack) : (s.setStack k K).remapSites = s.remapSites := rfl
@[simp] theorem State.setStack_remapOut (s : State) (k : Nat) (K : Stack) : (s.setStack k K).remapOut = s.remapOut := rfl
@[simp] theorem State.setStack_resyncOut (s : State) (k : Nat) (K : Stack) : (s.setStack k K).resyncOut = s.resyncOut := rfl
@[simp] theorem State.setStack_ctrlAcks (s : State) (k : Nat) (K : Stack) : (s.setStack k K).ctrlAcks = s.ctrlAcks := rfl
@[simp] theorem State.setStack_attach (s : State) (k : Nat) (K : Stack) : (s.setStack k K).attach = s.attach := rfl
@[simp] theorem State.setStack_cur (s : State) (k : Nat) (K : Stack) : (s.setStack k K).cur = s.cur := rfl
@[simp] theorem State.setStack_schedule (s : State) (k : Nat) (K : Stack) : (s.setStack k K).schedule = s.schedule := rfl
@[simp] theorem State.setStack_focus (s : State) (k : Nat) (K : Stack) : (s.setStack k K).focus = s.focus := rfl
@[simp] theorem State.setStack_choices (s : State) (k : Nat) (K : Stack) : (s.setStack k K).choices = s.choices := rfl
@[simp] theorem State.setStack_seed (s : State) (k : Nat) (K : Stack) : (s.setStack k K).seed = s.seed := rfl

@[simp] theorem State.modStack_module (s : State) (k : Nat) (f : Stack → Stack) : (s.modStack k f).module = s.module := rfl
@[simp] theorem State.modStack_fields (s : State) (k : Nat) (f : Stack → Stack) : (s.modStack k f).fields = s.fields := rfl
@[simp] theorem State.modStack_map (s : State) (k : Nat) (f : Stack → Stack) : (s.modStack k f).map = s.map := rfl
@[simp] theorem State.modStack_sites (s : State) (k : Nat) (f : Stack → Stack) : (s.modStack k f).sites = s.sites := rfl
@[simp] theorem State.modStack_tiles (s : State) (k : Nat) (f : Stack → Stack) : (s.modStack k f).tiles = s.tiles := rfl
@[simp] theorem State.modStack_ports (s : State) (k : Nat) (f : Stack → Stack) : (s.modStack k f).ports = s.ports := rfl
@[simp] theorem State.modStack_bar0 (s : State) (k : Nat) (f : Stack → Stack) : (s.modStack k f).bar0 = s.bar0 := rfl
@[simp] theorem State.modStack_host (s : State) (k : Nat) (f : Stack → Stack) : (s.modStack k f).host = s.host := rfl
@[simp] theorem State.modStack_plots (s : State) (k : Nat) (f : Stack → Stack) : (s.modStack k f).plots = s.plots := rfl
@[simp] theorem State.modStack_gvec (s : State) (k : Nat) (f : Stack → Stack) : (s.modStack k f).gvec = s.gvec := rfl
@[simp] theorem State.modStack_gcasts (s : State) (k : Nat) (f : Stack → Stack) : (s.modStack k f).gcasts = s.gcasts := rfl
@[simp] theorem State.modStack_net (s : State) (k : Nat) (f : Stack → Stack) : (s.modStack k f).net = s.net := rfl
@[simp] theorem State.modStack_detours (s : State) (k : Nat) (f : Stack → Stack) : (s.modStack k f).detours = s.detours := rfl
@[simp] theorem State.modStack_vint (s : State) (k : Nat) (f : Stack → Stack) : (s.modStack k f).vint = s.vint := rfl
@[simp] theorem State.modStack_remapDue (s : State) (k : Nat) (f : Stack → Stack) : (s.modStack k f).remapDue = s.remapDue := rfl
@[simp] theorem State.modStack_resyncDue (s : State) (k : Nat) (f : Stack → Stack) : (s.modStack k f).resyncDue = s.resyncDue := rfl
@[simp] theorem State.modStack_remapSites (s : State) (k : Nat) (f : Stack → Stack) : (s.modStack k f).remapSites = s.remapSites := rfl
@[simp] theorem State.modStack_remapOut (s : State) (k : Nat) (f : Stack → Stack) : (s.modStack k f).remapOut = s.remapOut := rfl
@[simp] theorem State.modStack_resyncOut (s : State) (k : Nat) (f : Stack → Stack) : (s.modStack k f).resyncOut = s.resyncOut := rfl
@[simp] theorem State.modStack_ctrlAcks (s : State) (k : Nat) (f : Stack → Stack) : (s.modStack k f).ctrlAcks = s.ctrlAcks := rfl
@[simp] theorem State.modStack_attach (s : State) (k : Nat) (f : Stack → Stack) : (s.modStack k f).attach = s.attach := rfl
@[simp] theorem State.modStack_cur (s : State) (k : Nat) (f : Stack → Stack) : (s.modStack k f).cur = s.cur := rfl
@[simp] theorem State.modStack_schedule (s : State) (k : Nat) (f : Stack → Stack) : (s.modStack k f).schedule = s.schedule := rfl
@[simp] theorem State.modStack_focus (s : State) (k : Nat) (f : Stack → Stack) : (s.modStack k f).focus = s.focus := rfl
@[simp] theorem State.modStack_choices (s : State) (k : Nat) (f : Stack → Stack) : (s.modStack k f).choices = s.choices := rfl
@[simp] theorem State.modStack_seed (s : State) (k : Nat) (f : Stack → Stack) : (s.modStack k f).seed = s.seed := rfl

@[simp] theorem State.setPlot_module (s : State) (p : Nat) (P : Plot) : (s.setPlot p P).module = s.module := rfl
@[simp] theorem State.setPlot_fields (s : State) (p : Nat) (P : Plot) : (s.setPlot p P).fields = s.fields := rfl
@[simp] theorem State.setPlot_map (s : State) (p : Nat) (P : Plot) : (s.setPlot p P).map = s.map := rfl
@[simp] theorem State.setPlot_sites (s : State) (p : Nat) (P : Plot) : (s.setPlot p P).sites = s.sites := rfl
@[simp] theorem State.setPlot_tiles (s : State) (p : Nat) (P : Plot) : (s.setPlot p P).tiles = s.tiles := rfl
@[simp] theorem State.setPlot_ports (s : State) (p : Nat) (P : Plot) : (s.setPlot p P).ports = s.ports := rfl
@[simp] theorem State.setPlot_cellars (s : State) (p : Nat) (P : Plot) : (s.setPlot p P).cellars = s.cellars := rfl
@[simp] theorem State.setPlot_bar0 (s : State) (p : Nat) (P : Plot) : (s.setPlot p P).bar0 = s.bar0 := rfl
@[simp] theorem State.setPlot_host (s : State) (p : Nat) (P : Plot) : (s.setPlot p P).host = s.host := rfl
@[simp] theorem State.setPlot_gvec (s : State) (p : Nat) (P : Plot) : (s.setPlot p P).gvec = s.gvec := rfl
@[simp] theorem State.setPlot_gcasts (s : State) (p : Nat) (P : Plot) : (s.setPlot p P).gcasts = s.gcasts := rfl
@[simp] theorem State.setPlot_net (s : State) (p : Nat) (P : Plot) : (s.setPlot p P).net = s.net := rfl
@[simp] theorem State.setPlot_detours (s : State) (p : Nat) (P : Plot) : (s.setPlot p P).detours = s.detours := rfl
@[simp] theorem State.setPlot_vint (s : State) (p : Nat) (P : Plot) : (s.setPlot p P).vint = s.vint := rfl
@[simp] theorem State.setPlot_remapDue (s : State) (p : Nat) (P : Plot) : (s.setPlot p P).remapDue = s.remapDue := rfl
@[simp] theorem State.setPlot_resyncDue (s : State) (p : Nat) (P : Plot) : (s.setPlot p P).resyncDue = s.resyncDue := rfl
@[simp] theorem State.setPlot_remapSites (s : State) (p : Nat) (P : Plot) : (s.setPlot p P).remapSites = s.remapSites := rfl
@[simp] theorem State.setPlot_remapOut (s : State) (p : Nat) (P : Plot) : (s.setPlot p P).remapOut = s.remapOut := rfl
@[simp] theorem State.setPlot_resyncOut (s : State) (p : Nat) (P : Plot) : (s.setPlot p P).resyncOut = s.resyncOut := rfl
@[simp] theorem State.setPlot_ctrlAcks (s : State) (p : Nat) (P : Plot) : (s.setPlot p P).ctrlAcks = s.ctrlAcks := rfl
@[simp] theorem State.setPlot_attach (s : State) (p : Nat) (P : Plot) : (s.setPlot p P).attach = s.attach := rfl
@[simp] theorem State.setPlot_cur (s : State) (p : Nat) (P : Plot) : (s.setPlot p P).cur = s.cur := rfl
@[simp] theorem State.setPlot_schedule (s : State) (p : Nat) (P : Plot) : (s.setPlot p P).schedule = s.schedule := rfl
@[simp] theorem State.setPlot_focus (s : State) (p : Nat) (P : Plot) : (s.setPlot p P).focus = s.focus := rfl
@[simp] theorem State.setPlot_choices (s : State) (p : Nat) (P : Plot) : (s.setPlot p P).choices = s.choices := rfl
@[simp] theorem State.setPlot_seed (s : State) (p : Nat) (P : Plot) : (s.setPlot p P).seed = s.seed := rfl

@[simp] theorem State.modPlot_module (s : State) (p : Nat) (f : Plot → Plot) : (s.modPlot p f).module = s.module := rfl
@[simp] theorem State.modPlot_fields (s : State) (p : Nat) (f : Plot → Plot) : (s.modPlot p f).fields = s.fields := rfl
@[simp] theorem State.modPlot_map (s : State) (p : Nat) (f : Plot → Plot) : (s.modPlot p f).map = s.map := rfl
@[simp] theorem State.modPlot_sites (s : State) (p : Nat) (f : Plot → Plot) : (s.modPlot p f).sites = s.sites := rfl
@[simp] theorem State.modPlot_tiles (s : State) (p : Nat) (f : Plot → Plot) : (s.modPlot p f).tiles = s.tiles := rfl
@[simp] theorem State.modPlot_ports (s : State) (p : Nat) (f : Plot → Plot) : (s.modPlot p f).ports = s.ports := rfl
@[simp] theorem State.modPlot_cellars (s : State) (p : Nat) (f : Plot → Plot) : (s.modPlot p f).cellars = s.cellars := rfl
@[simp] theorem State.modPlot_bar0 (s : State) (p : Nat) (f : Plot → Plot) : (s.modPlot p f).bar0 = s.bar0 := rfl
@[simp] theorem State.modPlot_host (s : State) (p : Nat) (f : Plot → Plot) : (s.modPlot p f).host = s.host := rfl
@[simp] theorem State.modPlot_gvec (s : State) (p : Nat) (f : Plot → Plot) : (s.modPlot p f).gvec = s.gvec := rfl
@[simp] theorem State.modPlot_gcasts (s : State) (p : Nat) (f : Plot → Plot) : (s.modPlot p f).gcasts = s.gcasts := rfl
@[simp] theorem State.modPlot_net (s : State) (p : Nat) (f : Plot → Plot) : (s.modPlot p f).net = s.net := rfl
@[simp] theorem State.modPlot_detours (s : State) (p : Nat) (f : Plot → Plot) : (s.modPlot p f).detours = s.detours := rfl
@[simp] theorem State.modPlot_vint (s : State) (p : Nat) (f : Plot → Plot) : (s.modPlot p f).vint = s.vint := rfl
@[simp] theorem State.modPlot_remapDue (s : State) (p : Nat) (f : Plot → Plot) : (s.modPlot p f).remapDue = s.remapDue := rfl
@[simp] theorem State.modPlot_resyncDue (s : State) (p : Nat) (f : Plot → Plot) : (s.modPlot p f).resyncDue = s.resyncDue := rfl
@[simp] theorem State.modPlot_remapSites (s : State) (p : Nat) (f : Plot → Plot) : (s.modPlot p f).remapSites = s.remapSites := rfl
@[simp] theorem State.modPlot_remapOut (s : State) (p : Nat) (f : Plot → Plot) : (s.modPlot p f).remapOut = s.remapOut := rfl
@[simp] theorem State.modPlot_resyncOut (s : State) (p : Nat) (f : Plot → Plot) : (s.modPlot p f).resyncOut = s.resyncOut := rfl
@[simp] theorem State.modPlot_ctrlAcks (s : State) (p : Nat) (f : Plot → Plot) : (s.modPlot p f).ctrlAcks = s.ctrlAcks := rfl
@[simp] theorem State.modPlot_attach (s : State) (p : Nat) (f : Plot → Plot) : (s.modPlot p f).attach = s.attach := rfl
@[simp] theorem State.modPlot_cur (s : State) (p : Nat) (f : Plot → Plot) : (s.modPlot p f).cur = s.cur := rfl
@[simp] theorem State.modPlot_schedule (s : State) (p : Nat) (f : Plot → Plot) : (s.modPlot p f).schedule = s.schedule := rfl
@[simp] theorem State.modPlot_focus (s : State) (p : Nat) (f : Plot → Plot) : (s.modPlot p f).focus = s.focus := rfl
@[simp] theorem State.modPlot_choices (s : State) (p : Nat) (f : Plot → Plot) : (s.modPlot p f).choices = s.choices := rfl
@[simp] theorem State.modPlot_seed (s : State) (p : Nat) (f : Plot → Plot) : (s.modPlot p f).seed = s.seed := rfl

/-! ### Updates of a tile -/

@[simp] theorem Tile.setCtx_creg (T : Tile) (x : Nat) (c : Ctx) : (T.setCtx x c).creg = T.creg := rfl
@[simp] theorem Tile.setCtx_imem (T : Tile) (x : Nat) (c : Ctx) : (T.setCtx x c).imem = T.imem := rfl
@[simp] theorem Tile.setCtx_imemBad (T : Tile) (x : Nat) (c : Ctx) : (T.setCtx x c).imemBad = T.imemBad := rfl
@[simp] theorem Tile.setCtx_imemFixed (T : Tile) (x : Nat) (c : Ctx) : (T.setCtx x c).imemFixed = T.imemFixed := rfl
@[simp] theorem Tile.setCtx_pad (T : Tile) (x : Nat) (c : Ctx) : (T.setCtx x c).pad = T.pad := rfl
@[simp] theorem Tile.setCtx_padPoison (T : Tile) (x : Nat) (c : Ctx) : (T.setCtx x c).padPoison = T.padPoison := rfl
@[simp] theorem Tile.setCtx_capTags (T : Tile) (x : Nat) (c : Ctx) : (T.setCtx x c).capTags = T.capTags := rfl
@[simp] theorem Tile.setCtx_lineTags (T : Tile) (x : Nat) (c : Ctx) : (T.setCtx x c).lineTags = T.lineTags := rfl
@[simp] theorem Tile.setCtx_cycle (T : Tile) (x : Nat) (c : Ctx) : (T.setCtx x c).cycle = T.cycle := rfl
@[simp] theorem Tile.setCtx_clock (T : Tile) (x : Nat) (c : Ctx) : (T.setCtx x c).clock = T.clock := rfl
@[simp] theorem Tile.setCtx_active (T : Tile) (x : Nat) (c : Ctx) : (T.setCtx x c).active = T.active := rfl
@[simp] theorem Tile.setCtx_served (T : Tile) (x : Nat) (c : Ctx) : (T.setCtx x c).served = T.served := rfl
@[simp] theorem Tile.setCtx_slots (T : Tile) (x : Nat) (c : Ctx) : (T.setCtx x c).slots = T.slots := rfl
@[simp] theorem Tile.setCtx_cpend (T : Tile) (x : Nat) (c : Ctx) : (T.setCtx x c).cpend = T.cpend := rfl
@[simp] theorem Tile.setCtx_rc (T : Tile) (x : Nat) (c : Ctx) : (T.setCtx x c).rc = T.rc := rfl
@[simp] theorem Tile.setCtx_trk (T : Tile) (x : Nat) (c : Ctx) : (T.setCtx x c).trk = T.trk := rfl
@[simp] theorem Tile.setCtx_tregs (T : Tile) (x : Nat) (c : Ctx) : (T.setCtx x c).tregs = T.tregs := rfl
@[simp] theorem Tile.setCtx_sets (T : Tile) (x : Nat) (c : Ctx) : (T.setCtx x c).sets = T.sets := rfl
@[simp] theorem Tile.setCtx_aq (T : Tile) (x : Nat) (c : Ctx) : (T.setCtx x c).aq = T.aq := rfl
@[simp] theorem Tile.setCtx_lq (T : Tile) (x : Nat) (c : Ctx) : (T.setCtx x c).lq = T.lq := rfl
@[simp] theorem Tile.setCtx_tq (T : Tile) (x : Nat) (c : Ctx) : (T.setCtx x c).tq = T.tq := rfl
@[simp] theorem Tile.setCtx_nests (T : Tile) (x : Nat) (c : Ctx) : (T.setCtx x c).nests = T.nests := rfl
@[simp] theorem Tile.setCtx_paused (T : Tile) (x : Nat) (c : Ctx) : (T.setCtx x c).paused = T.paused := rfl
@[simp] theorem Tile.setCtx_finj (T : Tile) (x : Nat) (c : Ctx) : (T.setCtx x c).finj = T.finj := rfl
@[simp] theorem Tile.setCtx_chans (T : Tile) (x : Nat) (c : Ctx) : (T.setCtx x c).chans = T.chans := rfl
@[simp] theorem Tile.setCtx_ebuf (T : Tile) (x : Nat) (c : Ctx) : (T.setCtx x c).ebuf = T.ebuf := rfl
@[simp] theorem Tile.setCtx_emitq (T : Tile) (x : Nat) (c : Ctx) : (T.setCtx x c).emitq = T.emitq := rfl
@[simp] theorem Tile.setCtx_opSeq (T : Tile) (x : Nat) (c : Ctx) : (T.setCtx x c).opSeq = T.opSeq := rfl
@[simp] theorem Tile.setCtx_blockNext2 (T : Tile) (x : Nat) (c : Ctx) : (T.setCtx x c).blockNext2 = T.blockNext2 := rfl
@[simp] theorem Tile.setCtx_bandRan (T : Tile) (x : Nat) (c : Ctx) : (T.setCtx x c).bandRan = T.bandRan := rfl
@[simp] theorem Tile.setCtx_powerLoose (T : Tile) (x : Nat) (c : Ctx) : (T.setCtx x c).powerLoose = T.powerLoose := rfl
@[simp] theorem Tile.setCtx_goes (T : Tile) (x : Nat) (c : Ctx) : (T.setCtx x c).goes = T.goes := rfl
@[simp] theorem Tile.setCtx_nextTag (T : Tile) (x : Nat) (c : Ctx) : (T.setCtx x c).nextTag = T.nextTag := rfl
@[simp] theorem Tile.setCtx_pauseReq (T : Tile) (x : Nat) (c : Ctx) : (T.setCtx x c).pauseReq = T.pauseReq := rfl
@[simp] theorem Tile.setCtx_cmds (T : Tile) (x : Nat) (c : Ctx) : (T.setCtx x c).cmds = T.cmds := rfl
@[simp] theorem Tile.setCtx_cq (T : Tile) (x : Nat) (c : Ctx) : (T.setCtx x c).cq = T.cq := rfl
@[simp] theorem Tile.setCtx_cqHead (T : Tile) (x : Nat) (c : Ctx) : (T.setCtx x c).cqHead = T.cqHead := rfl
@[simp] theorem Tile.setCtx_ingress (T : Tile) (x : Nat) (c : Ctx) : (T.setCtx x c).ingress = T.ingress := rfl
@[simp] theorem Tile.setCtx_pass (T : Tile) (x : Nat) (c : Ctx) : (T.setCtx x c).pass = T.pass := rfl
@[simp] theorem Tile.setCtx_rngq (T : Tile) (x : Nat) (c : Ctx) : (T.setCtx x c).rngq = T.rngq := rfl
@[simp] theorem Tile.setCtx_pwrq (T : Tile) (x : Nat) (c : Ctx) : (T.setCtx x c).pwrq = T.pwrq := rfl
@[simp] theorem Tile.setCtx_pwrOut (T : Tile) (x : Nat) (c : Ctx) : (T.setCtx x c).pwrOut = T.pwrOut := rfl
@[simp] theorem Tile.setCtx_hostLinks (T : Tile) (x : Nat) (c : Ctx) : (T.setCtx x c).hostLinks = T.hostLinks := rfl
@[simp] theorem Tile.setCtx_flushing (T : Tile) (x : Nat) (c : Ctx) : (T.setCtx x c).flushing = T.flushing := rfl
@[simp] theorem Tile.setCtx_acks (T : Tile) (x : Nat) (c : Ctx) : (T.setCtx x c).acks = T.acks := rfl
@[simp] theorem Tile.setCtx_drawn (T : Tile) (x : Nat) (c : Ctx) : (T.setCtx x c).drawn = T.drawn := rfl
@[simp] theorem Tile.setCtx_powEst (T : Tile) (x : Nat) (c : Ctx) : (T.setCtx x c).powEst = T.powEst := rfl
@[simp] theorem Tile.setCtx_under (T : Tile) (x : Nat) (c : Ctx) : (T.setCtx x c).under = T.under := rfl
@[simp] theorem Tile.setCtx_scrubLine (T : Tile) (x : Nat) (c : Ctx) : (T.setCtx x c).scrubLine = T.scrubLine := rfl
@[simp] theorem Tile.setCtx_scrubRow (T : Tile) (x : Nat) (c : Ctx) : (T.setCtx x c).scrubRow = T.scrubRow := rfl
@[simp] theorem Tile.setCtx_plot (T : Tile) (x : Nat) (c : Ctx) : (T.setCtx x c).plot = T.plot := rfl
@[simp] theorem Tile.setCtx_released (T : Tile) (x : Nat) (c : Ctx) : (T.setCtx x c).released = T.released := rfl
@[simp] theorem Tile.setCtx_stopped (T : Tile) (x : Nat) (c : Ctx) : (T.setCtx x c).stopped = T.stopped := rfl
@[simp] theorem Tile.setCtx_frozen (T : Tile) (x : Nat) (c : Ctx) : (T.setCtx x c).frozen = T.frozen := rfl
@[simp] theorem Tile.setCtx_greq (T : Tile) (x : Nat) (c : Ctx) : (T.setCtx x c).greq = T.greq := rfl
@[simp] theorem Tile.setCtx_heldG (T : Tile) (x : Nat) (c : Ctx) : (T.setCtx x c).heldG = T.heldG := rfl
@[simp] theorem Tile.setCtx_heldBlocks (T : Tile) (x : Nat) (c : Ctx) : (T.setCtx x c).heldBlocks = T.heldBlocks := rfl
@[simp] theorem Tile.setCtx_eligible (T : Tile) (x : Nat) (c : Ctx) : (T.setCtx x c).eligible = T.eligible := rfl
@[simp] theorem Tile.setCtx_groups (T : Tile) (x : Nat) (c : Ctx) : (T.setCtx x c).groups = T.groups := rfl

@[simp] theorem Tile.modCtx_creg (T : Tile) (x : Nat) (f : Ctx → Ctx) : (T.modCtx x f).creg = T.creg := rfl
@[simp] theorem Tile.modCtx_imem (T : Tile) (x : Nat) (f : Ctx → Ctx) : (T.modCtx x f).imem = T.imem := rfl
@[simp] theorem Tile.modCtx_imemBad (T : Tile) (x : Nat) (f : Ctx → Ctx) : (T.modCtx x f).imemBad = T.imemBad := rfl
@[simp] theorem Tile.modCtx_imemFixed (T : Tile) (x : Nat) (f : Ctx → Ctx) : (T.modCtx x f).imemFixed = T.imemFixed := rfl
@[simp] theorem Tile.modCtx_pad (T : Tile) (x : Nat) (f : Ctx → Ctx) : (T.modCtx x f).pad = T.pad := rfl
@[simp] theorem Tile.modCtx_padPoison (T : Tile) (x : Nat) (f : Ctx → Ctx) : (T.modCtx x f).padPoison = T.padPoison := rfl
@[simp] theorem Tile.modCtx_capTags (T : Tile) (x : Nat) (f : Ctx → Ctx) : (T.modCtx x f).capTags = T.capTags := rfl
@[simp] theorem Tile.modCtx_lineTags (T : Tile) (x : Nat) (f : Ctx → Ctx) : (T.modCtx x f).lineTags = T.lineTags := rfl
@[simp] theorem Tile.modCtx_cycle (T : Tile) (x : Nat) (f : Ctx → Ctx) : (T.modCtx x f).cycle = T.cycle := rfl
@[simp] theorem Tile.modCtx_clock (T : Tile) (x : Nat) (f : Ctx → Ctx) : (T.modCtx x f).clock = T.clock := rfl
@[simp] theorem Tile.modCtx_active (T : Tile) (x : Nat) (f : Ctx → Ctx) : (T.modCtx x f).active = T.active := rfl
@[simp] theorem Tile.modCtx_served (T : Tile) (x : Nat) (f : Ctx → Ctx) : (T.modCtx x f).served = T.served := rfl
@[simp] theorem Tile.modCtx_slots (T : Tile) (x : Nat) (f : Ctx → Ctx) : (T.modCtx x f).slots = T.slots := rfl
@[simp] theorem Tile.modCtx_cpend (T : Tile) (x : Nat) (f : Ctx → Ctx) : (T.modCtx x f).cpend = T.cpend := rfl
@[simp] theorem Tile.modCtx_rc (T : Tile) (x : Nat) (f : Ctx → Ctx) : (T.modCtx x f).rc = T.rc := rfl
@[simp] theorem Tile.modCtx_trk (T : Tile) (x : Nat) (f : Ctx → Ctx) : (T.modCtx x f).trk = T.trk := rfl
@[simp] theorem Tile.modCtx_tregs (T : Tile) (x : Nat) (f : Ctx → Ctx) : (T.modCtx x f).tregs = T.tregs := rfl
@[simp] theorem Tile.modCtx_sets (T : Tile) (x : Nat) (f : Ctx → Ctx) : (T.modCtx x f).sets = T.sets := rfl
@[simp] theorem Tile.modCtx_aq (T : Tile) (x : Nat) (f : Ctx → Ctx) : (T.modCtx x f).aq = T.aq := rfl
@[simp] theorem Tile.modCtx_lq (T : Tile) (x : Nat) (f : Ctx → Ctx) : (T.modCtx x f).lq = T.lq := rfl
@[simp] theorem Tile.modCtx_tq (T : Tile) (x : Nat) (f : Ctx → Ctx) : (T.modCtx x f).tq = T.tq := rfl
@[simp] theorem Tile.modCtx_nests (T : Tile) (x : Nat) (f : Ctx → Ctx) : (T.modCtx x f).nests = T.nests := rfl
@[simp] theorem Tile.modCtx_paused (T : Tile) (x : Nat) (f : Ctx → Ctx) : (T.modCtx x f).paused = T.paused := rfl
@[simp] theorem Tile.modCtx_finj (T : Tile) (x : Nat) (f : Ctx → Ctx) : (T.modCtx x f).finj = T.finj := rfl
@[simp] theorem Tile.modCtx_chans (T : Tile) (x : Nat) (f : Ctx → Ctx) : (T.modCtx x f).chans = T.chans := rfl
@[simp] theorem Tile.modCtx_ebuf (T : Tile) (x : Nat) (f : Ctx → Ctx) : (T.modCtx x f).ebuf = T.ebuf := rfl
@[simp] theorem Tile.modCtx_emitq (T : Tile) (x : Nat) (f : Ctx → Ctx) : (T.modCtx x f).emitq = T.emitq := rfl
@[simp] theorem Tile.modCtx_opSeq (T : Tile) (x : Nat) (f : Ctx → Ctx) : (T.modCtx x f).opSeq = T.opSeq := rfl
@[simp] theorem Tile.modCtx_blockNext2 (T : Tile) (x : Nat) (f : Ctx → Ctx) : (T.modCtx x f).blockNext2 = T.blockNext2 := rfl
@[simp] theorem Tile.modCtx_bandRan (T : Tile) (x : Nat) (f : Ctx → Ctx) : (T.modCtx x f).bandRan = T.bandRan := rfl
@[simp] theorem Tile.modCtx_powerLoose (T : Tile) (x : Nat) (f : Ctx → Ctx) : (T.modCtx x f).powerLoose = T.powerLoose := rfl
@[simp] theorem Tile.modCtx_goes (T : Tile) (x : Nat) (f : Ctx → Ctx) : (T.modCtx x f).goes = T.goes := rfl
@[simp] theorem Tile.modCtx_nextTag (T : Tile) (x : Nat) (f : Ctx → Ctx) : (T.modCtx x f).nextTag = T.nextTag := rfl
@[simp] theorem Tile.modCtx_pauseReq (T : Tile) (x : Nat) (f : Ctx → Ctx) : (T.modCtx x f).pauseReq = T.pauseReq := rfl
@[simp] theorem Tile.modCtx_cmds (T : Tile) (x : Nat) (f : Ctx → Ctx) : (T.modCtx x f).cmds = T.cmds := rfl
@[simp] theorem Tile.modCtx_cq (T : Tile) (x : Nat) (f : Ctx → Ctx) : (T.modCtx x f).cq = T.cq := rfl
@[simp] theorem Tile.modCtx_cqHead (T : Tile) (x : Nat) (f : Ctx → Ctx) : (T.modCtx x f).cqHead = T.cqHead := rfl
@[simp] theorem Tile.modCtx_ingress (T : Tile) (x : Nat) (f : Ctx → Ctx) : (T.modCtx x f).ingress = T.ingress := rfl
@[simp] theorem Tile.modCtx_pass (T : Tile) (x : Nat) (f : Ctx → Ctx) : (T.modCtx x f).pass = T.pass := rfl
@[simp] theorem Tile.modCtx_rngq (T : Tile) (x : Nat) (f : Ctx → Ctx) : (T.modCtx x f).rngq = T.rngq := rfl
@[simp] theorem Tile.modCtx_pwrq (T : Tile) (x : Nat) (f : Ctx → Ctx) : (T.modCtx x f).pwrq = T.pwrq := rfl
@[simp] theorem Tile.modCtx_pwrOut (T : Tile) (x : Nat) (f : Ctx → Ctx) : (T.modCtx x f).pwrOut = T.pwrOut := rfl
@[simp] theorem Tile.modCtx_hostLinks (T : Tile) (x : Nat) (f : Ctx → Ctx) : (T.modCtx x f).hostLinks = T.hostLinks := rfl
@[simp] theorem Tile.modCtx_flushing (T : Tile) (x : Nat) (f : Ctx → Ctx) : (T.modCtx x f).flushing = T.flushing := rfl
@[simp] theorem Tile.modCtx_acks (T : Tile) (x : Nat) (f : Ctx → Ctx) : (T.modCtx x f).acks = T.acks := rfl
@[simp] theorem Tile.modCtx_drawn (T : Tile) (x : Nat) (f : Ctx → Ctx) : (T.modCtx x f).drawn = T.drawn := rfl
@[simp] theorem Tile.modCtx_powEst (T : Tile) (x : Nat) (f : Ctx → Ctx) : (T.modCtx x f).powEst = T.powEst := rfl
@[simp] theorem Tile.modCtx_under (T : Tile) (x : Nat) (f : Ctx → Ctx) : (T.modCtx x f).under = T.under := rfl
@[simp] theorem Tile.modCtx_scrubLine (T : Tile) (x : Nat) (f : Ctx → Ctx) : (T.modCtx x f).scrubLine = T.scrubLine := rfl
@[simp] theorem Tile.modCtx_scrubRow (T : Tile) (x : Nat) (f : Ctx → Ctx) : (T.modCtx x f).scrubRow = T.scrubRow := rfl
@[simp] theorem Tile.modCtx_plot (T : Tile) (x : Nat) (f : Ctx → Ctx) : (T.modCtx x f).plot = T.plot := rfl
@[simp] theorem Tile.modCtx_released (T : Tile) (x : Nat) (f : Ctx → Ctx) : (T.modCtx x f).released = T.released := rfl
@[simp] theorem Tile.modCtx_stopped (T : Tile) (x : Nat) (f : Ctx → Ctx) : (T.modCtx x f).stopped = T.stopped := rfl
@[simp] theorem Tile.modCtx_frozen (T : Tile) (x : Nat) (f : Ctx → Ctx) : (T.modCtx x f).frozen = T.frozen := rfl
@[simp] theorem Tile.modCtx_greq (T : Tile) (x : Nat) (f : Ctx → Ctx) : (T.modCtx x f).greq = T.greq := rfl
@[simp] theorem Tile.modCtx_heldG (T : Tile) (x : Nat) (f : Ctx → Ctx) : (T.modCtx x f).heldG = T.heldG := rfl
@[simp] theorem Tile.modCtx_heldBlocks (T : Tile) (x : Nat) (f : Ctx → Ctx) : (T.modCtx x f).heldBlocks = T.heldBlocks := rfl
@[simp] theorem Tile.modCtx_eligible (T : Tile) (x : Nat) (f : Ctx → Ctx) : (T.modCtx x f).eligible = T.eligible := rfl
@[simp] theorem Tile.modCtx_groups (T : Tile) (x : Nat) (f : Ctx → Ctx) : (T.modCtx x f).groups = T.groups := rfl

@[simp] theorem Tile.setCr_ctxs (T : Tile) (idx : Nat) (v : W64) : (T.setCr idx v).ctxs = T.ctxs := rfl
@[simp] theorem Tile.setCr_imem (T : Tile) (idx : Nat) (v : W64) : (T.setCr idx v).imem = T.imem := rfl
@[simp] theorem Tile.setCr_imemBad (T : Tile) (idx : Nat) (v : W64) : (T.setCr idx v).imemBad = T.imemBad := rfl
@[simp] theorem Tile.setCr_imemFixed (T : Tile) (idx : Nat) (v : W64) : (T.setCr idx v).imemFixed = T.imemFixed := rfl
@[simp] theorem Tile.setCr_pad (T : Tile) (idx : Nat) (v : W64) : (T.setCr idx v).pad = T.pad := rfl
@[simp] theorem Tile.setCr_padPoison (T : Tile) (idx : Nat) (v : W64) : (T.setCr idx v).padPoison = T.padPoison := rfl
@[simp] theorem Tile.setCr_capTags (T : Tile) (idx : Nat) (v : W64) : (T.setCr idx v).capTags = T.capTags := rfl
@[simp] theorem Tile.setCr_lineTags (T : Tile) (idx : Nat) (v : W64) : (T.setCr idx v).lineTags = T.lineTags := rfl
@[simp] theorem Tile.setCr_cycle (T : Tile) (idx : Nat) (v : W64) : (T.setCr idx v).cycle = T.cycle := rfl
@[simp] theorem Tile.setCr_clock (T : Tile) (idx : Nat) (v : W64) : (T.setCr idx v).clock = T.clock := rfl
@[simp] theorem Tile.setCr_active (T : Tile) (idx : Nat) (v : W64) : (T.setCr idx v).active = T.active := rfl
@[simp] theorem Tile.setCr_served (T : Tile) (idx : Nat) (v : W64) : (T.setCr idx v).served = T.served := rfl
@[simp] theorem Tile.setCr_slots (T : Tile) (idx : Nat) (v : W64) : (T.setCr idx v).slots = T.slots := rfl
@[simp] theorem Tile.setCr_cpend (T : Tile) (idx : Nat) (v : W64) : (T.setCr idx v).cpend = T.cpend := rfl
@[simp] theorem Tile.setCr_rc (T : Tile) (idx : Nat) (v : W64) : (T.setCr idx v).rc = T.rc := rfl
@[simp] theorem Tile.setCr_trk (T : Tile) (idx : Nat) (v : W64) : (T.setCr idx v).trk = T.trk := rfl
@[simp] theorem Tile.setCr_tregs (T : Tile) (idx : Nat) (v : W64) : (T.setCr idx v).tregs = T.tregs := rfl
@[simp] theorem Tile.setCr_sets (T : Tile) (idx : Nat) (v : W64) : (T.setCr idx v).sets = T.sets := rfl
@[simp] theorem Tile.setCr_aq (T : Tile) (idx : Nat) (v : W64) : (T.setCr idx v).aq = T.aq := rfl
@[simp] theorem Tile.setCr_lq (T : Tile) (idx : Nat) (v : W64) : (T.setCr idx v).lq = T.lq := rfl
@[simp] theorem Tile.setCr_tq (T : Tile) (idx : Nat) (v : W64) : (T.setCr idx v).tq = T.tq := rfl
@[simp] theorem Tile.setCr_nests (T : Tile) (idx : Nat) (v : W64) : (T.setCr idx v).nests = T.nests := rfl
@[simp] theorem Tile.setCr_paused (T : Tile) (idx : Nat) (v : W64) : (T.setCr idx v).paused = T.paused := rfl
@[simp] theorem Tile.setCr_finj (T : Tile) (idx : Nat) (v : W64) : (T.setCr idx v).finj = T.finj := rfl
@[simp] theorem Tile.setCr_chans (T : Tile) (idx : Nat) (v : W64) : (T.setCr idx v).chans = T.chans := rfl
@[simp] theorem Tile.setCr_ebuf (T : Tile) (idx : Nat) (v : W64) : (T.setCr idx v).ebuf = T.ebuf := rfl
@[simp] theorem Tile.setCr_emitq (T : Tile) (idx : Nat) (v : W64) : (T.setCr idx v).emitq = T.emitq := rfl
@[simp] theorem Tile.setCr_opSeq (T : Tile) (idx : Nat) (v : W64) : (T.setCr idx v).opSeq = T.opSeq := rfl
@[simp] theorem Tile.setCr_blockNext2 (T : Tile) (idx : Nat) (v : W64) : (T.setCr idx v).blockNext2 = T.blockNext2 := rfl
@[simp] theorem Tile.setCr_bandRan (T : Tile) (idx : Nat) (v : W64) : (T.setCr idx v).bandRan = T.bandRan := rfl
@[simp] theorem Tile.setCr_powerLoose (T : Tile) (idx : Nat) (v : W64) : (T.setCr idx v).powerLoose = T.powerLoose := rfl
@[simp] theorem Tile.setCr_goes (T : Tile) (idx : Nat) (v : W64) : (T.setCr idx v).goes = T.goes := rfl
@[simp] theorem Tile.setCr_nextTag (T : Tile) (idx : Nat) (v : W64) : (T.setCr idx v).nextTag = T.nextTag := rfl
@[simp] theorem Tile.setCr_pauseReq (T : Tile) (idx : Nat) (v : W64) : (T.setCr idx v).pauseReq = T.pauseReq := rfl
@[simp] theorem Tile.setCr_cmds (T : Tile) (idx : Nat) (v : W64) : (T.setCr idx v).cmds = T.cmds := rfl
@[simp] theorem Tile.setCr_cq (T : Tile) (idx : Nat) (v : W64) : (T.setCr idx v).cq = T.cq := rfl
@[simp] theorem Tile.setCr_cqHead (T : Tile) (idx : Nat) (v : W64) : (T.setCr idx v).cqHead = T.cqHead := rfl
@[simp] theorem Tile.setCr_ingress (T : Tile) (idx : Nat) (v : W64) : (T.setCr idx v).ingress = T.ingress := rfl
@[simp] theorem Tile.setCr_pass (T : Tile) (idx : Nat) (v : W64) : (T.setCr idx v).pass = T.pass := rfl
@[simp] theorem Tile.setCr_rngq (T : Tile) (idx : Nat) (v : W64) : (T.setCr idx v).rngq = T.rngq := rfl
@[simp] theorem Tile.setCr_pwrq (T : Tile) (idx : Nat) (v : W64) : (T.setCr idx v).pwrq = T.pwrq := rfl
@[simp] theorem Tile.setCr_pwrOut (T : Tile) (idx : Nat) (v : W64) : (T.setCr idx v).pwrOut = T.pwrOut := rfl
@[simp] theorem Tile.setCr_hostLinks (T : Tile) (idx : Nat) (v : W64) : (T.setCr idx v).hostLinks = T.hostLinks := rfl
@[simp] theorem Tile.setCr_flushing (T : Tile) (idx : Nat) (v : W64) : (T.setCr idx v).flushing = T.flushing := rfl
@[simp] theorem Tile.setCr_acks (T : Tile) (idx : Nat) (v : W64) : (T.setCr idx v).acks = T.acks := rfl
@[simp] theorem Tile.setCr_drawn (T : Tile) (idx : Nat) (v : W64) : (T.setCr idx v).drawn = T.drawn := rfl
@[simp] theorem Tile.setCr_powEst (T : Tile) (idx : Nat) (v : W64) : (T.setCr idx v).powEst = T.powEst := rfl
@[simp] theorem Tile.setCr_under (T : Tile) (idx : Nat) (v : W64) : (T.setCr idx v).under = T.under := rfl
@[simp] theorem Tile.setCr_scrubLine (T : Tile) (idx : Nat) (v : W64) : (T.setCr idx v).scrubLine = T.scrubLine := rfl
@[simp] theorem Tile.setCr_scrubRow (T : Tile) (idx : Nat) (v : W64) : (T.setCr idx v).scrubRow = T.scrubRow := rfl
@[simp] theorem Tile.setCr_plot (T : Tile) (idx : Nat) (v : W64) : (T.setCr idx v).plot = T.plot := rfl
@[simp] theorem Tile.setCr_released (T : Tile) (idx : Nat) (v : W64) : (T.setCr idx v).released = T.released := rfl
@[simp] theorem Tile.setCr_stopped (T : Tile) (idx : Nat) (v : W64) : (T.setCr idx v).stopped = T.stopped := rfl
@[simp] theorem Tile.setCr_frozen (T : Tile) (idx : Nat) (v : W64) : (T.setCr idx v).frozen = T.frozen := rfl
@[simp] theorem Tile.setCr_greq (T : Tile) (idx : Nat) (v : W64) : (T.setCr idx v).greq = T.greq := rfl
@[simp] theorem Tile.setCr_heldG (T : Tile) (idx : Nat) (v : W64) : (T.setCr idx v).heldG = T.heldG := rfl
@[simp] theorem Tile.setCr_heldBlocks (T : Tile) (idx : Nat) (v : W64) : (T.setCr idx v).heldBlocks = T.heldBlocks := rfl
@[simp] theorem Tile.setCr_eligible (T : Tile) (idx : Nat) (v : W64) : (T.setCr idx v).eligible = T.eligible := rfl
@[simp] theorem Tile.setCr_groups (T : Tile) (idx : Nat) (v : W64) : (T.setCr idx v).groups = T.groups := rfl

@[simp] theorem Tile.modCr_ctxs (T : Tile) (idx : Nat) (f : W64 → W64) : (T.modCr idx f).ctxs = T.ctxs := rfl
@[simp] theorem Tile.modCr_imem (T : Tile) (idx : Nat) (f : W64 → W64) : (T.modCr idx f).imem = T.imem := rfl
@[simp] theorem Tile.modCr_imemBad (T : Tile) (idx : Nat) (f : W64 → W64) : (T.modCr idx f).imemBad = T.imemBad := rfl
@[simp] theorem Tile.modCr_imemFixed (T : Tile) (idx : Nat) (f : W64 → W64) : (T.modCr idx f).imemFixed = T.imemFixed := rfl
@[simp] theorem Tile.modCr_pad (T : Tile) (idx : Nat) (f : W64 → W64) : (T.modCr idx f).pad = T.pad := rfl
@[simp] theorem Tile.modCr_padPoison (T : Tile) (idx : Nat) (f : W64 → W64) : (T.modCr idx f).padPoison = T.padPoison := rfl
@[simp] theorem Tile.modCr_capTags (T : Tile) (idx : Nat) (f : W64 → W64) : (T.modCr idx f).capTags = T.capTags := rfl
@[simp] theorem Tile.modCr_lineTags (T : Tile) (idx : Nat) (f : W64 → W64) : (T.modCr idx f).lineTags = T.lineTags := rfl
@[simp] theorem Tile.modCr_cycle (T : Tile) (idx : Nat) (f : W64 → W64) : (T.modCr idx f).cycle = T.cycle := rfl
@[simp] theorem Tile.modCr_clock (T : Tile) (idx : Nat) (f : W64 → W64) : (T.modCr idx f).clock = T.clock := rfl
@[simp] theorem Tile.modCr_active (T : Tile) (idx : Nat) (f : W64 → W64) : (T.modCr idx f).active = T.active := rfl
@[simp] theorem Tile.modCr_served (T : Tile) (idx : Nat) (f : W64 → W64) : (T.modCr idx f).served = T.served := rfl
@[simp] theorem Tile.modCr_slots (T : Tile) (idx : Nat) (f : W64 → W64) : (T.modCr idx f).slots = T.slots := rfl
@[simp] theorem Tile.modCr_cpend (T : Tile) (idx : Nat) (f : W64 → W64) : (T.modCr idx f).cpend = T.cpend := rfl
@[simp] theorem Tile.modCr_rc (T : Tile) (idx : Nat) (f : W64 → W64) : (T.modCr idx f).rc = T.rc := rfl
@[simp] theorem Tile.modCr_trk (T : Tile) (idx : Nat) (f : W64 → W64) : (T.modCr idx f).trk = T.trk := rfl
@[simp] theorem Tile.modCr_tregs (T : Tile) (idx : Nat) (f : W64 → W64) : (T.modCr idx f).tregs = T.tregs := rfl
@[simp] theorem Tile.modCr_sets (T : Tile) (idx : Nat) (f : W64 → W64) : (T.modCr idx f).sets = T.sets := rfl
@[simp] theorem Tile.modCr_aq (T : Tile) (idx : Nat) (f : W64 → W64) : (T.modCr idx f).aq = T.aq := rfl
@[simp] theorem Tile.modCr_lq (T : Tile) (idx : Nat) (f : W64 → W64) : (T.modCr idx f).lq = T.lq := rfl
@[simp] theorem Tile.modCr_tq (T : Tile) (idx : Nat) (f : W64 → W64) : (T.modCr idx f).tq = T.tq := rfl
@[simp] theorem Tile.modCr_nests (T : Tile) (idx : Nat) (f : W64 → W64) : (T.modCr idx f).nests = T.nests := rfl
@[simp] theorem Tile.modCr_paused (T : Tile) (idx : Nat) (f : W64 → W64) : (T.modCr idx f).paused = T.paused := rfl
@[simp] theorem Tile.modCr_finj (T : Tile) (idx : Nat) (f : W64 → W64) : (T.modCr idx f).finj = T.finj := rfl
@[simp] theorem Tile.modCr_chans (T : Tile) (idx : Nat) (f : W64 → W64) : (T.modCr idx f).chans = T.chans := rfl
@[simp] theorem Tile.modCr_ebuf (T : Tile) (idx : Nat) (f : W64 → W64) : (T.modCr idx f).ebuf = T.ebuf := rfl
@[simp] theorem Tile.modCr_emitq (T : Tile) (idx : Nat) (f : W64 → W64) : (T.modCr idx f).emitq = T.emitq := rfl
@[simp] theorem Tile.modCr_opSeq (T : Tile) (idx : Nat) (f : W64 → W64) : (T.modCr idx f).opSeq = T.opSeq := rfl
@[simp] theorem Tile.modCr_blockNext2 (T : Tile) (idx : Nat) (f : W64 → W64) : (T.modCr idx f).blockNext2 = T.blockNext2 := rfl
@[simp] theorem Tile.modCr_bandRan (T : Tile) (idx : Nat) (f : W64 → W64) : (T.modCr idx f).bandRan = T.bandRan := rfl
@[simp] theorem Tile.modCr_powerLoose (T : Tile) (idx : Nat) (f : W64 → W64) : (T.modCr idx f).powerLoose = T.powerLoose := rfl
@[simp] theorem Tile.modCr_goes (T : Tile) (idx : Nat) (f : W64 → W64) : (T.modCr idx f).goes = T.goes := rfl
@[simp] theorem Tile.modCr_nextTag (T : Tile) (idx : Nat) (f : W64 → W64) : (T.modCr idx f).nextTag = T.nextTag := rfl
@[simp] theorem Tile.modCr_pauseReq (T : Tile) (idx : Nat) (f : W64 → W64) : (T.modCr idx f).pauseReq = T.pauseReq := rfl
@[simp] theorem Tile.modCr_cmds (T : Tile) (idx : Nat) (f : W64 → W64) : (T.modCr idx f).cmds = T.cmds := rfl
@[simp] theorem Tile.modCr_cq (T : Tile) (idx : Nat) (f : W64 → W64) : (T.modCr idx f).cq = T.cq := rfl
@[simp] theorem Tile.modCr_cqHead (T : Tile) (idx : Nat) (f : W64 → W64) : (T.modCr idx f).cqHead = T.cqHead := rfl
@[simp] theorem Tile.modCr_ingress (T : Tile) (idx : Nat) (f : W64 → W64) : (T.modCr idx f).ingress = T.ingress := rfl
@[simp] theorem Tile.modCr_pass (T : Tile) (idx : Nat) (f : W64 → W64) : (T.modCr idx f).pass = T.pass := rfl
@[simp] theorem Tile.modCr_rngq (T : Tile) (idx : Nat) (f : W64 → W64) : (T.modCr idx f).rngq = T.rngq := rfl
@[simp] theorem Tile.modCr_pwrq (T : Tile) (idx : Nat) (f : W64 → W64) : (T.modCr idx f).pwrq = T.pwrq := rfl
@[simp] theorem Tile.modCr_pwrOut (T : Tile) (idx : Nat) (f : W64 → W64) : (T.modCr idx f).pwrOut = T.pwrOut := rfl
@[simp] theorem Tile.modCr_hostLinks (T : Tile) (idx : Nat) (f : W64 → W64) : (T.modCr idx f).hostLinks = T.hostLinks := rfl
@[simp] theorem Tile.modCr_flushing (T : Tile) (idx : Nat) (f : W64 → W64) : (T.modCr idx f).flushing = T.flushing := rfl
@[simp] theorem Tile.modCr_acks (T : Tile) (idx : Nat) (f : W64 → W64) : (T.modCr idx f).acks = T.acks := rfl
@[simp] theorem Tile.modCr_drawn (T : Tile) (idx : Nat) (f : W64 → W64) : (T.modCr idx f).drawn = T.drawn := rfl
@[simp] theorem Tile.modCr_powEst (T : Tile) (idx : Nat) (f : W64 → W64) : (T.modCr idx f).powEst = T.powEst := rfl
@[simp] theorem Tile.modCr_under (T : Tile) (idx : Nat) (f : W64 → W64) : (T.modCr idx f).under = T.under := rfl
@[simp] theorem Tile.modCr_scrubLine (T : Tile) (idx : Nat) (f : W64 → W64) : (T.modCr idx f).scrubLine = T.scrubLine := rfl
@[simp] theorem Tile.modCr_scrubRow (T : Tile) (idx : Nat) (f : W64 → W64) : (T.modCr idx f).scrubRow = T.scrubRow := rfl
@[simp] theorem Tile.modCr_plot (T : Tile) (idx : Nat) (f : W64 → W64) : (T.modCr idx f).plot = T.plot := rfl
@[simp] theorem Tile.modCr_released (T : Tile) (idx : Nat) (f : W64 → W64) : (T.modCr idx f).released = T.released := rfl
@[simp] theorem Tile.modCr_stopped (T : Tile) (idx : Nat) (f : W64 → W64) : (T.modCr idx f).stopped = T.stopped := rfl
@[simp] theorem Tile.modCr_frozen (T : Tile) (idx : Nat) (f : W64 → W64) : (T.modCr idx f).frozen = T.frozen := rfl
@[simp] theorem Tile.modCr_greq (T : Tile) (idx : Nat) (f : W64 → W64) : (T.modCr idx f).greq = T.greq := rfl
@[simp] theorem Tile.modCr_heldG (T : Tile) (idx : Nat) (f : W64 → W64) : (T.modCr idx f).heldG = T.heldG := rfl
@[simp] theorem Tile.modCr_heldBlocks (T : Tile) (idx : Nat) (f : W64 → W64) : (T.modCr idx f).heldBlocks = T.heldBlocks := rfl
@[simp] theorem Tile.modCr_eligible (T : Tile) (idx : Nat) (f : W64 → W64) : (T.modCr idx f).eligible = T.eligible := rfl
@[simp] theorem Tile.modCr_groups (T : Tile) (idx : Nat) (f : W64 → W64) : (T.modCr idx f).groups = T.groups := rfl

@[simp] theorem Tile.setTreg_ctxs (T : Tile) (i : Nat) (r : TReg) : (T.setTreg i r).ctxs = T.ctxs := rfl
@[simp] theorem Tile.setTreg_creg (T : Tile) (i : Nat) (r : TReg) : (T.setTreg i r).creg = T.creg := rfl
@[simp] theorem Tile.setTreg_imem (T : Tile) (i : Nat) (r : TReg) : (T.setTreg i r).imem = T.imem := rfl
@[simp] theorem Tile.setTreg_imemBad (T : Tile) (i : Nat) (r : TReg) : (T.setTreg i r).imemBad = T.imemBad := rfl
@[simp] theorem Tile.setTreg_imemFixed (T : Tile) (i : Nat) (r : TReg) : (T.setTreg i r).imemFixed = T.imemFixed := rfl
@[simp] theorem Tile.setTreg_pad (T : Tile) (i : Nat) (r : TReg) : (T.setTreg i r).pad = T.pad := rfl
@[simp] theorem Tile.setTreg_padPoison (T : Tile) (i : Nat) (r : TReg) : (T.setTreg i r).padPoison = T.padPoison := rfl
@[simp] theorem Tile.setTreg_capTags (T : Tile) (i : Nat) (r : TReg) : (T.setTreg i r).capTags = T.capTags := rfl
@[simp] theorem Tile.setTreg_lineTags (T : Tile) (i : Nat) (r : TReg) : (T.setTreg i r).lineTags = T.lineTags := rfl
@[simp] theorem Tile.setTreg_cycle (T : Tile) (i : Nat) (r : TReg) : (T.setTreg i r).cycle = T.cycle := rfl
@[simp] theorem Tile.setTreg_clock (T : Tile) (i : Nat) (r : TReg) : (T.setTreg i r).clock = T.clock := rfl
@[simp] theorem Tile.setTreg_active (T : Tile) (i : Nat) (r : TReg) : (T.setTreg i r).active = T.active := rfl
@[simp] theorem Tile.setTreg_served (T : Tile) (i : Nat) (r : TReg) : (T.setTreg i r).served = T.served := rfl
@[simp] theorem Tile.setTreg_slots (T : Tile) (i : Nat) (r : TReg) : (T.setTreg i r).slots = T.slots := rfl
@[simp] theorem Tile.setTreg_cpend (T : Tile) (i : Nat) (r : TReg) : (T.setTreg i r).cpend = T.cpend := rfl
@[simp] theorem Tile.setTreg_rc (T : Tile) (i : Nat) (r : TReg) : (T.setTreg i r).rc = T.rc := rfl
@[simp] theorem Tile.setTreg_trk (T : Tile) (i : Nat) (r : TReg) : (T.setTreg i r).trk = T.trk := rfl
@[simp] theorem Tile.setTreg_sets (T : Tile) (i : Nat) (r : TReg) : (T.setTreg i r).sets = T.sets := rfl
@[simp] theorem Tile.setTreg_aq (T : Tile) (i : Nat) (r : TReg) : (T.setTreg i r).aq = T.aq := rfl
@[simp] theorem Tile.setTreg_lq (T : Tile) (i : Nat) (r : TReg) : (T.setTreg i r).lq = T.lq := rfl
@[simp] theorem Tile.setTreg_tq (T : Tile) (i : Nat) (r : TReg) : (T.setTreg i r).tq = T.tq := rfl
@[simp] theorem Tile.setTreg_nests (T : Tile) (i : Nat) (r : TReg) : (T.setTreg i r).nests = T.nests := rfl
@[simp] theorem Tile.setTreg_paused (T : Tile) (i : Nat) (r : TReg) : (T.setTreg i r).paused = T.paused := rfl
@[simp] theorem Tile.setTreg_finj (T : Tile) (i : Nat) (r : TReg) : (T.setTreg i r).finj = T.finj := rfl
@[simp] theorem Tile.setTreg_chans (T : Tile) (i : Nat) (r : TReg) : (T.setTreg i r).chans = T.chans := rfl
@[simp] theorem Tile.setTreg_ebuf (T : Tile) (i : Nat) (r : TReg) : (T.setTreg i r).ebuf = T.ebuf := rfl
@[simp] theorem Tile.setTreg_emitq (T : Tile) (i : Nat) (r : TReg) : (T.setTreg i r).emitq = T.emitq := rfl
@[simp] theorem Tile.setTreg_opSeq (T : Tile) (i : Nat) (r : TReg) : (T.setTreg i r).opSeq = T.opSeq := rfl
@[simp] theorem Tile.setTreg_blockNext2 (T : Tile) (i : Nat) (r : TReg) : (T.setTreg i r).blockNext2 = T.blockNext2 := rfl
@[simp] theorem Tile.setTreg_bandRan (T : Tile) (i : Nat) (r : TReg) : (T.setTreg i r).bandRan = T.bandRan := rfl
@[simp] theorem Tile.setTreg_powerLoose (T : Tile) (i : Nat) (r : TReg) : (T.setTreg i r).powerLoose = T.powerLoose := rfl
@[simp] theorem Tile.setTreg_goes (T : Tile) (i : Nat) (r : TReg) : (T.setTreg i r).goes = T.goes := rfl
@[simp] theorem Tile.setTreg_nextTag (T : Tile) (i : Nat) (r : TReg) : (T.setTreg i r).nextTag = T.nextTag := rfl
@[simp] theorem Tile.setTreg_pauseReq (T : Tile) (i : Nat) (r : TReg) : (T.setTreg i r).pauseReq = T.pauseReq := rfl
@[simp] theorem Tile.setTreg_cmds (T : Tile) (i : Nat) (r : TReg) : (T.setTreg i r).cmds = T.cmds := rfl
@[simp] theorem Tile.setTreg_cq (T : Tile) (i : Nat) (r : TReg) : (T.setTreg i r).cq = T.cq := rfl
@[simp] theorem Tile.setTreg_cqHead (T : Tile) (i : Nat) (r : TReg) : (T.setTreg i r).cqHead = T.cqHead := rfl
@[simp] theorem Tile.setTreg_ingress (T : Tile) (i : Nat) (r : TReg) : (T.setTreg i r).ingress = T.ingress := rfl
@[simp] theorem Tile.setTreg_pass (T : Tile) (i : Nat) (r : TReg) : (T.setTreg i r).pass = T.pass := rfl
@[simp] theorem Tile.setTreg_rngq (T : Tile) (i : Nat) (r : TReg) : (T.setTreg i r).rngq = T.rngq := rfl
@[simp] theorem Tile.setTreg_pwrq (T : Tile) (i : Nat) (r : TReg) : (T.setTreg i r).pwrq = T.pwrq := rfl
@[simp] theorem Tile.setTreg_pwrOut (T : Tile) (i : Nat) (r : TReg) : (T.setTreg i r).pwrOut = T.pwrOut := rfl
@[simp] theorem Tile.setTreg_hostLinks (T : Tile) (i : Nat) (r : TReg) : (T.setTreg i r).hostLinks = T.hostLinks := rfl
@[simp] theorem Tile.setTreg_flushing (T : Tile) (i : Nat) (r : TReg) : (T.setTreg i r).flushing = T.flushing := rfl
@[simp] theorem Tile.setTreg_acks (T : Tile) (i : Nat) (r : TReg) : (T.setTreg i r).acks = T.acks := rfl
@[simp] theorem Tile.setTreg_drawn (T : Tile) (i : Nat) (r : TReg) : (T.setTreg i r).drawn = T.drawn := rfl
@[simp] theorem Tile.setTreg_powEst (T : Tile) (i : Nat) (r : TReg) : (T.setTreg i r).powEst = T.powEst := rfl
@[simp] theorem Tile.setTreg_under (T : Tile) (i : Nat) (r : TReg) : (T.setTreg i r).under = T.under := rfl
@[simp] theorem Tile.setTreg_scrubLine (T : Tile) (i : Nat) (r : TReg) : (T.setTreg i r).scrubLine = T.scrubLine := rfl
@[simp] theorem Tile.setTreg_scrubRow (T : Tile) (i : Nat) (r : TReg) : (T.setTreg i r).scrubRow = T.scrubRow := rfl
@[simp] theorem Tile.setTreg_plot (T : Tile) (i : Nat) (r : TReg) : (T.setTreg i r).plot = T.plot := rfl
@[simp] theorem Tile.setTreg_released (T : Tile) (i : Nat) (r : TReg) : (T.setTreg i r).released = T.released := rfl
@[simp] theorem Tile.setTreg_stopped (T : Tile) (i : Nat) (r : TReg) : (T.setTreg i r).stopped = T.stopped := rfl
@[simp] theorem Tile.setTreg_frozen (T : Tile) (i : Nat) (r : TReg) : (T.setTreg i r).frozen = T.frozen := rfl
@[simp] theorem Tile.setTreg_greq (T : Tile) (i : Nat) (r : TReg) : (T.setTreg i r).greq = T.greq := rfl
@[simp] theorem Tile.setTreg_heldG (T : Tile) (i : Nat) (r : TReg) : (T.setTreg i r).heldG = T.heldG := rfl
@[simp] theorem Tile.setTreg_heldBlocks (T : Tile) (i : Nat) (r : TReg) : (T.setTreg i r).heldBlocks = T.heldBlocks := rfl
@[simp] theorem Tile.setTreg_eligible (T : Tile) (i : Nat) (r : TReg) : (T.setTreg i r).eligible = T.eligible := rfl
@[simp] theorem Tile.setTreg_groups (T : Tile) (i : Nat) (r : TReg) : (T.setTreg i r).groups = T.groups := rfl

@[simp] theorem Tile.padSetPoison_ctxs (T : Tile) (a n : Nat) (poison : Bool) : (T.padSetPoison a n poison).ctxs = T.ctxs := rfl
@[simp] theorem Tile.padSetPoison_creg (T : Tile) (a n : Nat) (poison : Bool) : (T.padSetPoison a n poison).creg = T.creg := rfl
@[simp] theorem Tile.padSetPoison_imem (T : Tile) (a n : Nat) (poison : Bool) : (T.padSetPoison a n poison).imem = T.imem := rfl
@[simp] theorem Tile.padSetPoison_imemBad (T : Tile) (a n : Nat) (poison : Bool) : (T.padSetPoison a n poison).imemBad = T.imemBad := rfl
@[simp] theorem Tile.padSetPoison_imemFixed (T : Tile) (a n : Nat) (poison : Bool) : (T.padSetPoison a n poison).imemFixed = T.imemFixed := rfl
@[simp] theorem Tile.padSetPoison_pad (T : Tile) (a n : Nat) (poison : Bool) : (T.padSetPoison a n poison).pad = T.pad := rfl
@[simp] theorem Tile.padSetPoison_capTags (T : Tile) (a n : Nat) (poison : Bool) : (T.padSetPoison a n poison).capTags = T.capTags := rfl
@[simp] theorem Tile.padSetPoison_lineTags (T : Tile) (a n : Nat) (poison : Bool) : (T.padSetPoison a n poison).lineTags = T.lineTags := rfl
@[simp] theorem Tile.padSetPoison_cycle (T : Tile) (a n : Nat) (poison : Bool) : (T.padSetPoison a n poison).cycle = T.cycle := rfl
@[simp] theorem Tile.padSetPoison_clock (T : Tile) (a n : Nat) (poison : Bool) : (T.padSetPoison a n poison).clock = T.clock := rfl
@[simp] theorem Tile.padSetPoison_active (T : Tile) (a n : Nat) (poison : Bool) : (T.padSetPoison a n poison).active = T.active := rfl
@[simp] theorem Tile.padSetPoison_served (T : Tile) (a n : Nat) (poison : Bool) : (T.padSetPoison a n poison).served = T.served := rfl
@[simp] theorem Tile.padSetPoison_slots (T : Tile) (a n : Nat) (poison : Bool) : (T.padSetPoison a n poison).slots = T.slots := rfl
@[simp] theorem Tile.padSetPoison_cpend (T : Tile) (a n : Nat) (poison : Bool) : (T.padSetPoison a n poison).cpend = T.cpend := rfl
@[simp] theorem Tile.padSetPoison_rc (T : Tile) (a n : Nat) (poison : Bool) : (T.padSetPoison a n poison).rc = T.rc := rfl
@[simp] theorem Tile.padSetPoison_trk (T : Tile) (a n : Nat) (poison : Bool) : (T.padSetPoison a n poison).trk = T.trk := rfl
@[simp] theorem Tile.padSetPoison_tregs (T : Tile) (a n : Nat) (poison : Bool) : (T.padSetPoison a n poison).tregs = T.tregs := rfl
@[simp] theorem Tile.padSetPoison_sets (T : Tile) (a n : Nat) (poison : Bool) : (T.padSetPoison a n poison).sets = T.sets := rfl
@[simp] theorem Tile.padSetPoison_aq (T : Tile) (a n : Nat) (poison : Bool) : (T.padSetPoison a n poison).aq = T.aq := rfl
@[simp] theorem Tile.padSetPoison_lq (T : Tile) (a n : Nat) (poison : Bool) : (T.padSetPoison a n poison).lq = T.lq := rfl
@[simp] theorem Tile.padSetPoison_tq (T : Tile) (a n : Nat) (poison : Bool) : (T.padSetPoison a n poison).tq = T.tq := rfl
@[simp] theorem Tile.padSetPoison_nests (T : Tile) (a n : Nat) (poison : Bool) : (T.padSetPoison a n poison).nests = T.nests := rfl
@[simp] theorem Tile.padSetPoison_paused (T : Tile) (a n : Nat) (poison : Bool) : (T.padSetPoison a n poison).paused = T.paused := rfl
@[simp] theorem Tile.padSetPoison_finj (T : Tile) (a n : Nat) (poison : Bool) : (T.padSetPoison a n poison).finj = T.finj := rfl
@[simp] theorem Tile.padSetPoison_chans (T : Tile) (a n : Nat) (poison : Bool) : (T.padSetPoison a n poison).chans = T.chans := rfl
@[simp] theorem Tile.padSetPoison_ebuf (T : Tile) (a n : Nat) (poison : Bool) : (T.padSetPoison a n poison).ebuf = T.ebuf := rfl
@[simp] theorem Tile.padSetPoison_emitq (T : Tile) (a n : Nat) (poison : Bool) : (T.padSetPoison a n poison).emitq = T.emitq := rfl
@[simp] theorem Tile.padSetPoison_opSeq (T : Tile) (a n : Nat) (poison : Bool) : (T.padSetPoison a n poison).opSeq = T.opSeq := rfl
@[simp] theorem Tile.padSetPoison_blockNext2 (T : Tile) (a n : Nat) (poison : Bool) : (T.padSetPoison a n poison).blockNext2 = T.blockNext2 := rfl
@[simp] theorem Tile.padSetPoison_bandRan (T : Tile) (a n : Nat) (poison : Bool) : (T.padSetPoison a n poison).bandRan = T.bandRan := rfl
@[simp] theorem Tile.padSetPoison_powerLoose (T : Tile) (a n : Nat) (poison : Bool) : (T.padSetPoison a n poison).powerLoose = T.powerLoose := rfl
@[simp] theorem Tile.padSetPoison_goes (T : Tile) (a n : Nat) (poison : Bool) : (T.padSetPoison a n poison).goes = T.goes := rfl
@[simp] theorem Tile.padSetPoison_nextTag (T : Tile) (a n : Nat) (poison : Bool) : (T.padSetPoison a n poison).nextTag = T.nextTag := rfl
@[simp] theorem Tile.padSetPoison_pauseReq (T : Tile) (a n : Nat) (poison : Bool) : (T.padSetPoison a n poison).pauseReq = T.pauseReq := rfl
@[simp] theorem Tile.padSetPoison_cmds (T : Tile) (a n : Nat) (poison : Bool) : (T.padSetPoison a n poison).cmds = T.cmds := rfl
@[simp] theorem Tile.padSetPoison_cq (T : Tile) (a n : Nat) (poison : Bool) : (T.padSetPoison a n poison).cq = T.cq := rfl
@[simp] theorem Tile.padSetPoison_cqHead (T : Tile) (a n : Nat) (poison : Bool) : (T.padSetPoison a n poison).cqHead = T.cqHead := rfl
@[simp] theorem Tile.padSetPoison_ingress (T : Tile) (a n : Nat) (poison : Bool) : (T.padSetPoison a n poison).ingress = T.ingress := rfl
@[simp] theorem Tile.padSetPoison_pass (T : Tile) (a n : Nat) (poison : Bool) : (T.padSetPoison a n poison).pass = T.pass := rfl
@[simp] theorem Tile.padSetPoison_rngq (T : Tile) (a n : Nat) (poison : Bool) : (T.padSetPoison a n poison).rngq = T.rngq := rfl
@[simp] theorem Tile.padSetPoison_pwrq (T : Tile) (a n : Nat) (poison : Bool) : (T.padSetPoison a n poison).pwrq = T.pwrq := rfl
@[simp] theorem Tile.padSetPoison_pwrOut (T : Tile) (a n : Nat) (poison : Bool) : (T.padSetPoison a n poison).pwrOut = T.pwrOut := rfl
@[simp] theorem Tile.padSetPoison_hostLinks (T : Tile) (a n : Nat) (poison : Bool) : (T.padSetPoison a n poison).hostLinks = T.hostLinks := rfl
@[simp] theorem Tile.padSetPoison_flushing (T : Tile) (a n : Nat) (poison : Bool) : (T.padSetPoison a n poison).flushing = T.flushing := rfl
@[simp] theorem Tile.padSetPoison_acks (T : Tile) (a n : Nat) (poison : Bool) : (T.padSetPoison a n poison).acks = T.acks := rfl
@[simp] theorem Tile.padSetPoison_drawn (T : Tile) (a n : Nat) (poison : Bool) : (T.padSetPoison a n poison).drawn = T.drawn := rfl
@[simp] theorem Tile.padSetPoison_powEst (T : Tile) (a n : Nat) (poison : Bool) : (T.padSetPoison a n poison).powEst = T.powEst := rfl
@[simp] theorem Tile.padSetPoison_under (T : Tile) (a n : Nat) (poison : Bool) : (T.padSetPoison a n poison).under = T.under := rfl
@[simp] theorem Tile.padSetPoison_scrubLine (T : Tile) (a n : Nat) (poison : Bool) : (T.padSetPoison a n poison).scrubLine = T.scrubLine := rfl
@[simp] theorem Tile.padSetPoison_scrubRow (T : Tile) (a n : Nat) (poison : Bool) : (T.padSetPoison a n poison).scrubRow = T.scrubRow := rfl
@[simp] theorem Tile.padSetPoison_plot (T : Tile) (a n : Nat) (poison : Bool) : (T.padSetPoison a n poison).plot = T.plot := rfl
@[simp] theorem Tile.padSetPoison_released (T : Tile) (a n : Nat) (poison : Bool) : (T.padSetPoison a n poison).released = T.released := rfl
@[simp] theorem Tile.padSetPoison_stopped (T : Tile) (a n : Nat) (poison : Bool) : (T.padSetPoison a n poison).stopped = T.stopped := rfl
@[simp] theorem Tile.padSetPoison_frozen (T : Tile) (a n : Nat) (poison : Bool) : (T.padSetPoison a n poison).frozen = T.frozen := rfl
@[simp] theorem Tile.padSetPoison_greq (T : Tile) (a n : Nat) (poison : Bool) : (T.padSetPoison a n poison).greq = T.greq := rfl
@[simp] theorem Tile.padSetPoison_heldG (T : Tile) (a n : Nat) (poison : Bool) : (T.padSetPoison a n poison).heldG = T.heldG := rfl
@[simp] theorem Tile.padSetPoison_heldBlocks (T : Tile) (a n : Nat) (poison : Bool) : (T.padSetPoison a n poison).heldBlocks = T.heldBlocks := rfl
@[simp] theorem Tile.padSetPoison_eligible (T : Tile) (a n : Nat) (poison : Bool) : (T.padSetPoison a n poison).eligible = T.eligible := rfl
@[simp] theorem Tile.padSetPoison_groups (T : Tile) (a n : Nat) (poison : Bool) : (T.padSetPoison a n poison).groups = T.groups := rfl

@[simp] theorem Tile.clearCapTags_ctxs (T : Tile) (a n : Nat) : (T.clearCapTags a n).ctxs = T.ctxs := rfl
@[simp] theorem Tile.clearCapTags_creg (T : Tile) (a n : Nat) : (T.clearCapTags a n).creg = T.creg := rfl
@[simp] theorem Tile.clearCapTags_imem (T : Tile) (a n : Nat) : (T.clearCapTags a n).imem = T.imem := rfl
@[simp] theorem Tile.clearCapTags_imemBad (T : Tile) (a n : Nat) : (T.clearCapTags a n).imemBad = T.imemBad := rfl
@[simp] theorem Tile.clearCapTags_imemFixed (T : Tile) (a n : Nat) : (T.clearCapTags a n).imemFixed = T.imemFixed := rfl
@[simp] theorem Tile.clearCapTags_pad (T : Tile) (a n : Nat) : (T.clearCapTags a n).pad = T.pad := rfl
@[simp] theorem Tile.clearCapTags_padPoison (T : Tile) (a n : Nat) : (T.clearCapTags a n).padPoison = T.padPoison := rfl
@[simp] theorem Tile.clearCapTags_lineTags (T : Tile) (a n : Nat) : (T.clearCapTags a n).lineTags = T.lineTags := rfl
@[simp] theorem Tile.clearCapTags_cycle (T : Tile) (a n : Nat) : (T.clearCapTags a n).cycle = T.cycle := rfl
@[simp] theorem Tile.clearCapTags_clock (T : Tile) (a n : Nat) : (T.clearCapTags a n).clock = T.clock := rfl
@[simp] theorem Tile.clearCapTags_active (T : Tile) (a n : Nat) : (T.clearCapTags a n).active = T.active := rfl
@[simp] theorem Tile.clearCapTags_served (T : Tile) (a n : Nat) : (T.clearCapTags a n).served = T.served := rfl
@[simp] theorem Tile.clearCapTags_slots (T : Tile) (a n : Nat) : (T.clearCapTags a n).slots = T.slots := rfl
@[simp] theorem Tile.clearCapTags_cpend (T : Tile) (a n : Nat) : (T.clearCapTags a n).cpend = T.cpend := rfl
@[simp] theorem Tile.clearCapTags_rc (T : Tile) (a n : Nat) : (T.clearCapTags a n).rc = T.rc := rfl
@[simp] theorem Tile.clearCapTags_trk (T : Tile) (a n : Nat) : (T.clearCapTags a n).trk = T.trk := rfl
@[simp] theorem Tile.clearCapTags_tregs (T : Tile) (a n : Nat) : (T.clearCapTags a n).tregs = T.tregs := rfl
@[simp] theorem Tile.clearCapTags_sets (T : Tile) (a n : Nat) : (T.clearCapTags a n).sets = T.sets := rfl
@[simp] theorem Tile.clearCapTags_aq (T : Tile) (a n : Nat) : (T.clearCapTags a n).aq = T.aq := rfl
@[simp] theorem Tile.clearCapTags_lq (T : Tile) (a n : Nat) : (T.clearCapTags a n).lq = T.lq := rfl
@[simp] theorem Tile.clearCapTags_tq (T : Tile) (a n : Nat) : (T.clearCapTags a n).tq = T.tq := rfl
@[simp] theorem Tile.clearCapTags_nests (T : Tile) (a n : Nat) : (T.clearCapTags a n).nests = T.nests := rfl
@[simp] theorem Tile.clearCapTags_paused (T : Tile) (a n : Nat) : (T.clearCapTags a n).paused = T.paused := rfl
@[simp] theorem Tile.clearCapTags_finj (T : Tile) (a n : Nat) : (T.clearCapTags a n).finj = T.finj := rfl
@[simp] theorem Tile.clearCapTags_chans (T : Tile) (a n : Nat) : (T.clearCapTags a n).chans = T.chans := rfl
@[simp] theorem Tile.clearCapTags_ebuf (T : Tile) (a n : Nat) : (T.clearCapTags a n).ebuf = T.ebuf := rfl
@[simp] theorem Tile.clearCapTags_emitq (T : Tile) (a n : Nat) : (T.clearCapTags a n).emitq = T.emitq := rfl
@[simp] theorem Tile.clearCapTags_opSeq (T : Tile) (a n : Nat) : (T.clearCapTags a n).opSeq = T.opSeq := rfl
@[simp] theorem Tile.clearCapTags_blockNext2 (T : Tile) (a n : Nat) : (T.clearCapTags a n).blockNext2 = T.blockNext2 := rfl
@[simp] theorem Tile.clearCapTags_bandRan (T : Tile) (a n : Nat) : (T.clearCapTags a n).bandRan = T.bandRan := rfl
@[simp] theorem Tile.clearCapTags_powerLoose (T : Tile) (a n : Nat) : (T.clearCapTags a n).powerLoose = T.powerLoose := rfl
@[simp] theorem Tile.clearCapTags_goes (T : Tile) (a n : Nat) : (T.clearCapTags a n).goes = T.goes := rfl
@[simp] theorem Tile.clearCapTags_nextTag (T : Tile) (a n : Nat) : (T.clearCapTags a n).nextTag = T.nextTag := rfl
@[simp] theorem Tile.clearCapTags_pauseReq (T : Tile) (a n : Nat) : (T.clearCapTags a n).pauseReq = T.pauseReq := rfl
@[simp] theorem Tile.clearCapTags_cmds (T : Tile) (a n : Nat) : (T.clearCapTags a n).cmds = T.cmds := rfl
@[simp] theorem Tile.clearCapTags_cq (T : Tile) (a n : Nat) : (T.clearCapTags a n).cq = T.cq := rfl
@[simp] theorem Tile.clearCapTags_cqHead (T : Tile) (a n : Nat) : (T.clearCapTags a n).cqHead = T.cqHead := rfl
@[simp] theorem Tile.clearCapTags_ingress (T : Tile) (a n : Nat) : (T.clearCapTags a n).ingress = T.ingress := rfl
@[simp] theorem Tile.clearCapTags_pass (T : Tile) (a n : Nat) : (T.clearCapTags a n).pass = T.pass := rfl
@[simp] theorem Tile.clearCapTags_rngq (T : Tile) (a n : Nat) : (T.clearCapTags a n).rngq = T.rngq := rfl
@[simp] theorem Tile.clearCapTags_pwrq (T : Tile) (a n : Nat) : (T.clearCapTags a n).pwrq = T.pwrq := rfl
@[simp] theorem Tile.clearCapTags_pwrOut (T : Tile) (a n : Nat) : (T.clearCapTags a n).pwrOut = T.pwrOut := rfl
@[simp] theorem Tile.clearCapTags_hostLinks (T : Tile) (a n : Nat) : (T.clearCapTags a n).hostLinks = T.hostLinks := rfl
@[simp] theorem Tile.clearCapTags_flushing (T : Tile) (a n : Nat) : (T.clearCapTags a n).flushing = T.flushing := rfl
@[simp] theorem Tile.clearCapTags_acks (T : Tile) (a n : Nat) : (T.clearCapTags a n).acks = T.acks := rfl
@[simp] theorem Tile.clearCapTags_drawn (T : Tile) (a n : Nat) : (T.clearCapTags a n).drawn = T.drawn := rfl
@[simp] theorem Tile.clearCapTags_powEst (T : Tile) (a n : Nat) : (T.clearCapTags a n).powEst = T.powEst := rfl
@[simp] theorem Tile.clearCapTags_under (T : Tile) (a n : Nat) : (T.clearCapTags a n).under = T.under := rfl
@[simp] theorem Tile.clearCapTags_scrubLine (T : Tile) (a n : Nat) : (T.clearCapTags a n).scrubLine = T.scrubLine := rfl
@[simp] theorem Tile.clearCapTags_scrubRow (T : Tile) (a n : Nat) : (T.clearCapTags a n).scrubRow = T.scrubRow := rfl
@[simp] theorem Tile.clearCapTags_plot (T : Tile) (a n : Nat) : (T.clearCapTags a n).plot = T.plot := rfl
@[simp] theorem Tile.clearCapTags_released (T : Tile) (a n : Nat) : (T.clearCapTags a n).released = T.released := rfl
@[simp] theorem Tile.clearCapTags_stopped (T : Tile) (a n : Nat) : (T.clearCapTags a n).stopped = T.stopped := rfl
@[simp] theorem Tile.clearCapTags_frozen (T : Tile) (a n : Nat) : (T.clearCapTags a n).frozen = T.frozen := rfl
@[simp] theorem Tile.clearCapTags_greq (T : Tile) (a n : Nat) : (T.clearCapTags a n).greq = T.greq := rfl
@[simp] theorem Tile.clearCapTags_heldG (T : Tile) (a n : Nat) : (T.clearCapTags a n).heldG = T.heldG := rfl
@[simp] theorem Tile.clearCapTags_heldBlocks (T : Tile) (a n : Nat) : (T.clearCapTags a n).heldBlocks = T.heldBlocks := rfl
@[simp] theorem Tile.clearCapTags_eligible (T : Tile) (a n : Nat) : (T.clearCapTags a n).eligible = T.eligible := rfl
@[simp] theorem Tile.clearCapTags_groups (T : Tile) (a n : Nat) : (T.clearCapTags a n).groups = T.groups := rfl

@[simp] theorem Tile.tagLines_ctxs (T : Tile) (x : Nat) (c : BitVec 8) (a n : Nat) : (T.tagLines x c a n).ctxs = T.ctxs := rfl
@[simp] theorem Tile.tagLines_creg (T : Tile) (x : Nat) (c : BitVec 8) (a n : Nat) : (T.tagLines x c a n).creg = T.creg := rfl
@[simp] theorem Tile.tagLines_imem (T : Tile) (x : Nat) (c : BitVec 8) (a n : Nat) : (T.tagLines x c a n).imem = T.imem := rfl
@[simp] theorem Tile.tagLines_imemBad (T : Tile) (x : Nat) (c : BitVec 8) (a n : Nat) : (T.tagLines x c a n).imemBad = T.imemBad := rfl
@[simp] theorem Tile.tagLines_imemFixed (T : Tile) (x : Nat) (c : BitVec 8) (a n : Nat) : (T.tagLines x c a n).imemFixed = T.imemFixed := rfl
@[simp] theorem Tile.tagLines_pad (T : Tile) (x : Nat) (c : BitVec 8) (a n : Nat) : (T.tagLines x c a n).pad = T.pad := rfl
@[simp] theorem Tile.tagLines_padPoison (T : Tile) (x : Nat) (c : BitVec 8) (a n : Nat) : (T.tagLines x c a n).padPoison = T.padPoison := rfl
@[simp] theorem Tile.tagLines_capTags (T : Tile) (x : Nat) (c : BitVec 8) (a n : Nat) : (T.tagLines x c a n).capTags = T.capTags := rfl
@[simp] theorem Tile.tagLines_cycle (T : Tile) (x : Nat) (c : BitVec 8) (a n : Nat) : (T.tagLines x c a n).cycle = T.cycle := rfl
@[simp] theorem Tile.tagLines_clock (T : Tile) (x : Nat) (c : BitVec 8) (a n : Nat) : (T.tagLines x c a n).clock = T.clock := rfl
@[simp] theorem Tile.tagLines_active (T : Tile) (x : Nat) (c : BitVec 8) (a n : Nat) : (T.tagLines x c a n).active = T.active := rfl
@[simp] theorem Tile.tagLines_served (T : Tile) (x : Nat) (c : BitVec 8) (a n : Nat) : (T.tagLines x c a n).served = T.served := rfl
@[simp] theorem Tile.tagLines_slots (T : Tile) (x : Nat) (c : BitVec 8) (a n : Nat) : (T.tagLines x c a n).slots = T.slots := rfl
@[simp] theorem Tile.tagLines_cpend (T : Tile) (x : Nat) (c : BitVec 8) (a n : Nat) : (T.tagLines x c a n).cpend = T.cpend := rfl
@[simp] theorem Tile.tagLines_rc (T : Tile) (x : Nat) (c : BitVec 8) (a n : Nat) : (T.tagLines x c a n).rc = T.rc := rfl
@[simp] theorem Tile.tagLines_trk (T : Tile) (x : Nat) (c : BitVec 8) (a n : Nat) : (T.tagLines x c a n).trk = T.trk := rfl
@[simp] theorem Tile.tagLines_tregs (T : Tile) (x : Nat) (c : BitVec 8) (a n : Nat) : (T.tagLines x c a n).tregs = T.tregs := rfl
@[simp] theorem Tile.tagLines_sets (T : Tile) (x : Nat) (c : BitVec 8) (a n : Nat) : (T.tagLines x c a n).sets = T.sets := rfl
@[simp] theorem Tile.tagLines_aq (T : Tile) (x : Nat) (c : BitVec 8) (a n : Nat) : (T.tagLines x c a n).aq = T.aq := rfl
@[simp] theorem Tile.tagLines_lq (T : Tile) (x : Nat) (c : BitVec 8) (a n : Nat) : (T.tagLines x c a n).lq = T.lq := rfl
@[simp] theorem Tile.tagLines_tq (T : Tile) (x : Nat) (c : BitVec 8) (a n : Nat) : (T.tagLines x c a n).tq = T.tq := rfl
@[simp] theorem Tile.tagLines_nests (T : Tile) (x : Nat) (c : BitVec 8) (a n : Nat) : (T.tagLines x c a n).nests = T.nests := rfl
@[simp] theorem Tile.tagLines_paused (T : Tile) (x : Nat) (c : BitVec 8) (a n : Nat) : (T.tagLines x c a n).paused = T.paused := rfl
@[simp] theorem Tile.tagLines_finj (T : Tile) (x : Nat) (c : BitVec 8) (a n : Nat) : (T.tagLines x c a n).finj = T.finj := rfl
@[simp] theorem Tile.tagLines_chans (T : Tile) (x : Nat) (c : BitVec 8) (a n : Nat) : (T.tagLines x c a n).chans = T.chans := rfl
@[simp] theorem Tile.tagLines_ebuf (T : Tile) (x : Nat) (c : BitVec 8) (a n : Nat) : (T.tagLines x c a n).ebuf = T.ebuf := rfl
@[simp] theorem Tile.tagLines_emitq (T : Tile) (x : Nat) (c : BitVec 8) (a n : Nat) : (T.tagLines x c a n).emitq = T.emitq := rfl
@[simp] theorem Tile.tagLines_opSeq (T : Tile) (x : Nat) (c : BitVec 8) (a n : Nat) : (T.tagLines x c a n).opSeq = T.opSeq := rfl
@[simp] theorem Tile.tagLines_blockNext2 (T : Tile) (x : Nat) (c : BitVec 8) (a n : Nat) : (T.tagLines x c a n).blockNext2 = T.blockNext2 := rfl
@[simp] theorem Tile.tagLines_bandRan (T : Tile) (x : Nat) (c : BitVec 8) (a n : Nat) : (T.tagLines x c a n).bandRan = T.bandRan := rfl
@[simp] theorem Tile.tagLines_powerLoose (T : Tile) (x : Nat) (c : BitVec 8) (a n : Nat) : (T.tagLines x c a n).powerLoose = T.powerLoose := rfl
@[simp] theorem Tile.tagLines_goes (T : Tile) (x : Nat) (c : BitVec 8) (a n : Nat) : (T.tagLines x c a n).goes = T.goes := rfl
@[simp] theorem Tile.tagLines_nextTag (T : Tile) (x : Nat) (c : BitVec 8) (a n : Nat) : (T.tagLines x c a n).nextTag = T.nextTag := rfl
@[simp] theorem Tile.tagLines_pauseReq (T : Tile) (x : Nat) (c : BitVec 8) (a n : Nat) : (T.tagLines x c a n).pauseReq = T.pauseReq := rfl
@[simp] theorem Tile.tagLines_cmds (T : Tile) (x : Nat) (c : BitVec 8) (a n : Nat) : (T.tagLines x c a n).cmds = T.cmds := rfl
@[simp] theorem Tile.tagLines_cq (T : Tile) (x : Nat) (c : BitVec 8) (a n : Nat) : (T.tagLines x c a n).cq = T.cq := rfl
@[simp] theorem Tile.tagLines_cqHead (T : Tile) (x : Nat) (c : BitVec 8) (a n : Nat) : (T.tagLines x c a n).cqHead = T.cqHead := rfl
@[simp] theorem Tile.tagLines_ingress (T : Tile) (x : Nat) (c : BitVec 8) (a n : Nat) : (T.tagLines x c a n).ingress = T.ingress := rfl
@[simp] theorem Tile.tagLines_pass (T : Tile) (x : Nat) (c : BitVec 8) (a n : Nat) : (T.tagLines x c a n).pass = T.pass := rfl
@[simp] theorem Tile.tagLines_rngq (T : Tile) (x : Nat) (c : BitVec 8) (a n : Nat) : (T.tagLines x c a n).rngq = T.rngq := rfl
@[simp] theorem Tile.tagLines_pwrq (T : Tile) (x : Nat) (c : BitVec 8) (a n : Nat) : (T.tagLines x c a n).pwrq = T.pwrq := rfl
@[simp] theorem Tile.tagLines_pwrOut (T : Tile) (x : Nat) (c : BitVec 8) (a n : Nat) : (T.tagLines x c a n).pwrOut = T.pwrOut := rfl
@[simp] theorem Tile.tagLines_hostLinks (T : Tile) (x : Nat) (c : BitVec 8) (a n : Nat) : (T.tagLines x c a n).hostLinks = T.hostLinks := rfl
@[simp] theorem Tile.tagLines_flushing (T : Tile) (x : Nat) (c : BitVec 8) (a n : Nat) : (T.tagLines x c a n).flushing = T.flushing := rfl
@[simp] theorem Tile.tagLines_acks (T : Tile) (x : Nat) (c : BitVec 8) (a n : Nat) : (T.tagLines x c a n).acks = T.acks := rfl
@[simp] theorem Tile.tagLines_drawn (T : Tile) (x : Nat) (c : BitVec 8) (a n : Nat) : (T.tagLines x c a n).drawn = T.drawn := rfl
@[simp] theorem Tile.tagLines_powEst (T : Tile) (x : Nat) (c : BitVec 8) (a n : Nat) : (T.tagLines x c a n).powEst = T.powEst := rfl
@[simp] theorem Tile.tagLines_under (T : Tile) (x : Nat) (c : BitVec 8) (a n : Nat) : (T.tagLines x c a n).under = T.under := rfl
@[simp] theorem Tile.tagLines_scrubLine (T : Tile) (x : Nat) (c : BitVec 8) (a n : Nat) : (T.tagLines x c a n).scrubLine = T.scrubLine := rfl
@[simp] theorem Tile.tagLines_scrubRow (T : Tile) (x : Nat) (c : BitVec 8) (a n : Nat) : (T.tagLines x c a n).scrubRow = T.scrubRow := rfl
@[simp] theorem Tile.tagLines_plot (T : Tile) (x : Nat) (c : BitVec 8) (a n : Nat) : (T.tagLines x c a n).plot = T.plot := rfl
@[simp] theorem Tile.tagLines_released (T : Tile) (x : Nat) (c : BitVec 8) (a n : Nat) : (T.tagLines x c a n).released = T.released := rfl
@[simp] theorem Tile.tagLines_stopped (T : Tile) (x : Nat) (c : BitVec 8) (a n : Nat) : (T.tagLines x c a n).stopped = T.stopped := rfl
@[simp] theorem Tile.tagLines_frozen (T : Tile) (x : Nat) (c : BitVec 8) (a n : Nat) : (T.tagLines x c a n).frozen = T.frozen := rfl
@[simp] theorem Tile.tagLines_greq (T : Tile) (x : Nat) (c : BitVec 8) (a n : Nat) : (T.tagLines x c a n).greq = T.greq := rfl
@[simp] theorem Tile.tagLines_heldG (T : Tile) (x : Nat) (c : BitVec 8) (a n : Nat) : (T.tagLines x c a n).heldG = T.heldG := rfl
@[simp] theorem Tile.tagLines_heldBlocks (T : Tile) (x : Nat) (c : BitVec 8) (a n : Nat) : (T.tagLines x c a n).heldBlocks = T.heldBlocks := rfl
@[simp] theorem Tile.tagLines_eligible (T : Tile) (x : Nat) (c : BitVec 8) (a n : Nat) : (T.tagLines x c a n).eligible = T.eligible := rfl
@[simp] theorem Tile.tagLines_groups (T : Tile) (x : Nat) (c : BitVec 8) (a n : Nat) : (T.tagLines x c a n).groups = T.groups := rfl

@[simp] theorem Tile.padWrite_ctxs (T : Tile) (x a n v : Nat) (poison : Bool) : (T.padWrite x a n v poison).ctxs = T.ctxs := rfl
@[simp] theorem Tile.padWrite_creg (T : Tile) (x a n v : Nat) (poison : Bool) : (T.padWrite x a n v poison).creg = T.creg := rfl
@[simp] theorem Tile.padWrite_imem (T : Tile) (x a n v : Nat) (poison : Bool) : (T.padWrite x a n v poison).imem = T.imem := rfl
@[simp] theorem Tile.padWrite_imemBad (T : Tile) (x a n v : Nat) (poison : Bool) : (T.padWrite x a n v poison).imemBad = T.imemBad := rfl
@[simp] theorem Tile.padWrite_imemFixed (T : Tile) (x a n v : Nat) (poison : Bool) : (T.padWrite x a n v poison).imemFixed = T.imemFixed := rfl
@[simp] theorem Tile.padWrite_cycle (T : Tile) (x a n v : Nat) (poison : Bool) : (T.padWrite x a n v poison).cycle = T.cycle := rfl
@[simp] theorem Tile.padWrite_clock (T : Tile) (x a n v : Nat) (poison : Bool) : (T.padWrite x a n v poison).clock = T.clock := rfl
@[simp] theorem Tile.padWrite_active (T : Tile) (x a n v : Nat) (poison : Bool) : (T.padWrite x a n v poison).active = T.active := rfl
@[simp] theorem Tile.padWrite_served (T : Tile) (x a n v : Nat) (poison : Bool) : (T.padWrite x a n v poison).served = T.served := rfl
@[simp] theorem Tile.padWrite_slots (T : Tile) (x a n v : Nat) (poison : Bool) : (T.padWrite x a n v poison).slots = T.slots := rfl
@[simp] theorem Tile.padWrite_cpend (T : Tile) (x a n v : Nat) (poison : Bool) : (T.padWrite x a n v poison).cpend = T.cpend := rfl
@[simp] theorem Tile.padWrite_rc (T : Tile) (x a n v : Nat) (poison : Bool) : (T.padWrite x a n v poison).rc = T.rc := rfl
@[simp] theorem Tile.padWrite_trk (T : Tile) (x a n v : Nat) (poison : Bool) : (T.padWrite x a n v poison).trk = T.trk := rfl
@[simp] theorem Tile.padWrite_tregs (T : Tile) (x a n v : Nat) (poison : Bool) : (T.padWrite x a n v poison).tregs = T.tregs := rfl
@[simp] theorem Tile.padWrite_sets (T : Tile) (x a n v : Nat) (poison : Bool) : (T.padWrite x a n v poison).sets = T.sets := rfl
@[simp] theorem Tile.padWrite_aq (T : Tile) (x a n v : Nat) (poison : Bool) : (T.padWrite x a n v poison).aq = T.aq := rfl
@[simp] theorem Tile.padWrite_lq (T : Tile) (x a n v : Nat) (poison : Bool) : (T.padWrite x a n v poison).lq = T.lq := rfl
@[simp] theorem Tile.padWrite_tq (T : Tile) (x a n v : Nat) (poison : Bool) : (T.padWrite x a n v poison).tq = T.tq := rfl
@[simp] theorem Tile.padWrite_nests (T : Tile) (x a n v : Nat) (poison : Bool) : (T.padWrite x a n v poison).nests = T.nests := rfl
@[simp] theorem Tile.padWrite_paused (T : Tile) (x a n v : Nat) (poison : Bool) : (T.padWrite x a n v poison).paused = T.paused := rfl
@[simp] theorem Tile.padWrite_finj (T : Tile) (x a n v : Nat) (poison : Bool) : (T.padWrite x a n v poison).finj = T.finj := rfl
@[simp] theorem Tile.padWrite_chans (T : Tile) (x a n v : Nat) (poison : Bool) : (T.padWrite x a n v poison).chans = T.chans := rfl
@[simp] theorem Tile.padWrite_ebuf (T : Tile) (x a n v : Nat) (poison : Bool) : (T.padWrite x a n v poison).ebuf = T.ebuf := rfl
@[simp] theorem Tile.padWrite_emitq (T : Tile) (x a n v : Nat) (poison : Bool) : (T.padWrite x a n v poison).emitq = T.emitq := rfl
@[simp] theorem Tile.padWrite_opSeq (T : Tile) (x a n v : Nat) (poison : Bool) : (T.padWrite x a n v poison).opSeq = T.opSeq := rfl
@[simp] theorem Tile.padWrite_blockNext2 (T : Tile) (x a n v : Nat) (poison : Bool) : (T.padWrite x a n v poison).blockNext2 = T.blockNext2 := rfl
@[simp] theorem Tile.padWrite_bandRan (T : Tile) (x a n v : Nat) (poison : Bool) : (T.padWrite x a n v poison).bandRan = T.bandRan := rfl
@[simp] theorem Tile.padWrite_powerLoose (T : Tile) (x a n v : Nat) (poison : Bool) : (T.padWrite x a n v poison).powerLoose = T.powerLoose := rfl
@[simp] theorem Tile.padWrite_goes (T : Tile) (x a n v : Nat) (poison : Bool) : (T.padWrite x a n v poison).goes = T.goes := rfl
@[simp] theorem Tile.padWrite_nextTag (T : Tile) (x a n v : Nat) (poison : Bool) : (T.padWrite x a n v poison).nextTag = T.nextTag := rfl
@[simp] theorem Tile.padWrite_pauseReq (T : Tile) (x a n v : Nat) (poison : Bool) : (T.padWrite x a n v poison).pauseReq = T.pauseReq := rfl
@[simp] theorem Tile.padWrite_cmds (T : Tile) (x a n v : Nat) (poison : Bool) : (T.padWrite x a n v poison).cmds = T.cmds := rfl
@[simp] theorem Tile.padWrite_cq (T : Tile) (x a n v : Nat) (poison : Bool) : (T.padWrite x a n v poison).cq = T.cq := rfl
@[simp] theorem Tile.padWrite_cqHead (T : Tile) (x a n v : Nat) (poison : Bool) : (T.padWrite x a n v poison).cqHead = T.cqHead := rfl
@[simp] theorem Tile.padWrite_ingress (T : Tile) (x a n v : Nat) (poison : Bool) : (T.padWrite x a n v poison).ingress = T.ingress := rfl
@[simp] theorem Tile.padWrite_pass (T : Tile) (x a n v : Nat) (poison : Bool) : (T.padWrite x a n v poison).pass = T.pass := rfl
@[simp] theorem Tile.padWrite_rngq (T : Tile) (x a n v : Nat) (poison : Bool) : (T.padWrite x a n v poison).rngq = T.rngq := rfl
@[simp] theorem Tile.padWrite_pwrq (T : Tile) (x a n v : Nat) (poison : Bool) : (T.padWrite x a n v poison).pwrq = T.pwrq := rfl
@[simp] theorem Tile.padWrite_pwrOut (T : Tile) (x a n v : Nat) (poison : Bool) : (T.padWrite x a n v poison).pwrOut = T.pwrOut := rfl
@[simp] theorem Tile.padWrite_hostLinks (T : Tile) (x a n v : Nat) (poison : Bool) : (T.padWrite x a n v poison).hostLinks = T.hostLinks := rfl
@[simp] theorem Tile.padWrite_flushing (T : Tile) (x a n v : Nat) (poison : Bool) : (T.padWrite x a n v poison).flushing = T.flushing := rfl
@[simp] theorem Tile.padWrite_acks (T : Tile) (x a n v : Nat) (poison : Bool) : (T.padWrite x a n v poison).acks = T.acks := rfl
@[simp] theorem Tile.padWrite_drawn (T : Tile) (x a n v : Nat) (poison : Bool) : (T.padWrite x a n v poison).drawn = T.drawn := rfl
@[simp] theorem Tile.padWrite_powEst (T : Tile) (x a n v : Nat) (poison : Bool) : (T.padWrite x a n v poison).powEst = T.powEst := rfl
@[simp] theorem Tile.padWrite_under (T : Tile) (x a n v : Nat) (poison : Bool) : (T.padWrite x a n v poison).under = T.under := rfl
@[simp] theorem Tile.padWrite_scrubLine (T : Tile) (x a n v : Nat) (poison : Bool) : (T.padWrite x a n v poison).scrubLine = T.scrubLine := rfl
@[simp] theorem Tile.padWrite_scrubRow (T : Tile) (x a n v : Nat) (poison : Bool) : (T.padWrite x a n v poison).scrubRow = T.scrubRow := rfl
@[simp] theorem Tile.padWrite_plot (T : Tile) (x a n v : Nat) (poison : Bool) : (T.padWrite x a n v poison).plot = T.plot := rfl
@[simp] theorem Tile.padWrite_released (T : Tile) (x a n v : Nat) (poison : Bool) : (T.padWrite x a n v poison).released = T.released := rfl
@[simp] theorem Tile.padWrite_stopped (T : Tile) (x a n v : Nat) (poison : Bool) : (T.padWrite x a n v poison).stopped = T.stopped := rfl
@[simp] theorem Tile.padWrite_frozen (T : Tile) (x a n v : Nat) (poison : Bool) : (T.padWrite x a n v poison).frozen = T.frozen := rfl
@[simp] theorem Tile.padWrite_greq (T : Tile) (x a n v : Nat) (poison : Bool) : (T.padWrite x a n v poison).greq = T.greq := rfl
@[simp] theorem Tile.padWrite_heldG (T : Tile) (x a n v : Nat) (poison : Bool) : (T.padWrite x a n v poison).heldG = T.heldG := rfl
@[simp] theorem Tile.padWrite_heldBlocks (T : Tile) (x a n v : Nat) (poison : Bool) : (T.padWrite x a n v poison).heldBlocks = T.heldBlocks := rfl
@[simp] theorem Tile.padWrite_eligible (T : Tile) (x a n v : Nat) (poison : Bool) : (T.padWrite x a n v poison).eligible = T.eligible := rfl
@[simp] theorem Tile.padWrite_groups (T : Tile) (x a n v : Nat) (poison : Bool) : (T.padWrite x a n v poison).groups = T.groups := rfl

@[simp] theorem Tile.release_ctxs (T : Tile) : (T.release).ctxs = T.ctxs := rfl
@[simp] theorem Tile.release_creg (T : Tile) : (T.release).creg = T.creg := rfl
@[simp] theorem Tile.release_imem (T : Tile) : (T.release).imem = T.imem := rfl
@[simp] theorem Tile.release_imemBad (T : Tile) : (T.release).imemBad = T.imemBad := rfl
@[simp] theorem Tile.release_imemFixed (T : Tile) : (T.release).imemFixed = T.imemFixed := rfl
@[simp] theorem Tile.release_pad (T : Tile) : (T.release).pad = T.pad := rfl
@[simp] theorem Tile.release_padPoison (T : Tile) : (T.release).padPoison = T.padPoison := rfl
@[simp] theorem Tile.release_capTags (T : Tile) : (T.release).capTags = T.capTags := rfl
@[simp] theorem Tile.release_lineTags (T : Tile) : (T.release).lineTags = T.lineTags := rfl
@[simp] theorem Tile.release_cycle (T : Tile) : (T.release).cycle = T.cycle := rfl
@[simp] theorem Tile.release_clock (T : Tile) : (T.release).clock = T.clock := rfl
@[simp] theorem Tile.release_active (T : Tile) : (T.release).active = T.active := rfl
@[simp] theorem Tile.release_served (T : Tile) : (T.release).served = T.served := rfl
@[simp] theorem Tile.release_slots (T : Tile) : (T.release).slots = T.slots := rfl
@[simp] theorem Tile.release_cpend (T : Tile) : (T.release).cpend = T.cpend := rfl
@[simp] theorem Tile.release_trk (T : Tile) : (T.release).trk = T.trk := rfl
@[simp] theorem Tile.release_tregs (T : Tile) : (T.release).tregs = T.tregs := rfl
@[simp] theorem Tile.release_sets (T : Tile) : (T.release).sets = T.sets := rfl
@[simp] theorem Tile.release_aq (T : Tile) : (T.release).aq = T.aq := rfl
@[simp] theorem Tile.release_lq (T : Tile) : (T.release).lq = T.lq := rfl
@[simp] theorem Tile.release_tq (T : Tile) : (T.release).tq = T.tq := rfl
@[simp] theorem Tile.release_nests (T : Tile) : (T.release).nests = T.nests := rfl
@[simp] theorem Tile.release_paused (T : Tile) : (T.release).paused = T.paused := rfl
@[simp] theorem Tile.release_finj (T : Tile) : (T.release).finj = T.finj := rfl
@[simp] theorem Tile.release_chans (T : Tile) : (T.release).chans = T.chans := rfl
@[simp] theorem Tile.release_ebuf (T : Tile) : (T.release).ebuf = T.ebuf := rfl
@[simp] theorem Tile.release_emitq (T : Tile) : (T.release).emitq = T.emitq := rfl
@[simp] theorem Tile.release_opSeq (T : Tile) : (T.release).opSeq = T.opSeq := rfl
@[simp] theorem Tile.release_blockNext2 (T : Tile) : (T.release).blockNext2 = T.blockNext2 := rfl
@[simp] theorem Tile.release_bandRan (T : Tile) : (T.release).bandRan = T.bandRan := rfl
@[simp] theorem Tile.release_powerLoose (T : Tile) : (T.release).powerLoose = T.powerLoose := rfl
@[simp] theorem Tile.release_goes (T : Tile) : (T.release).goes = T.goes := rfl
@[simp] theorem Tile.release_nextTag (T : Tile) : (T.release).nextTag = T.nextTag := rfl
@[simp] theorem Tile.release_pauseReq (T : Tile) : (T.release).pauseReq = T.pauseReq := rfl
@[simp] theorem Tile.release_cmds (T : Tile) : (T.release).cmds = T.cmds := rfl
@[simp] theorem Tile.release_cq (T : Tile) : (T.release).cq = T.cq := rfl
@[simp] theorem Tile.release_cqHead (T : Tile) : (T.release).cqHead = T.cqHead := rfl
@[simp] theorem Tile.release_ingress (T : Tile) : (T.release).ingress = T.ingress := rfl
@[simp] theorem Tile.release_pass (T : Tile) : (T.release).pass = T.pass := rfl
@[simp] theorem Tile.release_rngq (T : Tile) : (T.release).rngq = T.rngq := rfl
@[simp] theorem Tile.release_pwrq (T : Tile) : (T.release).pwrq = T.pwrq := rfl
@[simp] theorem Tile.release_pwrOut (T : Tile) : (T.release).pwrOut = T.pwrOut := rfl
@[simp] theorem Tile.release_hostLinks (T : Tile) : (T.release).hostLinks = T.hostLinks := rfl
@[simp] theorem Tile.release_flushing (T : Tile) : (T.release).flushing = T.flushing := rfl
@[simp] theorem Tile.release_acks (T : Tile) : (T.release).acks = T.acks := rfl
@[simp] theorem Tile.release_drawn (T : Tile) : (T.release).drawn = T.drawn := rfl
@[simp] theorem Tile.release_powEst (T : Tile) : (T.release).powEst = T.powEst := rfl
@[simp] theorem Tile.release_under (T : Tile) : (T.release).under = T.under := rfl
@[simp] theorem Tile.release_scrubLine (T : Tile) : (T.release).scrubLine = T.scrubLine := rfl
@[simp] theorem Tile.release_scrubRow (T : Tile) : (T.release).scrubRow = T.scrubRow := rfl
@[simp] theorem Tile.release_plot (T : Tile) : (T.release).plot = T.plot := rfl
@[simp] theorem Tile.release_released (T : Tile) : (T.release).released = T.released := rfl
@[simp] theorem Tile.release_stopped (T : Tile) : (T.release).stopped = T.stopped := rfl
@[simp] theorem Tile.release_frozen (T : Tile) : (T.release).frozen = T.frozen := rfl
@[simp] theorem Tile.release_greq (T : Tile) : (T.release).greq = T.greq := rfl
@[simp] theorem Tile.release_heldG (T : Tile) : (T.release).heldG = T.heldG := rfl
@[simp] theorem Tile.release_heldBlocks (T : Tile) : (T.release).heldBlocks = T.heldBlocks := rfl
@[simp] theorem Tile.release_eligible (T : Tile) : (T.release).eligible = T.eligible := rfl
@[simp] theorem Tile.release_groups (T : Tile) : (T.release).groups = T.groups := rfl

/-! ### Updates of a context -/

@[simp] theorem Ctx.setCr_regs (c : Ctx) (idx : Nat) (v : W64) : (c.setCr idx v).regs = c.regs := rfl
@[simp] theorem Ctx.setCr_flights (c : Ctx) (idx : Nat) (v : W64) : (c.setCr idx v).flights = c.flights := rfl
@[simp] theorem Ctx.setCr_pc (c : Ctx) (idx : Nat) (v : W64) : (c.setCr idx v).pc = c.pc := rfl
@[simp] theorem Ctx.setCr_first (c : Ctx) (idx : Nat) (v : W64) : (c.setCr idx v).first = c.first := rfl
@[simp] theorem Ctx.setCr_atEnd (c : Ctx) (idx : Nat) (v : W64) : (c.setCr idx v).atEnd = c.atEnd := rfl
@[simp] theorem Ctx.setCr_savedEnd (c : Ctx) (idx : Nat) (v : W64) : (c.setCr idx v).savedEnd = c.savedEnd := rfl
@[simp] theorem Ctx.setCr_midPacket (c : Ctx) (idx : Nat) (v : W64) : (c.setCr idx v).midPacket = c.midPacket := rfl
@[simp] theorem Ctx.setCr_hold (c : Ctx) (idx : Nat) (v : W64) : (c.setCr idx v).hold = c.hold := rfl
@[simp] theorem Ctx.setCr_rep (c : Ctx) (idx : Nat) (v : W64) : (c.setCr idx v).rep = c.rep := rfl
@[simp] theorem Ctx.setCr_start (c : Ctx) (idx : Nat) (v : W64) : (c.setCr idx v).start = c.start := rfl
@[simp] theorem Ctx.setCr_arrivals (c : Ctx) (idx : Nat) (v : W64) : (c.setCr idx v).arrivals = c.arrivals := rfl
@[simp] theorem Ctx.setCr_packets (c : Ctx) (idx : Nat) (v : W64) : (c.setCr idx v).packets = c.packets := rfl
@[simp] theorem Ctx.setCr_passed (c : Ctx) (idx : Nat) (v : W64) : (c.setCr idx v).passed = c.passed := rfl
@[simp] theorem Ctx.setCr_yielded (c : Ctx) (idx : Nat) (v : W64) : (c.setCr idx v).yielded = c.yielded := rfl
@[simp] theorem Ctx.setCr_obs (c : Ctx) (idx : Nat) (v : W64) : (c.setCr idx v).obs = c.obs := rfl
@[simp] theorem Ctx.setCr_run (c : Ctx) (idx : Nat) (v : W64) : (c.setCr idx v).run = c.run := rfl
@[simp] theorem Ctx.setCr_runNo (c : Ctx) (idx : Nat) (v : W64) : (c.setCr idx v).runNo = c.runNo := rfl
@[simp] theorem Ctx.setCr_matShape (c : Ctx) (idx : Nat) (v : W64) : (c.setCr idx v).matShape = c.matShape := rfl
@[simp] theorem Ctx.setCr_matFid (c : Ctx) (idx : Nat) (v : W64) : (c.setCr idx v).matFid = c.matFid := rfl
@[simp] theorem Ctx.setCr_oldRuns (c : Ctx) (idx : Nat) (v : W64) : (c.setCr idx v).oldRuns = c.oldRuns := rfl
@[simp] theorem Ctx.setCr_matPend (c : Ctx) (idx : Nat) (v : W64) : (c.setCr idx v).matPend = c.matPend := rfl
@[simp] theorem Ctx.setCr_boundPend (c : Ctx) (idx : Nat) (v : W64) : (c.setCr idx v).boundPend = c.boundPend := rfl
@[simp] theorem Ctx.setCr_handed (c : Ctx) (idx : Nat) (v : W64) : (c.setCr idx v).handed = c.handed := rfl
@[simp] theorem Ctx.setCr_handedBy (c : Ctx) (idx : Nat) (v : W64) : (c.setCr idx v).handedBy = c.handedBy := rfl
@[simp] theorem Ctx.setCr_exhausted (c : Ctx) (idx : Nat) (v : W64) : (c.setCr idx v).exhausted = c.exhausted := rfl
@[simp] theorem Ctx.setCr_granted (c : Ctx) (idx : Nat) (v : W64) : (c.setCr idx v).granted = c.granted := rfl
@[simp] theorem Ctx.setCr_bwait (c : Ctx) (idx : Nat) (v : W64) : (c.setCr idx v).bwait = c.bwait := rfl
@[simp] theorem Ctx.setCr_mwaits (c : Ctx) (idx : Nat) (v : W64) : (c.setCr idx v).mwaits = c.mwaits := rfl
@[simp] theorem Ctx.setCr_waitSeq (c : Ctx) (idx : Nat) (v : W64) : (c.setCr idx v).waitSeq = c.waitSeq := rfl
@[simp] theorem Ctx.setCr_sleptAt (c : Ctx) (idx : Nat) (v : W64) : (c.setCr idx v).sleptAt = c.sleptAt := rfl

@[simp] theorem Ctx.modCr_regs (c : Ctx) (idx : Nat) (f : W64 → W64) : (c.modCr idx f).regs = c.regs := rfl
@[simp] theorem Ctx.modCr_flights (c : Ctx) (idx : Nat) (f : W64 → W64) : (c.modCr idx f).flights = c.flights := rfl
@[simp] theorem Ctx.modCr_pc (c : Ctx) (idx : Nat) (f : W64 → W64) : (c.modCr idx f).pc = c.pc := rfl
@[simp] theorem Ctx.modCr_first (c : Ctx) (idx : Nat) (f : W64 → W64) : (c.modCr idx f).first = c.first := rfl
@[simp] theorem Ctx.modCr_atEnd (c : Ctx) (idx : Nat) (f : W64 → W64) : (c.modCr idx f).atEnd = c.atEnd := rfl
@[simp] theorem Ctx.modCr_savedEnd (c : Ctx) (idx : Nat) (f : W64 → W64) : (c.modCr idx f).savedEnd = c.savedEnd := rfl
@[simp] theorem Ctx.modCr_midPacket (c : Ctx) (idx : Nat) (f : W64 → W64) : (c.modCr idx f).midPacket = c.midPacket := rfl
@[simp] theorem Ctx.modCr_hold (c : Ctx) (idx : Nat) (f : W64 → W64) : (c.modCr idx f).hold = c.hold := rfl
@[simp] theorem Ctx.modCr_rep (c : Ctx) (idx : Nat) (f : W64 → W64) : (c.modCr idx f).rep = c.rep := rfl
@[simp] theorem Ctx.modCr_start (c : Ctx) (idx : Nat) (f : W64 → W64) : (c.modCr idx f).start = c.start := rfl
@[simp] theorem Ctx.modCr_arrivals (c : Ctx) (idx : Nat) (f : W64 → W64) : (c.modCr idx f).arrivals = c.arrivals := rfl
@[simp] theorem Ctx.modCr_packets (c : Ctx) (idx : Nat) (f : W64 → W64) : (c.modCr idx f).packets = c.packets := rfl
@[simp] theorem Ctx.modCr_passed (c : Ctx) (idx : Nat) (f : W64 → W64) : (c.modCr idx f).passed = c.passed := rfl
@[simp] theorem Ctx.modCr_yielded (c : Ctx) (idx : Nat) (f : W64 → W64) : (c.modCr idx f).yielded = c.yielded := rfl
@[simp] theorem Ctx.modCr_obs (c : Ctx) (idx : Nat) (f : W64 → W64) : (c.modCr idx f).obs = c.obs := rfl
@[simp] theorem Ctx.modCr_run (c : Ctx) (idx : Nat) (f : W64 → W64) : (c.modCr idx f).run = c.run := rfl
@[simp] theorem Ctx.modCr_runNo (c : Ctx) (idx : Nat) (f : W64 → W64) : (c.modCr idx f).runNo = c.runNo := rfl
@[simp] theorem Ctx.modCr_matShape (c : Ctx) (idx : Nat) (f : W64 → W64) : (c.modCr idx f).matShape = c.matShape := rfl
@[simp] theorem Ctx.modCr_matFid (c : Ctx) (idx : Nat) (f : W64 → W64) : (c.modCr idx f).matFid = c.matFid := rfl
@[simp] theorem Ctx.modCr_oldRuns (c : Ctx) (idx : Nat) (f : W64 → W64) : (c.modCr idx f).oldRuns = c.oldRuns := rfl
@[simp] theorem Ctx.modCr_matPend (c : Ctx) (idx : Nat) (f : W64 → W64) : (c.modCr idx f).matPend = c.matPend := rfl
@[simp] theorem Ctx.modCr_boundPend (c : Ctx) (idx : Nat) (f : W64 → W64) : (c.modCr idx f).boundPend = c.boundPend := rfl
@[simp] theorem Ctx.modCr_handed (c : Ctx) (idx : Nat) (f : W64 → W64) : (c.modCr idx f).handed = c.handed := rfl
@[simp] theorem Ctx.modCr_handedBy (c : Ctx) (idx : Nat) (f : W64 → W64) : (c.modCr idx f).handedBy = c.handedBy := rfl
@[simp] theorem Ctx.modCr_exhausted (c : Ctx) (idx : Nat) (f : W64 → W64) : (c.modCr idx f).exhausted = c.exhausted := rfl
@[simp] theorem Ctx.modCr_granted (c : Ctx) (idx : Nat) (f : W64 → W64) : (c.modCr idx f).granted = c.granted := rfl
@[simp] theorem Ctx.modCr_bwait (c : Ctx) (idx : Nat) (f : W64 → W64) : (c.modCr idx f).bwait = c.bwait := rfl
@[simp] theorem Ctx.modCr_mwaits (c : Ctx) (idx : Nat) (f : W64 → W64) : (c.modCr idx f).mwaits = c.mwaits := rfl
@[simp] theorem Ctx.modCr_waitSeq (c : Ctx) (idx : Nat) (f : W64 → W64) : (c.modCr idx f).waitSeq = c.waitSeq := rfl
@[simp] theorem Ctx.modCr_sleptAt (c : Ctx) (idx : Nat) (f : W64 → W64) : (c.modCr idx f).sleptAt = c.sleptAt := rfl

@[simp] theorem Ctx.setSt_regs (c : Ctx) (st reason : Nat) : (c.setSt st reason).regs = c.regs := rfl
@[simp] theorem Ctx.setSt_flights (c : Ctx) (st reason : Nat) : (c.setSt st reason).flights = c.flights := rfl
@[simp] theorem Ctx.setSt_pc (c : Ctx) (st reason : Nat) : (c.setSt st reason).pc = c.pc := rfl
@[simp] theorem Ctx.setSt_first (c : Ctx) (st reason : Nat) : (c.setSt st reason).first = c.first := rfl
@[simp] theorem Ctx.setSt_atEnd (c : Ctx) (st reason : Nat) : (c.setSt st reason).atEnd = c.atEnd := rfl
@[simp] theorem Ctx.setSt_savedEnd (c : Ctx) (st reason : Nat) : (c.setSt st reason).savedEnd = c.savedEnd := rfl
@[simp] theorem Ctx.setSt_midPacket (c : Ctx) (st reason : Nat) : (c.setSt st reason).midPacket = c.midPacket := rfl
@[simp] theorem Ctx.setSt_hold (c : Ctx) (st reason : Nat) : (c.setSt st reason).hold = c.hold := rfl
@[simp] theorem Ctx.setSt_rep (c : Ctx) (st reason : Nat) : (c.setSt st reason).rep = c.rep := rfl
@[simp] theorem Ctx.setSt_start (c : Ctx) (st reason : Nat) : (c.setSt st reason).start = c.start := rfl
@[simp] theorem Ctx.setSt_arrivals (c : Ctx) (st reason : Nat) : (c.setSt st reason).arrivals = c.arrivals := rfl
@[simp] theorem Ctx.setSt_packets (c : Ctx) (st reason : Nat) : (c.setSt st reason).packets = c.packets := rfl
@[simp] theorem Ctx.setSt_passed (c : Ctx) (st reason : Nat) : (c.setSt st reason).passed = c.passed := rfl
@[simp] theorem Ctx.setSt_yielded (c : Ctx) (st reason : Nat) : (c.setSt st reason).yielded = c.yielded := rfl
@[simp] theorem Ctx.setSt_obs (c : Ctx) (st reason : Nat) : (c.setSt st reason).obs = c.obs := rfl
@[simp] theorem Ctx.setSt_run (c : Ctx) (st reason : Nat) : (c.setSt st reason).run = c.run := rfl
@[simp] theorem Ctx.setSt_runNo (c : Ctx) (st reason : Nat) : (c.setSt st reason).runNo = c.runNo := rfl
@[simp] theorem Ctx.setSt_matShape (c : Ctx) (st reason : Nat) : (c.setSt st reason).matShape = c.matShape := rfl
@[simp] theorem Ctx.setSt_matFid (c : Ctx) (st reason : Nat) : (c.setSt st reason).matFid = c.matFid := rfl
@[simp] theorem Ctx.setSt_oldRuns (c : Ctx) (st reason : Nat) : (c.setSt st reason).oldRuns = c.oldRuns := rfl
@[simp] theorem Ctx.setSt_matPend (c : Ctx) (st reason : Nat) : (c.setSt st reason).matPend = c.matPend := rfl
@[simp] theorem Ctx.setSt_boundPend (c : Ctx) (st reason : Nat) : (c.setSt st reason).boundPend = c.boundPend := rfl
@[simp] theorem Ctx.setSt_handed (c : Ctx) (st reason : Nat) : (c.setSt st reason).handed = c.handed := rfl
@[simp] theorem Ctx.setSt_handedBy (c : Ctx) (st reason : Nat) : (c.setSt st reason).handedBy = c.handedBy := rfl
@[simp] theorem Ctx.setSt_exhausted (c : Ctx) (st reason : Nat) : (c.setSt st reason).exhausted = c.exhausted := rfl
@[simp] theorem Ctx.setSt_granted (c : Ctx) (st reason : Nat) : (c.setSt st reason).granted = c.granted := rfl
@[simp] theorem Ctx.setSt_bwait (c : Ctx) (st reason : Nat) : (c.setSt st reason).bwait = c.bwait := rfl
@[simp] theorem Ctx.setSt_mwaits (c : Ctx) (st reason : Nat) : (c.setSt st reason).mwaits = c.mwaits := rfl
@[simp] theorem Ctx.setSt_waitSeq (c : Ctx) (st reason : Nat) : (c.setSt st reason).waitSeq = c.waitSeq := rfl
@[simp] theorem Ctx.setSt_sleptAt (c : Ctx) (st reason : Nat) : (c.setSt st reason).sleptAt = c.sleptAt := rfl

@[simp] theorem Ctx.settle_creg (c : Ctx) : (c.settle).creg = c.creg := rfl
@[simp] theorem Ctx.settle_pc (c : Ctx) : (c.settle).pc = c.pc := rfl
@[simp] theorem Ctx.settle_first (c : Ctx) : (c.settle).first = c.first := rfl
@[simp] theorem Ctx.settle_atEnd (c : Ctx) : (c.settle).atEnd = c.atEnd := rfl
@[simp] theorem Ctx.settle_savedEnd (c : Ctx) : (c.settle).savedEnd = c.savedEnd := rfl
@[simp] theorem Ctx.settle_midPacket (c : Ctx) : (c.settle).midPacket = c.midPacket := rfl
@[simp] theorem Ctx.settle_hold (c : Ctx) : (c.settle).hold = c.hold := rfl
@[simp] theorem Ctx.settle_rep (c : Ctx) : (c.settle).rep = c.rep := rfl
@[simp] theorem Ctx.settle_start (c : Ctx) : (c.settle).start = c.start := rfl
@[simp] theorem Ctx.settle_arrivals (c : Ctx) : (c.settle).arrivals = c.arrivals := rfl
@[simp] theorem Ctx.settle_packets (c : Ctx) : (c.settle).packets = c.packets := rfl
@[simp] theorem Ctx.settle_passed (c : Ctx) : (c.settle).passed = c.passed := rfl
@[simp] theorem Ctx.settle_yielded (c : Ctx) : (c.settle).yielded = c.yielded := rfl
@[simp] theorem Ctx.settle_obs (c : Ctx) : (c.settle).obs = c.obs := rfl
@[simp] theorem Ctx.settle_run (c : Ctx) : (c.settle).run = c.run := rfl
@[simp] theorem Ctx.settle_runNo (c : Ctx) : (c.settle).runNo = c.runNo := rfl
@[simp] theorem Ctx.settle_matShape (c : Ctx) : (c.settle).matShape = c.matShape := rfl
@[simp] theorem Ctx.settle_matFid (c : Ctx) : (c.settle).matFid = c.matFid := rfl
@[simp] theorem Ctx.settle_oldRuns (c : Ctx) : (c.settle).oldRuns = c.oldRuns := rfl
@[simp] theorem Ctx.settle_matPend (c : Ctx) : (c.settle).matPend = c.matPend := rfl
@[simp] theorem Ctx.settle_boundPend (c : Ctx) : (c.settle).boundPend = c.boundPend := rfl
@[simp] theorem Ctx.settle_handed (c : Ctx) : (c.settle).handed = c.handed := rfl
@[simp] theorem Ctx.settle_handedBy (c : Ctx) : (c.settle).handedBy = c.handedBy := rfl
@[simp] theorem Ctx.settle_exhausted (c : Ctx) : (c.settle).exhausted = c.exhausted := rfl
@[simp] theorem Ctx.settle_granted (c : Ctx) : (c.settle).granted = c.granted := rfl
@[simp] theorem Ctx.settle_bwait (c : Ctx) : (c.settle).bwait = c.bwait := rfl
@[simp] theorem Ctx.settle_mwaits (c : Ctx) : (c.settle).mwaits = c.mwaits := rfl
@[simp] theorem Ctx.settle_waitSeq (c : Ctx) : (c.settle).waitSeq = c.waitSeq := rfl
@[simp] theorem Ctx.settle_sleptAt (c : Ctx) : (c.settle).sleptAt = c.sleptAt := rfl

@[simp] theorem Ctx.settleUpTo_creg (c : Ctx) (cyc : Nat) : (c.settleUpTo cyc).creg = c.creg := rfl
@[simp] theorem Ctx.settleUpTo_pc (c : Ctx) (cyc : Nat) : (c.settleUpTo cyc).pc = c.pc := rfl
@[simp] theorem Ctx.settleUpTo_first (c : Ctx) (cyc : Nat) : (c.settleUpTo cyc).first = c.first := rfl
@[simp] theorem Ctx.settleUpTo_atEnd (c : Ctx) (cyc : Nat) : (c.settleUpTo cyc).atEnd = c.atEnd := rfl
@[simp] theorem Ctx.settleUpTo_savedEnd (c : Ctx) (cyc : Nat) : (c.settleUpTo cyc).savedEnd = c.savedEnd := rfl
@[simp] theorem Ctx.settleUpTo_midPacket (c : Ctx) (cyc : Nat) : (c.settleUpTo cyc).midPacket = c.midPacket := rfl
@[simp] theorem Ctx.settleUpTo_hold (c : Ctx) (cyc : Nat) : (c.settleUpTo cyc).hold = c.hold := rfl
@[simp] theorem Ctx.settleUpTo_rep (c : Ctx) (cyc : Nat) : (c.settleUpTo cyc).rep = c.rep := rfl
@[simp] theorem Ctx.settleUpTo_start (c : Ctx) (cyc : Nat) : (c.settleUpTo cyc).start = c.start := rfl
@[simp] theorem Ctx.settleUpTo_arrivals (c : Ctx) (cyc : Nat) : (c.settleUpTo cyc).arrivals = c.arrivals := rfl
@[simp] theorem Ctx.settleUpTo_packets (c : Ctx) (cyc : Nat) : (c.settleUpTo cyc).packets = c.packets := rfl
@[simp] theorem Ctx.settleUpTo_passed (c : Ctx) (cyc : Nat) : (c.settleUpTo cyc).passed = c.passed := rfl
@[simp] theorem Ctx.settleUpTo_yielded (c : Ctx) (cyc : Nat) : (c.settleUpTo cyc).yielded = c.yielded := rfl
@[simp] theorem Ctx.settleUpTo_obs (c : Ctx) (cyc : Nat) : (c.settleUpTo cyc).obs = c.obs := rfl
@[simp] theorem Ctx.settleUpTo_run (c : Ctx) (cyc : Nat) : (c.settleUpTo cyc).run = c.run := rfl
@[simp] theorem Ctx.settleUpTo_runNo (c : Ctx) (cyc : Nat) : (c.settleUpTo cyc).runNo = c.runNo := rfl
@[simp] theorem Ctx.settleUpTo_matShape (c : Ctx) (cyc : Nat) : (c.settleUpTo cyc).matShape = c.matShape := rfl
@[simp] theorem Ctx.settleUpTo_matFid (c : Ctx) (cyc : Nat) : (c.settleUpTo cyc).matFid = c.matFid := rfl
@[simp] theorem Ctx.settleUpTo_oldRuns (c : Ctx) (cyc : Nat) : (c.settleUpTo cyc).oldRuns = c.oldRuns := rfl
@[simp] theorem Ctx.settleUpTo_matPend (c : Ctx) (cyc : Nat) : (c.settleUpTo cyc).matPend = c.matPend := rfl
@[simp] theorem Ctx.settleUpTo_boundPend (c : Ctx) (cyc : Nat) : (c.settleUpTo cyc).boundPend = c.boundPend := rfl
@[simp] theorem Ctx.settleUpTo_handed (c : Ctx) (cyc : Nat) : (c.settleUpTo cyc).handed = c.handed := rfl
@[simp] theorem Ctx.settleUpTo_handedBy (c : Ctx) (cyc : Nat) : (c.settleUpTo cyc).handedBy = c.handedBy := rfl
@[simp] theorem Ctx.settleUpTo_exhausted (c : Ctx) (cyc : Nat) : (c.settleUpTo cyc).exhausted = c.exhausted := rfl
@[simp] theorem Ctx.settleUpTo_granted (c : Ctx) (cyc : Nat) : (c.settleUpTo cyc).granted = c.granted := rfl
@[simp] theorem Ctx.settleUpTo_bwait (c : Ctx) (cyc : Nat) : (c.settleUpTo cyc).bwait = c.bwait := rfl
@[simp] theorem Ctx.settleUpTo_mwaits (c : Ctx) (cyc : Nat) : (c.settleUpTo cyc).mwaits = c.mwaits := rfl
@[simp] theorem Ctx.settleUpTo_waitSeq (c : Ctx) (cyc : Nat) : (c.settleUpTo cyc).waitSeq = c.waitSeq := rfl
@[simp] theorem Ctx.settleUpTo_sleptAt (c : Ctx) (cyc : Nat) : (c.settleUpTo cyc).sleptAt = c.sleptAt := rfl

end Sys2Proof.Machine
end

