-- ==== Sys2Proof/Laws/Ops.lean ====
section
/-! SUPPORT. What each shared operation can do, said once: reading what was written, the end of a word (trap, wait, or go
on), and the memories. -/

namespace Sys2Proof.Machine

open Host Sys2Proof

/-! ### Reading a unit after a write -/

@[simp] theorem State.tile_setTile_same (s : State) (t : Nat) (T : Tile) : (s.setTile t T).tile t = T :=
  mget_mput_same _ _ _ _
theorem State.tile_setTile_other (s : State) {t u : Nat} (T : Tile) (h : u ≠ t) : (s.setTile t T).tile u = s.tile u :=
  mget_mput_other _ _ _ h
theorem State.tile_setTile (s : State) (t u : Nat) (T : Tile) :
    (s.setTile t T).tile u = if u = t then T else s.tile u := by
  split
  · subst u; exact s.tile_setTile_same t T
  · exact s.tile_setTile_other T ‹_›
@[simp] theorem State.tile_modTile_same (s : State) (t : Nat) (f : Tile → Tile) : (s.modTile t f).tile t = f (s.tile t) :=
  mget_mput_same _ _ _ _
theorem State.tile_modTile_other (s : State) {t u : Nat} (f : Tile → Tile) (h : u ≠ t) :
    (s.modTile t f).tile u = s.tile u := mget_mput_other _ _ _ h

@[simp] theorem Tile.ctx_setCtx_same (T : Tile) (x : Nat) (c : Ctx) : (T.setCtx x c).ctx x = c := mget_mput_same _ _ _ _
theorem Tile.ctx_setCtx_other (T : Tile) {x y : Nat} (c : Ctx) (h : y ≠ x) : (T.setCtx x c).ctx y = T.ctx y :=
  mget_mput_other _ _ _ h
@[simp] theorem Tile.ctx_modCtx_same (T : Tile) (x : Nat) (f : Ctx → Ctx) : (T.modCtx x f).ctx x = f (T.ctx x) :=
  mget_mput_same _ _ _ _
theorem Tile.ctx_modCtx_other (T : Tile) {x y : Nat} (f : Ctx → Ctx) (h : y ≠ x) : (T.modCtx x f).ctx y = T.ctx y :=
  mget_mput_other _ _ _ h

@[simp] theorem Tile.cr_setCr_same (T : Tile) (i : Nat) (v : W64) : (T.setCr i v).cr i = v := mget_mset_same _ _ _ _
theorem Tile.cr_setCr_other (T : Tile) {i j : Nat} (v : W64) (h : j ≠ i) : (T.setCr i v).cr j = T.cr j :=
  mget_mset_other_default _ _ _ _ h
@[simp] theorem Ctx.cr_setCr_same (c : Ctx) (i : Nat) (v : W64) : (c.setCr i v).cr i = v := mget_mset_same _ _ _ _
theorem Ctx.cr_setCr_other (c : Ctx) {i j : Nat} (v : W64) (h : j ≠ i) : (c.setCr i v).cr j = c.cr j :=
  mget_mset_other_default _ _ _ _ h

@[simp] theorem State.reg0_setReg0_same (s : State) (off : Nat) (v : W64) : (s.setReg0 off v).reg0 off = v :=
  mget_mset_same _ _ _ _
theorem State.reg0_setReg0_other (s : State) {off off' : Nat} (v : W64) (h : off' ≠ off) :
    (s.setReg0 off v).reg0 off' = s.reg0 off' := mget_mset_other_default _ _ _ _ h

@[simp] theorem State.field_setField_same (s : State) (n : Nat) (F : Field) : (s.setField n F).field n = F :=
  mget_mput_same _ _ _ _
theorem State.field_setField_other (s : State) {n m : Nat} (F : Field) (h : m ≠ n) : (s.setField n F).field m = s.field m :=
  mget_mput_other _ _ _ h
@[simp] theorem State.port_setPort_same (s : State) (p : Nat) (P : Port) : (s.setPort p P).port p = P := mget_mput_same _ _ _ _
theorem State.port_setPort_other (s : State) {p q : Nat} (P : Port) (h : q ≠ p) : (s.setPort p P).port q = s.port q :=
  mget_mput_other _ _ _ h
@[simp] theorem State.stack_setStack_same (s : State) (k : Nat) (K : Stack) : (s.setStack k K).stack k = K :=
  mget_mput_same _ _ _ _
theorem State.stack_setStack_other (s : State) {k j : Nat} (K : Stack) (h : j ≠ k) : (s.setStack k K).stack j = s.stack j :=
  mget_mput_other _ _ _ h
@[simp] theorem State.plot_setPlot_same (s : State) (p : Nat) (P : Plot) : (s.setPlot p P).plot p = P := mget_mput_same _ _ _ _
theorem State.plot_setPlot_other (s : State) {p q : Nat} (P : Plot) (h : q ≠ p) : (s.setPlot p P).plot q = s.plot q :=
  mget_mput_other _ _ _ h

/-! ### How a word ends -/

/-- A list of conditions reports the lowest cause code that holds: one that reports is in the list, and no reported code of
the list is lower. -/
theorem lowest_some {l : List (Option (Nat × W64))} {a : Nat × W64} (h : lowest l = some a) :
    some a ∈ l ∧ ∀ b, some b ∈ l → a.1 ≤ b.1 := by
  induction l generalizing a with
  | nil => exact absurd h (by simp [lowest])
  | cons o l ih =>
    cases o with
    | none =>
      rw [lowest] at h
      exact ⟨List.mem_cons_of_mem _ (ih h).1, fun b hb => (ih h).2 b (by simpa using hb)⟩
    | some c =>
      rw [lowest] at h
      split at h
      · rename_i hn
        cases h
        refine ⟨List.mem_cons_self, fun b hb => ?_⟩
        rcases List.mem_cons.1 hb with hb | hb
        · cases hb; exact Nat.le_refl _
        · exact absurd hb (lowest_none_mem hn b)
      · rename_i d hd
        split at h <;> cases h
        · exact ⟨List.mem_cons_of_mem _ (ih hd).1, fun b hb => by
            rcases List.mem_cons.1 hb with hb | hb
            · cases hb; omega
            · exact (ih hd).2 b hb⟩
        · exact ⟨List.mem_cons_self, fun b hb => by
            rcases List.mem_cons.1 hb with hb | hb
            · cases hb; exact Nat.le_refl _
            · exact Nat.le_trans (by omega) ((ih hd).2 b hb)⟩
where
  lowest_none_mem {l : List (Option (Nat × W64))} (h : lowest l = none) : ∀ b, some b ∉ l := by
    induction l with
    | nil => simp
    | cons o l ih =>
      cases o with
      | none => rw [lowest] at h; intro b hb; exact ih h b (by simpa using hb)
      | some c => rw [lowest] at h; split at h <;> (try split at h) <;> cases h

/-- With no condition that holds the word goes on; with one it traps. -/
theorem orTrap_none {l : List (Option (Nat × W64))} (h : lowest l = none) (s : State) (k : State → Res) :
    orTrap l s k = k s := by simp [orTrap, h]
theorem orTrap_some {l : List (Option (Nat × W64))} {c : Nat} {w : W64} (h : lowest l = some (c, w)) {s : State}
    (ht : s.cur.trial = false) (k : State → Res) : orTrap l s k = .next (s.raise c w) := by simp [orTrap, h, ht, trap]
@[simp] theorem orTrap_nil (s : State) (k : State → Res) : orTrap [] s k = k s := orTrap_none rfl s k
/-- A look at whether a waiting group would go on makes no check. -/
theorem orTrap_trial {s : State} (h : s.cur.trial = true) (l : List (Option (Nat × W64))) (k : State → Res) :
    orTrap l s k = k s := by simp [orTrap, h]
@[simp] theorem orTrap_cond_false (c : Nat) (w : W64) (l : List (Option (Nat × W64))) (s : State) (k : State → Res) :
    orTrap (cond false c w :: l) s k = orTrap l s k := rfl

@[simp] theorem waitOr_true (r : Nat) (s : State) (k : State → Res) : waitOr true r s k = k s := rfl
@[simp] theorem waitOr_false (r : Nat) (s : State) (k : State → Res) : waitOr false r s k = .next (s.waitFor r) := rfl

/-- A word whose checks pass on to a meaning that answers a next state answers one itself: a trap and a wait are next
states too. -/
theorem orTrap_next {l : List (Option (Nat × W64))} {s : State} {k : State → Res} (h : ∃ t, k s = .next t) :
    ∃ t, orTrap l s k = .next t := by
  cases ht : s.cur.trial with
  | true => rw [orTrap_trial ht]; exact h
  | false =>
    cases hl : lowest l with
    | none => rw [orTrap_none hl]; exact h
    | some a => exact ⟨_, orTrap_some hl ht k⟩
theorem waitOr_next {ok : Bool} {r : Nat} {s : State} {k : State → Res} (h : ∃ t, k s = .next t) :
    ∃ t, waitOr ok r s k = .next t := by
  cases ok
  · exact ⟨_, rfl⟩
  · exact h

@[simp] theorem placeOr_true (r : Nat) (s : State) (k : State → Res) : placeOr true r s k = k s := rfl
@[simp] theorem placeOr_false (r : Nat) (s : State) (k : State → Res) : placeOr false r s k = .next (s.waitInPlace r) := rfl
theorem placeOr_next {ok : Bool} {r : Nat} {s : State} {k : State → Res} (h : ∃ t, k s = .next t) :
    ∃ t, placeOr ok r s k = .next t := by
  cases ok
  · exact ⟨_, rfl⟩
  · exact h
/-- A word with ACQ or REL waits, or goes on from the state in which its flushes are sent. -/
theorem scopeOr_next {acq rel : Bool} {scope : Nat} {s : State} {k : State → Res} (h : ∀ u, ∃ t, k u = .next t) :
    ∃ t, scopeOr acq rel scope s k = .next t := placeOr_next (h _)

/-! ### The pad -/

/-- A store changes only the bytes it names. -/
theorem Tile.padWrite_outside (T : Tile) (x a n v : Nat) (poison : Bool) {j : Nat} (h : j < a ∨ a + n ≤ j) :
    mget 0#8 (T.padWrite x a n v poison).pad j = mget 0#8 T.pad j := mget_writeBytes_outside n T.pad a v j h

/-- Reading bytes looks at no byte outside them. -/
theorem readBytes_congr {m m' : AMap Byte} (n : Nat) : ∀ a, (∀ j, a ≤ j → j < a + n → mget 0#8 m j = mget 0#8 m' j) →
    readBytes m a n = readBytes m' a n := by
  induction n with
  | zero => intros; rfl
  | succ n ih =>
    intro a h
    rw [readBytes, readBytes, h a (Nat.le_refl _) (by omega), ih (a + 1) (fun j h1 h2 => h j (by omega) (by omega))]

/-- What a store of `n` bytes wrote is what a load of them reads. -/
theorem readBytes_writeBytes (n : Nat) : ∀ (m : AMap Byte) (a v : Nat), readBytes (writeBytes m a n v) a n = v % 256 ^ n := by
  induction n with
  | zero => intro m a v; rw [Nat.pow_zero, Nat.mod_one]; rfl
  | succ n ih =>
    intro m a v
    rw [readBytes, writeBytes, ih, mget_writeBytes_outside n _ _ _ a (by omega), mget_mset_same, Nat.pow_succ']
    rw [BitVec.toNat_ofNat]
    exact (Nat.mod_mul ..).symm
theorem Tile.padRead_padWrite (T : Tile) (x a n v : Nat) (poison : Bool) :
    (T.padWrite x a n v poison).padRead a n = v % 256 ^ n := readBytes_writeBytes n T.pad a v

/-! ### The canonical form of the memories -/

theorem Tile.memoriesWf_padWrite {T : Tile} (h : T.memoriesWf) (x a n v : Nat) (poison : Bool) :
    (T.padWrite x a n v poison).memoriesWf := ⟨h.1, mwf_writeBytes n T.pad a v h.2⟩
theorem Tile.memoriesWf_padReceive {T : Tile} (h : T.memoriesWf) (a : Nat) (data : List PByte) :
    (T.padReceive a data).memoriesWf := ⟨h.1, mwf_putBytes _ T.pad a h.2⟩

/-- A write of one tile keeps the form of every memory when it keeps the form of that tile's. -/
theorem State.memoriesWf_setTile {s : State} (h : s.memoriesWf) (t : Nat) {T : Tile} (hT : T.memoriesWf) :
    (s.setTile t T).memoriesWf where
  tiles u := by rw [s.tile_setTile]; split; exacts [hT, h.tiles u]
  saved := h.saved
  stack := h.stack
  mailboxes := h.mailboxes
  ring := h.ring
  flash := h.flash
theorem State.memoriesWf_modTile {s : State} (h : s.memoriesWf) (t : Nat) {f : Tile → Tile}
    (hf : ∀ T : Tile, T.memoriesWf → (f T).memoriesWf) : (s.modTile t f).memoriesWf :=
  State.memoriesWf_setTile h t (hf _ (h.tiles t))
/-- A change of a context changes no memory. -/
theorem State.memoriesWf_modCtx {s : State} (h : s.memoriesWf) (t x : Nat) (f : Ctx → Ctx) : (s.modCtx t x f).memoriesWf :=
  State.memoriesWf_modTile h t (fun _ hT => hT)

/-- A change of a part of the state that holds no memory. -/
theorem State.memoriesWf_of_eq {s s' : State} (h : s.memoriesWf) (ht : s'.tiles = s.tiles) (hp : s'.plots = s.plots)
    (hc : s'.cellars = s.cellars) (hh : s'.host = s.host) (hm : s'.module = s.module) : s'.memoriesWf where
  tiles t := by rw [State.tile, ht]; exact h.tiles t
  saved p e he := h.saved p e (by rw [State.plot, hp] at he; exact he)
  stack k := by rw [State.stack, hc]; exact h.stack k
  mailboxes := by rw [hh]; exact h.mailboxes
  ring := by rw [hh]; exact h.ring
  flash := by rw [hm]; exact h.flash

end Sys2Proof.Machine
end

