-- ==== Sys2Proof/Laws/Regs.lean ====
section
/-! SUPPORT. The tables of units and the register operations: what `modMe` and `land` can do, said once. -/

namespace Sys2Proof.Machine

open Host Sys2Proof

variable {α : Type}

/-- Two insertions at one key are the second. -/
@[simp] theorem mput_mput (m : AMap α) (k : Nat) (v w : α) : mput (mput m k v) k w = mput m k w := by
  induction m with
  | nil => simp [mput]
  | cons p m ih =>
    obtain ⟨k', v'⟩ := p
    simp only [mput]
    split
    · simp [mput]
    · split
      · simp [mput]
      · simp [mput, *]

/-! ### The issuing context -/

@[simp] theorem me_modMe (s : State) (f : Ctx → Ctx) : (s.modMe f).me = f s.me := by
  simp [State.me, State.modMe, State.modCtx, State.modTile, State.setTile, State.here, State.tile, Tile.modCtx,
    Tile.setCtx, Tile.ctx]

@[simp] theorem here_modMe_cycle (s : State) (f : Ctx → Ctx) : (s.modMe f).here.cycle = s.here.cycle := by
  simp [State.modMe, State.modCtx, State.modTile, State.setTile, State.here, State.tile, Tile.modCtx, Tile.setCtx]

@[simp] theorem modMe_seed (s : State) (f : Ctx → Ctx) : (s.modMe f).seed = s.seed := rfl
@[simp] theorem modMe_cur (s : State) (f : Ctx → Ctx) : (s.modMe f).cur = s.cur := rfl

/-- Two changes of the issuing context are their composition. -/
@[simp] theorem modMe_modMe (s : State) (f g : Ctx → Ctx) : (s.modMe f).modMe g = s.modMe (fun c => g (f c)) := by
  simp [State.modMe, State.modCtx, State.modTile, State.setTile, State.tile, Tile.modCtx, Tile.setCtx, Tile.ctx]

theorem modMe_congr (s : State) {f g : Ctx → Ctx} (h : f s.me = g s.me) : s.modMe f = s.modMe g := by
  show s.modTile s.cur.tile (fun T => T.modCtx s.cur.ctx f) = s.modTile s.cur.tile (fun T => T.modCtx s.cur.ctx g)
  unfold State.modTile Tile.modCtx
  exact congrArg (fun c => s.setTile s.cur.tile ((s.tile s.cur.tile).setCtx s.cur.ctx c)) h

/-! ### Landing (R203) -/

/-- Landed results are in the registers, oldest first. -/
theorem mget_landed (key : Nat) (l : List Flight) : ∀ (m : AMap RVal), (∀ f ∈ l, f.reg ≠ key) →
    mget {} (l.foldl (fun m f => mset {} m f.reg f.val) m) key = mget {} m key := by
  induction l with
  | nil => intros; rfl
  | cons f l ih =>
    intro m h
    rw [List.foldl_cons, ih _ (fun g hg => h g (List.mem_cons_of_mem _ hg)),
      mget_mset_other _ _ _ (Ne.symm (h f List.mem_cons_self))]

/-- An overtaken result keeps its register, its window and its issue. -/
@[simp] theorem overtaken_reg (l : List Flight) (f : Flight) : (f.overtaken l).reg = f.reg := by
  unfold Flight.overtaken; split <;> rfl
@[simp] theorem overtaken_issued (l : List Flight) (f : Flight) : (f.overtaken l).issued = f.issued := by
  unfold Flight.overtaken; split <;> rfl
@[simp] theorem overtaken_exact (l : List Flight) (f : Flight) : (f.overtaken l).exact = f.exact := by
  unfold Flight.overtaken; split <;> rfl

/-- A read of a register with no result in flight. -/
theorem read_quiet (c : Ctx) (cyc seed key : Nat) (h : ∀ f ∈ c.flights, f.reg ≠ key) :
    c.read cyc seed key = heldBy key (mget {} c.regs key) := by
  have hf : c.flights.find? (fun f => f.reg == key && !(f.exact && f.issued == cyc)) = none := by
    rw [List.find?_eq_none]; intro f hf; simp [h f hf]
  unfold Ctx.read heldBy
  cases fixedReg key
  · simp only [hf, Option.getD_none]
  · rfl

/-- What settling leaves in flight was in flight. -/
theorem settle_flights (c : Ctx) (cyc key : Nat) (h : ∀ f ∈ c.flights, cyc < f.due → f.reg ≠ key) :
    ∀ f ∈ (c.settleUpTo cyc).flights, f.reg ≠ key := by
  intro f hf
  simp only [Ctx.settleUpTo, List.mem_map, List.mem_filter, decide_eq_true_eq] at hf
  obtain ⟨g, ⟨hg, hd⟩, rfl⟩ := hf
  simpa using h g hg hd

/-- A context without a result in flight for `key` reads what the register holds, at any time. -/
theorem read_settle_quiet (c : Ctx) (cyc cyc' seed key : Nat) (h : ∀ f ∈ c.flights, f.reg ≠ key) :
    (c.settleUpTo cyc).read cyc' seed key = heldBy key (mget {} c.regs key) := by
  rw [read_quiet _ _ _ _ (settle_flights c cyc key (fun f hf _ => h f hf))]
  exact congrArg _ (mget_landed key _ _ (fun f hf => h f (List.mem_filter.mp hf).1))

/-- What landing does to the results in flight: one more, at the place of its rank. -/
theorem land_flights (c : Ctx) (cyc seed key lat : Nat) (v : RVal) (e : Bool) (hk : fixedReg key = none) :
    ∃ (pre post : List Flight) (r : Nat), c.flights = pre ++ post ∧
      (c.land cyc seed key v lat e) = { c with flights := pre ++ ⟨key, v, cyc, cyc + lat, r, e, false⟩ :: post } := by
  refine ⟨c.flights.takeWhile (fun g => g.rank ≤ landRank c cyc seed key lat e),
    c.flights.dropWhile (fun g => g.rank ≤ landRank c cyc seed key lat e), landRank c cyc seed key lat e,
    (List.takeWhile_append_dropWhile).symm, ?_⟩
  simp [Ctx.land, Ctx.fly, hk]

/-- A result lands in its register: from `lat` cycles on the value is there, and no other register changes. -/
theorem land_later_same (s : State) (key : Nat) (v : RVal) (lat n : Nat) (e : Bool) (h : s.quiet key) (hn : lat ≤ n) :
    (s.landAs key v lat e).later n key = heldBy key v := by
  unfold State.later State.landAs
  rw [me_modMe, here_modMe_cycle, modMe_seed]
  cases hk : fixedReg key with
  | some w => simp [hk, Ctx.read, heldBy]
  | none =>
    obtain ⟨pre, post, r, hf, hl⟩ := land_flights s.me s.here.cycle s.seed key lat v e hk
    have hq : ∀ f ∈ pre ++ post, f.reg ≠ key := fun f hm => h f (hf ▸ hm)
    rw [hl, read_quiet]
    · have hd : s.here.cycle + lat ≤ s.here.cycle + n := by omega
      simp only [Ctx.settleUpTo, List.filter_append, List.filter_cons, hd, decide_true, if_true, List.foldl_append,
        List.foldl_cons]
      rw [mget_landed key _ _ (fun f hm => hq f (List.mem_append_right _ (List.mem_filter.mp hm).1)), mget_mset_same]
    · refine settle_flights _ _ _ fun f hm hd => ?_
      rcases List.mem_append.mp hm with hm | hm
      · exact hq f (List.mem_append_left _ hm)
      · rcases List.mem_cons.mp hm with rfl | hm
        · exact absurd hd (by simp; omega)
        · exact hq f (List.mem_append_right _ hm)

/-- A quiet register stays quiet while another is written. -/
theorem quiet_land (s : State) {key j : Nat} (v : RVal) (lat : Nat) (e : Bool) (hj : s.quiet j) (hne : j ≠ key) :
    (s.landAs key v lat e).quiet j := by
  intro f hm
  unfold State.landAs at hm
  rw [me_modMe] at hm
  cases hk : fixedReg key with
  | some w => simp [Ctx.land, hk] at hm; exact hj f hm
  | none =>
    obtain ⟨pre, post, r, hf, hl⟩ := land_flights s.me s.here.cycle s.seed key lat v e hk
    rw [hl] at hm
    rcases List.mem_append.mp hm with hm | hm
    · exact hj f (hf ▸ List.mem_append_left _ hm)
    · rcases List.mem_cons.mp hm with rfl | hm
      · exact Ne.symm hne
      · exact hj f (hf ▸ List.mem_append_right _ hm)

/-- The results of a register among the results that have landed do not depend on those of another. -/
theorem mget_landed_skip (j : Nat) (pre post : List Flight) (f : Flight) (hj : f.reg ≠ j) (m : AMap RVal) :
    mget {} ((pre ++ f :: post).foldl (fun m f => mset {} m f.reg f.val) m) j =
      mget {} ((pre ++ post).foldl (fun m f => mset {} m f.reg f.val) m) j := by
  have key : ∀ (l : List Flight) (m m' : AMap RVal), mget {} m j = mget {} m' j →
      mget {} (l.foldl (fun m f => mset {} m f.reg f.val) m) j = mget {} (l.foldl (fun m f => mset {} m f.reg f.val) m') j := by
    intro l
    induction l with
    | nil => intro m m' h; exact h
    | cons g l ih =>
      intro m m' h
      refine ih _ _ ?_
      by_cases hg : g.reg = j
      · subst hg; rw [mget_mset_same, mget_mset_same]
      · rw [mget_mset_other _ _ _ (Ne.symm hg), mget_mset_other _ _ _ (Ne.symm hg), h]
  rw [List.foldl_append, List.foldl_append, List.foldl_cons]
  exact key post _ _ (mget_mset_other _ _ _ (Ne.symm hj))

/-- What overtakes a result are results of its own register. -/
theorem overtaken_skip (pre post : List Flight) (f g : Flight) (h : f.reg ≠ g.reg) :
    g.overtaken (pre ++ f :: post) = g.overtaken (pre ++ post) := by
  simp [Flight.overtaken, List.filter_append, h]

/-- Every other register reads as it would have. -/
theorem land_later_other (s : State) {key j : Nat} (v : RVal) (lat n : Nat) (e : Bool) (hj : j ≠ key) :
    (s.landAs key v lat e).later n j = s.later n j := by
  unfold State.later State.landAs
  rw [me_modMe, here_modMe_cycle, modMe_seed]
  cases hk : fixedReg key with
  | some w => simp [Ctx.land, hk]
  | none =>
    obtain ⟨pre, post, r, hf, hl⟩ := land_flights s.me s.here.cycle s.seed key lat v e hk
    rw [hl]
    generalize hg : (⟨key, v, s.here.cycle, s.here.cycle + lat, r, e, false⟩ : Flight) = g
    have hr : g.reg = key := by rw [← hg]
    have hgj : g.reg ≠ j := by rw [hr]; exact Ne.symm hj
    generalize s.here.cycle + n = cyc
    -- the registers agree at j, and so does the first result in flight for j
    have regs : mget {} (Ctx.settleUpTo { s.me with flights := pre ++ g :: post } cyc).regs j = mget {} (s.me.settleUpTo cyc).regs j := by
      simp only [Ctx.settleUpTo, hf, List.filter_append, List.filter_cons]
      split
      · exact mget_landed_skip j _ _ g hgj _
      · rfl
    have first : ((Ctx.settleUpTo { s.me with flights := pre ++ g :: post } cyc).flights.find?
          (fun f => f.reg == j && !(f.exact && f.issued == cyc))) =
        (s.me.settleUpTo cyc).flights.find? (fun f => f.reg == j && !(f.exact && f.issued == cyc)) := by
      have same : ∀ (l : List Flight), ((l.filter (fun f => decide (cyc < f.due))).map
            (Flight.overtaken ((pre ++ g :: post).filter (fun f => decide (f.due ≤ cyc))))).find?
              (fun f => f.reg == j && !(f.exact && f.issued == cyc)) =
          ((l.filter (fun f => decide (cyc < f.due))).map
            (Flight.overtaken ((pre ++ post).filter (fun f => decide (f.due ≤ cyc))))).find?
              (fun f => f.reg == j && !(f.exact && f.issued == cyc)) := by
        intro l
        induction l with
        | nil => rfl
        | cons f l ih =>
          by_cases hd : cyc < f.due
          · simp only [List.filter_cons, hd, decide_true, if_true, List.map_cons, List.find?_cons, overtaken_reg, overtaken_issued,
              overtaken_exact]
            by_cases hfj : f.reg = j
            · have ho : f.overtaken ((pre ++ g :: post).filter (fun f => decide (f.due ≤ cyc))) =
                  f.overtaken ((pre ++ post).filter (fun f => decide (f.due ≤ cyc))) := by
                simp only [List.filter_append, List.filter_cons]
                split
                · exact overtaken_skip _ _ _ _ (by rw [hfj]; exact hgj)
                · rfl
              rw [ho]
              cases (f.reg == j && !(f.exact && f.issued == cyc))
              · exact ih
              · rfl
            · simp only [show (f.reg == j) = false by simpa using hfj, Bool.false_and]
              exact ih
          · simpa only [List.filter_cons, hd, decide_false, Bool.false_eq_true, if_false] using ih
      simp only [Ctx.settleUpTo, hf]
      generalize (pre ++ g :: post).filter (fun f => decide (f.due ≤ cyc)) = A at same ⊢
      generalize (pre ++ post).filter (fun f => decide (f.due ≤ cyc)) = B at same ⊢
      rw [List.filter_append, List.filter_append, List.map_append, List.map_append, List.find?_append, List.find?_append, same pre,
        List.filter_cons]
      congr 1
      split
      · rw [List.map_cons, List.find?_cons, overtaken_reg, show (g.reg == j) = false by simpa using hgj, Bool.false_and]
        exact same post
      · exact same post
    unfold Ctx.read
    rw [regs, first]

/-- All that a result of the issuing word changes: its own register, once it has landed. -/
theorem land_onlyRegs (s : State) (key : Nat) (v : RVal) (lat : Nat) (e : Bool) :
    s.onlyRegs (s.landAs key v lat e) [key] := by
  refine ⟨?_, fun j hj n => land_later_other s v lat n e (by simpa using hj)⟩
  unfold State.landAs
  rw [modMe_modMe]
  refine modMe_congr s ?_
  rw [me_modMe]
  unfold Ctx.land
  split
  · rfl
  · rfl

/-- A word whose meaning is one result completes so. -/
theorem writes_of_land {i : Instr} {s : State} {key : Nat} {v : RVal} {lat : Nat} {e : Bool} (h : s.quiet key)
    (hx : exec i s = .next (s.landAs key v lat e)) : Writes i s [(key, v)] lat :=
  ⟨_, hx, land_onlyRegs s key v lat e, fun p hp n hn => by
    rw [List.mem_singleton] at hp; subst hp; exact land_later_same s key v lat n e h hn⟩

end Sys2Proof.Machine
end

