-- ==== Sys2Proof/Tests/Slice0.lean ====
section
/-! SUPPORT. Tests of the model. The words are written out bit by bit from the layouts of R306 to R309; each
witness shows a state and operands that meet the hypotheses of the statement it is named after. -/

namespace Sys2Proof.Tests

open Host Sys2Proof Sys2Proof.Machine

/-! ### Words of every major decode (R306 to R309) -/
theorem test_decode_brkpt : decodeTableWord 32 0x0152D981 = some (.brkpt 0x2A5B3) := by decide
theorem test_decode_ctxgo : decodeTableWord 32 0x00292886 = some (.ctxgo 5 9 17) := by decide
theorem test_decode_ckeq : decodeTableWord 32 0x00007E04 = some (.ckeq 3 60) := by decide
theorem test_decode_add_chained : decodeTableWord 32 0x8228C380 = some (.add 5 6 7) := by decide
theorem test_decode_mulhz : decodeTableWord 32 0x03F8301A = some (.mulhz 63 1 32) := by decide
theorem test_decode_zextH : decodeTableWord 32 0x02142029 = some (.zextH 2 33) := by decide
theorem test_decode_bins : decodeTableWord 32 0x0220A331 = some (.bins 4 5 6) := by decide
theorem test_decode_addi : decodeTableWord 32 0x04411FFF = some (.addi 8 8 0x1FFF) := by decide
theorem test_decode_xori : decodeTableWord 32 0x0A084F0F = some (.xori 1 2 0x0F0F) := by decide
theorem test_decode_shai : decodeTableWord 32 0x0C39303F = some (.shai 7 9 63) := by decide
theorem test_decode_lsh19 : decodeTableWord 32 0x102C8D15 = some (.lsh19 5 0x48D15) := by decide
theorem test_decode_cmpLe : decodeTableWord 32 0x13A51484 = some (.cmpLe 6 2 40 41) := by decide
theorem test_decode_cmpiLtz : decodeTableWord 32 0x14519003 = some (.cmpiLtz 1 1 12 0x200) := by decide
theorem test_decode_pand : decodeTableWord 32 0x160841A0 = some (.pand 1 2 3 1 0) := by decide
theorem test_decode_sel : decodeTableWord 32 0x16A2AB55 = some (.sel 20 21 22 5) := by decide
theorem test_decode_br : decodeTableWord 32 0x18FFFFFE = some (.br 3 1 0x1FFFFE) := by decide
theorem test_decode_call : decodeTableWord 32 0x1DF40001 = some (.call 62 0x40001) := by decide
theorem test_decode_callr : decodeTableWord 32 0x1FF16001 = some (.callr 62 11) := by decide
theorem test_decode_loopn : decodeTableWord 32 0x201955A8 = some (.loopn 3 0x155 0x2A) := by decide
theorem test_decode_brg : decodeTableWord 32 0x22500005 = some (.brg 1 2 5) := by decide
theorem test_decode_cseek : decodeTableWord 32 0x2479D902 = some (.cseek 15 14 50) := by decide
theorem test_decode_cadvi : decodeTableWord 32 0x26188010 = some (.cadvi 3 4 16) := by decide
theorem test_decode_mcc : decodeTableWord 32 0x283BC383 = some (.mcc 7 0x787) := by decide
theorem test_decode_sps : decodeTableWord 32 0x2C480028 = some (.sps 9 40) := by decide
theorem test_decode_spsc : decodeTableWord 32 0x2E380C28 = some (.spsc 7 40) := by decide
theorem test_decode_vclmul : decodeTableWord 32 0x30410C8E = some (.vclmul 4 2 3 1) := by decide
theorem test_decode_vmulh_z : decodeTableWord 32 0x30410CC3 = some (.vmulh 4 2 3 1 1) := by decide
theorem test_decode_fmul : decodeTableWord 32 0x33F0C132 = some (.fmul 31 1 16 2 1 1 0) := by decide
theorem test_decode_fclass : decodeTableWord 32 0x348481C2 = some (.fclass 8 9 3 2) := by decide
theorem test_decode_vfma : decodeTableWord 32 0x36110C88 = some (.vfma 1 2 3 1 0 0 1) := by decide
theorem test_decode_vcmpUnord : decodeTableWord 32 0x39431CA4 = some (.vcmpUnord 5 6 7 1 2) := by decide
theorem test_decode_vredMax : decodeTableWord 32 0x3A532405 = some (.vredMax 5 6 1 0) := by decide
theorem test_decode_kpop : decodeTableWord 32 0x3BE3000C = some (.kpop 30 6) := by decide
theorem test_decode_vcvt : decodeTableWord 32 0x3C111B4A = some (.vcvt 1 2 3 6 4 1 0 1) := by decide
theorem test_decode_vtanh : decodeTableWord 32 0x3E110184 = some (.vtanh 1 2 3) := by decide
theorem test_decode_ldS32 : decodeTableWord 32 0x4048A002 = some (.ldS32 9 1 2) := by decide
theorem test_decode_ldAcq : decodeTableWord 32 0x4048F741 = some (.ldAcq 9 1 3 1 0x41) := by decide
theorem test_decode_stS64 : decodeTableWord 32 0x426A3FFF = some (.stS64 13 4 0xFFF) := by decide
theorem test_decode_ldv : decodeTableWord 32 0x44894001 = some (.ldv 17 2 4 1) := by decide
theorem test_decode_stvs : decodeTableWord 32 0x4B121C80 = some (.stvs 17 2 3 4 2) := by decide
theorem test_decode_stc : decodeTableWord 32 0x4C391003 = some (.stc 7 2 3) := by decide
theorem test_decode_acas : decodeTableWord 32 0x4E2C8D3A = some (.acas 5 9 6 1 1 0 2) := by decide
theorem test_decode_tld : decodeTableWord 32 0x50C47E40 = some (.tld 3 1 31 1 0 2) := by decide
theorem test_decode_tmov : decodeTableWord 32 0x50C1E000 = some (.tmov 3 6) := by decide
theorem test_decode_tstv : decodeTableWord 32 0x50C2D7DC = some (.tstv 3 21 30 7) := by decide
theorem test_decode_mma : decodeTableWord 32 0x521C1FFA = some (.mma 0 7 3 31 7 0 1 0) := by decide
theorem test_decode_mldb : decodeTableWord 32 0x52149800 = some (.mldb 5 3 0 0) := by decide
theorem test_decode_mgoCo : decodeTableWord 32 0x5280E000 = some (.mgoCo 2) := by decide
theorem test_decode_mfid : decodeTableWord 32 0x52027800 = some (.mfid 3 2) := by decide
theorem test_decode_mrep : decodeTableWord 32 0x55FF87E0 = some (.mrep 0x3FF 1 31 0) := by decide
theorem test_decode_scacc : decodeTableWord 32 0x56499200 = some (.scacc 1 2 3 4 1 0) := by decide
theorem test_decode_send : decodeTableWord 32 0x58287018 = some (.send 5 3 8 0 1 4) := by decide
theorem test_decode_chwait : decodeTableWord 32 0x580060C0 = some (.chwait 3) := by decide
theorem test_decode_xred : decodeTableWord 32 0x5AF0AD09 = some (.xred 7 8 1 0 1 3 0 4 1) := by decide
theorem test_decode_xtest : decodeTableWord 32 0x5AF60300 = some (.xtest 7 44) := by decide
theorem test_decode_barr : decodeTableWord 32 0x5CA00C00 = some (.barr 20 3) := by decide
theorem test_decode_wknext : decodeTableWord 32 0x5C050900 = some (.wknext 5 2) := by decide
theorem test_decode_pwrq : decodeTableWord 32 0x5C0001FC = some (.pwrq 15) := by decide
theorem test_decode_stg : decodeTableWord 32 0x5E0907FF = some (.stg 1 2 3 3 0x7F) := by decide

/-! ### Ill-formed words are refused (R310), one term for each check of `wellFormed` -/

theorem test_ill_formed_compares : wellFormed (.cmpEq 1 3 0 0) = false ∧ wellFormed (.cmpLez 1 3 0 0) = false ∧
    wellFormed (.cmpiEq 1 3 0 0) = false ∧ wellFormed (.cmpiLez 1 3 0 0) = false := by decide
theorem test_ill_formed_call : wellFormed (.call 0 1) = false := by decide
theorem test_ill_formed_floats : wellFormed (.fadd 0 0 0 0 3 0 0) = false ∧ wellFormed (.fmax 0 0 0 0 3 0 0) = false ∧
    wellFormed (.vfma 0 0 0 0 3 0 0) = false ∧ wellFormed (.vfnma 0 0 0 0 3 0 0) = false ∧
    wellFormed (.fabs 0 0 0 3) = false ∧ wellFormed (.fclass 0 0 0 3) = false := by decide
theorem test_ill_formed_vcmp : wellFormed (.vcmpEq 0 0 0 0 5) = false ∧ wellFormed (.vcmpUnord 0 0 0 0 1) = false ∧
    wellFormed (.vcmpUnord 0 0 0 0 5) = false := by decide
theorem test_ill_formed_vred : wellFormed (.vredAdd 0 0 3 0) = false ∧ wellFormed (.vredXor 0 0 2 0) = false := by decide
theorem test_ill_formed_vcvt : wellFormed (.vcvt 0 0 13 0 0 0 0 0) = false ∧ wellFormed (.vcvt 0 0 5 0 0 0 0 0) = false ∧
    wellFormed (.vcvt 0 0 0 15 0 0 0 0) = false ∧ wellFormed (.vcvt 0 0 0 0 5 0 0 0) = false := by decide
theorem test_ill_formed_ordered : wellFormed (.ldAcq 0 0 6 0 0) = false ∧ wellFormed (.stRel 0 0 7 0 0) = false := by decide
theorem test_ill_formed_gather : wellFormed (.ldvg 0 0 0 0 3) = false ∧ wellFormed (.stvs 0 0 0 0 3) = false := by decide
theorem test_ill_formed_patom : wellFormed (.aadd 0 0 0 0 0 0 1) = false ∧ wellFormed (.acas 0 0 0 1 0 0 3) = false := by decide
theorem test_ill_formed_scopes : wellFormed (.tld 0 0 0 0 0 1) = false ∧ wellFormed (.tst 0 0 0 1 0 6) = false ∧
    wellFormed (.send 0 0 0 0 0 2) = false ∧ wellFormed (.sendt 0 0 0 1 7) = false ∧
    wellFormed (.xld 0 0 0 0 0 3 0) = false ∧ wellFormed (.xst 0 0 0 1 0 6) = false ∧ wellFormed (.xpf 0 0 0 0 1) = false := by
  decide
theorem test_ill_formed_mfid : wellFormed (.mfid 0 3) = false := by decide
theorem test_ill_formed_xred : wellFormed (.xred 0 0 0 0 0 0 6 0 0) = false ∧ wellFormed (.xred 0 0 0 0 0 0 0 5 0) = false ∧
    wellFormed (.xred 0 0 0 0 0 0 1 4 0) = false ∧ wellFormed (.xatom 0 0 0 0 0 0 10 0) = false := by decide

/-- A reserved field, a named register past its file, an unassigned minor: nothing is decoded (R310). -/
theorem test_reserved_words : decodeTableWord 32 0x0C000040 = none ∧ decodeTableWord 32 0x24800000 = none ∧
    decodeTableWord 32 0x0200000C = none ∧ decodeTableWord 32 0x50002001 = none := by decide

/-- Each event of the table has no word. -/
theorem test_events_have_no_word : encode 0 .powerUp = none ∧ encode 1 (.atomicopRequesterEnable 0 true) = none := by decide

/-! ### States for the witnesses -/

/-- Tile 0 with context 0 issuing. -/
def tile0 (T : Tile) : State := { State.reset with tiles := [(0, T)] }
def ctx0 (c : Ctx) : State := tile0 { ctxs := [(0, c)] }
/-- Context 0 with the given registers. -/
def regs0 (l : AMap RVal) : State := ctx0 { regs := l }
/-- A capability of the whole pad, with every permission but S. -/
def padCap (at' : Nat) : RVal := { rootCap 1 0x7F 0 (2 ^ 22) with bits := (rootCap 1 0x7F 0 (2 ^ 22)).bits ||| BitVec.ofNat 128 at' }
/-- Context 0 with c1 naming the pad from byte 0x100. -/
def capRegs : AMap RVal := [(1, gval 8 false), (gKey 2, gval 0 true), (cKey 1, padCap 0x100), (cKey 2, { poison := true }), (kKey 1, { poison := true })]
def pads : State := regs0 capRegs
/-- Context 0 of tile 0 runs on tile 0, which belongs to plot 0. -/
def inS (s : State) : State := s.modMe (·.setCr 0x015 1)

/-! ### Witnesses: the scalar words -/

theorem witness_arithmetic : State.reset.quiet (gKey 63) ∧ State.reset.quiet (gKey 0) := by unfold State.quiet; decide

theorem witness_bit_words : State.reset.quiet (gKey (63#6).toNat) := by unfold State.quiet; decide

theorem witness_compares : State.reset.quiet (pKey 7) ∧ State.reset.quiet (gKey 63) := by unfold State.quiet; decide

/-- Each transfer, with the highest target and with the one above it. -/
theorem witness_transfers :
    let s := ctx0 { pc := 10920, regs := [(1, gval 10921 false), (2, gval 10922 false), (pKey 2, pval false true), (pKey 3, pval false false), (kKey 1, { bits := 1 })] }
    ((s.me.pc : Int) + (1#21).toInt = 10921 ∧ (s.p 0).poison = false ∧ ((s.p 0).isTrue = true ↔ (0#1) = 0)) ∧
    ((s.k 0).poison = false ∧ (s.k 0).lo32 = 0xFFFFFFFF#32) ∧
    ((s.gv 1).toNat = 10921 ∧ s.gp 1 = false ∧ s.quiet (gKey 62)) ∧
    (¬ ((s.p 0).isTrue = true ↔ (1#1) = 0)) ∧ 10921 < (s.me.pc : Int) + (2#21).toInt ∧ (s.me.pc : Int) + (-10921#21).toInt < 0 ∧
    ((s.p 2).poison = true ∧ ¬ ((s.p 2).isTrue = true ↔ (0#1) = 0)) ∧
    ((s.k 1).lo32 ≠ 0 ∧ (s.k 1).lo32 ≠ 0xFFFFFFFF#32) ∧
    ((s.p 3).isTrue = false ∧ (s.p 3).poison = false) ∧ (s.p 0).isTrue ≠ (s.p 3).isTrue ∧ 10921 < (s.gv 2).toNat := by
  and_intros <;> first | decide | (unfold State.quiet; decide)

theorem witness_loop_buffer : State.reset.gp 1 = false ∧ (1010#10).toNat + 5 < 1016 ∧
    (∀ w, w < 6 → (State.reset.rd (spKey ((1010#10).toNat + w))).poison = false) ∧
    (let c : Ctx := { pc := 7, creg := [(0x100, 1#64), (0x102, w64 (5 + 2 * 2 ^ 14 + 2 ^ 20))] }
     ((c.cr 0x102).getLsbD 20 = true ∧ (c.cr 0x102).getLsbD 21 = c.sMode ∧ c.pc = 5 + 2 ∧ fld (c.cr 0x101) 0 10 ≠ fld (c.cr 0x100) 0 10)) ∧
    (let c : Ctx := { pc := 7, creg := [(0x102, w64 (5 + 2 * 2 ^ 14 + 2 ^ 20))] }
     c.pc = 7 ∧ ∀ j, j < 6 → fld (c.cr 0x101) (10 * j) 10 = fld (c.cr 0x100) (10 * j) 10) := by
  decide

theorem witness_capabilities : pads.quiet (cKey 15) ∧ pads.quiet (gKey 63) ∧ (pads.c 1).poison = false ∧ (pads.c 1).tag = true ∧
    pads.gp 1 = false := by
  unfold State.quiet; decide

/-- Bounds that are exact at exponent 0, and a length that none represents. -/
theorem witness_cnarw :
    (pads.quiet (cKey 2) ∧ (pads.c 1).poison = false ∧ pads.gp 1 = false ∧ capBase (pads.c 1) ≤ capAddr (pads.c 1) ∧
      capAddr (pads.c 1) + (pads.gv 1).toNat ≤ capLimit (pads.c 1) ∧ capAddr (pads.c 1) % 2 ^ 0 = 0 ∧ (pads.gv 1).toNat / 2 ^ 0 ≤ 2 ^ 28 - 1 ∧
      capAddr (pads.c 1) + (pads.gv 1).toNat ≤ (capAddr (pads.c 1) / 2 ^ (0 + 27) + 1) * 2 ^ (0 + 27)) ∧
    (let s := regs0 [(1, gval (BitVec.ofNat 64 (2 ^ 63 + 1)) false), (cKey 1, padCap 0x100)]
     ¬ capAddr (s.c 1) + (s.gv 1).toNat ≤ capLimit (s.c 1)) := by
  and_intros <;> first | decide | (unfold State.quiet; decide)

/-- An assigned and an unassigned register, in both modes. -/
theorem witness_control_registers : cregAssigned 0x000 = true ∧ cregAssigned 0xFFF = false ∧ cregReadPriv 0x000 = false ∧
    (cregAssigned 0x700 = true ∧ cregReadPriv 0x700 = true) ∧ cregWriteUser 0x400 = true ∧ cregAssigned 0x400 = true ∧
    cregWriteUser 0x003 = false ∧ cregAssigned 0x003 = true ∧ pads.gp 2 = true ∧ pads.gp 1 = false ∧ pads.me.sMode = false ∧
    (inS pads).me.sMode = true ∧ cntFields 0x003 = [] := by
  decide

/-! ### Witnesses: spill memory and the pad -/

/-- The last slot of U mode, the first supervisor slot, and misplaced slots. -/
theorem witness_spill :
    let s := State.reset
    (s.quiet (gKey 1) ∧ s.quiet (spKey 1015) ∧ s.quiet (spTagKey 1015) ∧ 1015 + 1 ≤ 1016) ∧
    ((1000#10).toNat + 16 ≤ 1016 ∧ (992 : Nat) % 16 = 0 ∧ (∀ i, i < 32 → ∀ f ∈ s.me.flights, f.reg ≠ vKey 31 i)) ∧
    (1014 + 2 ≤ 1016 ∧ (1014 : Nat) % 2 = 0) ∧ (s.me.sMode = false ∧ 1016 < 1016 + 1) ∧ (inS s).me.sMode = true ∧
    (1 + 16 ≤ 1016 ∧ (1 : Nat) % 16 ≠ 0) ∧ (41 + 2 ≤ 1016 ∧ (41 : Nat) % 2 ≠ 0) := by
  and_intros <;> first | decide | (unfold State.quiet; decide)

theorem witness_loads : pads.quiet (gKey 5) ∧ PadAllows pads 1 ((2047#12).toInt * 8) 8 1 8 false true ∧
    PadAllows pads 1 ((-256#12).toInt * 1) 1 1 1 false true := by
  and_intros <;> first | (unfold State.quiet; decide) | (constructor <;> decide)

theorem witness_stores : PadAllows pads 1 ((2047#12).toInt * 8) 8 2 8 true true ∧ PadAllows pads 1 ((63#7).toInt * (8 : Nat)) 8 2 8 true true ∧
    (pads.gv 3).toNat = (pads.gv 0).toNat ∧ pads.gp 3 = false := by
  and_intros <;> first | decide | (constructor <;> decide)

/-- The checks of an access in their order, and the ordered forms with and without something outstanding. -/
theorem witness_pad_checks :
    (pads.c 3).tag = false ∧
    (let s := regs0 [(cKey 1, rootCap 2 0x7F 0 (2 ^ 22))]
     (s.c 1).tag = true ∧ capSpace (s.c 1) ≠ 1) ∧
    (let s := regs0 [(cKey 1, rootCap 1 2 0 (2 ^ 22))]
     (s.c 1).tag = true ∧ capSpace (s.c 1) = 1 ∧ capPerms (s.c 1) &&& 1 ≠ 1) ∧
    ((pads.c 1).tag = true ∧ capPerms (pads.c 1) &&& 1 = 1 ∧ ¬ capPerms (pads.c 1) &&& 128 = 128 ∧ (capAddr (pads.c 1) : Int) + (-2048#12).toInt * 1 < capBase (pads.c 1)) ∧
    (let s := regs0 [(cKey 1, padCap 0x101)]
     ((capAddr (s.c 1) : Int) + (0#12).toInt * 2) % 2 ≠ 0 ∧ capBase (s.c 1) ≤ capAddr (s.c 1) ∧ capAddr (s.c 1) + 2 ≤ capLimit (s.c 1)) ∧
    (let s := tile0 { ctxs := [(0, { regs := capRegs })], trk := [{ n := 0, kind := .receive 3, writes := true, lo := 0, hi := 0x101 }] }
     ∃ e ∈ s.here.trk, e.writes = true ∧ (e.lo : Int) < capAddr (s.c 1) + 1 ∧ (capAddr (s.c 1) : Int) < e.hi) ∧
    (let v : RVal := { padCap 0 with poison := true }
     v.tag = true ∧ capSpace v = 1 ∧ v.poison = true) ∧
    PadAllows pads 1 ((0#7).toInt * (8 : Nat)) 8 1 8 false false ∧ PadAllows pads 1 ((0#7).toInt * (4 : Nat)) 4 2 4 true false ∧
    pads.acquirable 0 0 5 0 = true ∧ pads.released 0 0 5 0 = true ∧
    (let s := tile0 { ctxs := [(0, { regs := capRegs })], opSeq := 1, emitq := [{ seq := 0, ctx := 0 }] }
     PadAllows s 1 0 4 2 4 true false ∧ s.released 0 0 1 1 = false) := by
  and_intros <;> first | decide | (constructor <;> decide)

/-- All 32 lanes, one lane, none; lanes that share an address; a misplaced vector. -/
theorem witness_vector_accesses :
    (let s := regs0 [(cKey 1, padCap 0x100), (kKey 2, { bits := 0x80000001 }), (kKey 3, {}), (vKey 4 31, lval 0x7C 0)]
     ((capAddr (s.c 1) : Int) + (1#12).toInt * 128) % 128 = 0 ∧ (s.k 2).poison = false ∧
      (∀ i ∈ (List.range 32).filter (fun i => (s.k 2).bits.getLsbD i), s.quiet (vKey 31 i)) ∧
      (List.range 32).filter (fun i => (s.k 3).bits.getLsbD i) = [] ∧
      (∀ i ∈ (List.range 32).filter (fun i => (s.k 2).bits.getLsbD i), (s.lane 4 i).poison = false) ∧
      PadAllows s 1 ((1#12).toInt * 128 + 4 * 0) 4 1 4 false true ∧ PadAllows s 1 ((1#12).toInt * 128 + 4 * 31) 4 2 4 true true ∧
      PadAllows s 1 ((s.lane 4 0).lo32.toNat : Int) 4 1 4 false true ∧ PadAllows s 1 ((s.lane 4 31).lo32.toNat : Int) 4 2 4 true true ∧
      gatherFreeze [256, 380] = 0) ∧
    (let s := regs0 [(cKey 1, padCap 0x104), (kKey 3, {})]
     ((capAddr (s.c 1) : Int) + (0#12).toInt * 128) % 128 ≠ 0 ∧ (s.k 3).poison = false) := by
  and_intros <;> first | decide | (unfold State.quiet; decide) | (constructor <;> decide)

theorem witness_capability_memory :
    PadAllows pads 1 ((2047#12).toInt * 16) 16 17 16 false true ∧ PadAllows pads 1 ((-16#12).toInt * 16) 16 34 16 true true ∧
    (pads.c 1).tag = true ∧ capPerms (pads.c 1) &&& 64 = 64 ∧
    (let s := tile0 { ctxs := [(0, { regs := [(cKey 1, padCap 0x100), (cKey 3, rootCap 1 3 0 16)] })], padPoison := [(0x21, true)] }
     (mget false s.here.padPoison (0x100 / 8 + 1) = true ∧ PadAllows s 1 0 16 17 16 false true) ∧
      (s.c 3).tag = true ∧ capPerms (s.c 3) &&& 64 = 0) := by
  and_intros <;> first | decide | (constructor <;> decide)

theorem witness_pad_atomics :
    PadAllows pads 1 0 8 7 8 true false ∧ mget false pads.here.padPoison (0x100 / 8) = false ∧
    readBytes pads.here.pad 0x100 8 = (pads.gv 0).toNat ∧ readBytes pads.here.pad 0x100 8 ≠ (pads.gv 1).toNat % 2 ^ 64 ∧
    (let s := tile0 { ctxs := [(0, { regs := capRegs })], padPoison := [(0x20, true)] }
     PadAllows s 1 0 4 7 4 true false ∧ mget false s.here.padPoison (0x100 / 8) = true) ∧
    (let s := tile0 { ctxs := [(0, { regs := capRegs })], opSeq := 1, emitq := [{ seq := 0, ctx := 0 }] }
     PadAllows s 1 0 4 7 4 true false ∧ s.acquirable 0 0 4 1 = false ∧ s.released 0 0 1 1 = false) := by
  and_intros <;> first | decide | (constructor <;> decide)

/-! ### Witnesses: vector words -/

theorem witness_vectors : (State.reset.k 0).poison = false ∧ State.reset.quiet (kKey 7) ∧ State.reset.quiet (gKey 63) ∧
    (∀ i, i < 32 → ∀ f ∈ State.reset.me.flights, f.reg ≠ vKey 31 i) ∧ State.reset.gp 31 = false ∧
    (∀ i, i < 32 → (State.reset.lane 31 i).poison = false) := by
  and_intros <;> first | decide | (unfold State.quiet; decide)

/-- The codes with which the rounding laws are met: the largest finite one and the smallest subnormal. -/
theorem witness_rounding : (0x7F7FFFFF < 2 ^ fp32.width ∧ fp32.isNan 0x7F7FFFFF = false ∧ 0x7F7FFFFF % fp32.sign ≠ fp32.infCode) ∧
    (1 < 2 ^ bf16.width ∧ bf16.isNan 1 = false ∧ 1 < bf16.sign) ∧ e4m3.e4m3 = true := by decide

theorem witness_conversions : State.reset.cur.popped = none ∧ (3#3).toNat < 4 ∧ State.reset.here.rngq = [] ∧
    (tile0 { rngq := [5] }).here.rngq = [5] ∧ (tile0 { rngq := [5] }).quiet (vKey 1 31) :=
  ⟨rfl, by decide, rfl, rfl, fun _ h => (List.not_mem_nil h).elim⟩

theorem witness_poison : (pads.k 1).poison = true ∧ pads.gp 2 = true ∧ (pads.c 2).poison = true ∧
    (let s := regs0 [(vKey 1 31, lval 0 true)]
     (s.k 0).bits.getLsbD 31 = true ∧ (s.lane 1 31).poison = true) := by decide

/-- A line that context 1 wrote three releases ago and that context 0 has not observed, and one that it has. -/
theorem witness_line_race :
    (let s := tile0 { ctxs := [(0, { regs := capRegs })], lineTags := [(4, ⟨1, 3⟩)], rc := 6 }
     let tag : LineTag := mget {} s.here.lineTags ((capAddr (s.c 1)) / 64)
     tag.ctx.toNat ≠ s.cur.ctx ∧ (s.here.rc - tag.cnt).toNat ≤ 127 ∧ ¬ (1 ≤ (s.me.obs - tag.cnt).toNat ∧ (s.me.obs - tag.cnt).toNat ≤ 127) ∧
      s.here.lineRace 0 0x100 0x108 ≠ none) ∧
    (let s := tile0 { ctxs := [(0, { regs := capRegs, obs := 4 })], lineTags := [(4, ⟨1, 3⟩)], rc := 6 }
     1 ≤ (s.me.obs - 3).toNat ∧ s.here.lineRace 0 0x100 0x108 = none) := by decide

/-- An atomic with ACQ and REL at GRP: nothing outstanding, and a send before it. -/
theorem witness_ordered_atomics :
    (PadAllows pads 1 0 8 7 8 true false ∧ mget false pads.here.padPoison (capAddr (pads.c 1) / 8) = false ∧ pads.quiet (gKey 5) ∧
      pads.acquirable 0 0 2 pads.myPlace = true ∧ pads.released 0 0 2 pads.myPlace = true ∧ pads.here.passOpen = false) ∧
    (let s := tile0 { ctxs := [(0, { regs := capRegs })], opSeq := 1, emitq := [{ seq := 0, ctx := 0 }] }
     s.acquirable 0 0 2 s.myPlace = false ∧ s.released 0 0 2 s.myPlace = false) := by
  and_intros <;> first | decide | (unfold State.quiet; decide) | (constructor <;> decide)

/-- LOOPN: slots within and beyond the spill memory, supervisor slots in U mode, a poisoned source. -/
theorem witness_loops :
    (1018#10).toNat + 5 ≤ 1023 ∧ 1023 < (1019#10).toNat + 5 ∧ pads.me.sMode = false ∧ 1016 ≤ (1011#10).toNat + 5 ∧ (1010#10).toNat + 5 < 1016 ∧
    pads.gp 2 = true ∧ pads.gp 1 = false ∧ (pads.rd (spKey 5)).poison = false ∧ pads.cur.trial = false := by decide

/-! ### Witnesses: traps and the MISC words -/

theorem witness_traps : TrapEntered {} (Ctx.trapEntryAt {} 100 16383 2 8 5#64) 100 16383 2 8 5#64 := by
  have h : Ctx.trapEntryAt {} 100 16383 2 8 5#64 =
      { pc := 100, creg := [(0x010, 4), (0x011, 49151), (0x012, 8), (0x013, 5), (0x015, 1)] } := by decide
  rw [h]
  constructor
  case apend => intro b hb; simp [Ctx.cr, mget, ctxReset]; omega
  case others =>
    intro i hi
    simp only [List.mem_cons, List.not_mem_nil, or_false, not_or] at hi
    simp [Ctx.cr, mget, hi]
  all_goals first | decide | simp

/-- Word 0 to 2 of a group, both modes, contexts 0 and 1, a started context and a dormant one. -/
theorem witness_misc :
    (pads.gv 3 = pads.gv 0 ∧ pads.gp 3 = false ∧ pads.cur.word ≤ 2 ∧ pads.gv 1 ≠ pads.gv 0 ∧ pads.gv 2 = pads.gv 0 ∧ pads.gp 2 = true) ∧
    ((inS pads).me.sMode = true ∧ pads.me.sMode = false ∧ pads.cur.ctx = 0) ∧
    (let s : State := { pads with cur := { ctx := 1 } }
     s.cur.ctx ≠ 0 ∧ s.me.arrivals = [] ∧ s.me.start = .none) ∧
    ((pads.modMe (·.setSt running 0)).me.st = running ∧ (pads.modMe (·.setSt running 0)).me.atEnd = .next ∧
      ({ pads with cur := { last := 2 } } : State).cur.last = 2) ∧
    (let s := (regs0 [(1, gval 10921 false), (2, gval 3 false), (3, gval 10922 false)]).modMe (·.setSt running 0)
     s.quiet (gKey 5) ∧ s.gp 1 = false ∧ s.gp 2 = false ∧ s.me.st ≠ dormant ∧ s.released 0 0 1 s.here.opSeq = true ∧
      (s.gv 2).toNat = 3 ∧ (s.gv 1).toNat = 10921 ∧ 10921 < (s.gv 3).toNat ∧ (s.here.ctx 3).st = dormant ∧
      (s.here.ctx 0).st ≠ dormant) ∧
    (let s := tile0 { opSeq := 1, emitq := [{ seq := 0, ctx := 2 }] }
     s.released 0 0 1 s.here.opSeq = false) := by
  and_intros <;> first | decide | (unfold State.quiet; decide)

/-! ### Witnesses: tile registers and the matrix unit -/

theorem witness_tile_registers :
    (State.reset.mayUse 7 ∧ State.reset.here.tready 7 = true ∧ State.reset.here.tfree 7 = true ∧ State.reset.quiet (vKey 31 31)) ∧
    (let s := tile0 { tregs := [(6, { valid := true, owner := some 3 }), (7, { valid := true, owner := some 0 })] }
     s.mayUse 7 ∧ s.here.tready 7 = true ∧ s.here.tfree 7 = false ∧ s.here.tfree 6 = false ∧ (s.here.treg 6).owner = some 3) ∧
    (let s := tile0 { tq := [{ ctx := 0, store := true, t := 7, addr := 0, rows := 1 }], tregs := [(7, { owner := some 0 })] }
     s.mayUse 7 ∧ s.here.tready 7 = false) := by
  unfold State.quiet State.mayUse; decide

/-- Room, none, and a scope that is not over. -/
theorem witness_tile_transfers :
    (PadAllows pads 1 pads.cur.addrOff (1024 * 32) 9 64 false false ∧ PadAllows pads 1 pads.cur.addrOff 1024 10 64 true false ∧
      pads.mayUse 7 ∧ pads.here.tq.length < 4 ∧ pads.here.trkFull = false ∧ pads.acquirable 0 0 5 0 = true ∧ pads.released 0 0 5 0 = true ∧
      pads.here.passOpen = false) ∧
    (let q : XferOp := { ctx := 0, store := false, t := 0, addr := 0, rows := 1 }
     (tile0 { tq := [q, q, q, q] }).here.tq.length = 4) ∧
    (tile0 { trk := (List.range 28).map (fun n => { n := n, kind := .receive 0, writes := false, lo := 0, hi := 0 }) }).here.trkFull = true ∧
    (let s := tile0 { opSeq := 1, emitq := [{ seq := 0, ctx := 0 }] }
     s.acquirable 0 0 1 1 = false ∧ s.released 0 0 0 1 = false) := by
  and_intros <;> first | decide | (unfold State.mayUse; decide) | (constructor <;> decide)

/-- INT8 and BF16, all the bands and none, the queues empty and full. -/
theorem witness_direct_matrix :
    (∀ o, pads.here.runningNest = some o → o.ctx = pads.cur.ctx) ∧
    PadAllows pads 1 pads.cur.addrOff (32 * 256) 9 16 false false ∧ PadAllows pads 1 pads.cur.addrOff 1152 9 64 false false ∧
    PadAllows pads 1 0 131072 9 64 false false ∧
    (3 ≤ (1#3).toNat ↔ 3 ≤ pads.here.setFmt 0) ∧
    (let s := tile0 { sets := [(1, { fmt := 7 })] }
     (3 ≤ (7#3).toNat ↔ 3 ≤ s.here.setFmt 1)) ∧ pads.me.matShape ≠ 0 ∧ (ctx0 { matShape := 0 }).me.matShape = 0 ∧
    (∀ i ∈ (List.range 8).map ((0 : Nat) + ·), pads.mayUse i) ∧ pads.here.aq.length < 8 ∧ pads.here.lq.length < 2 ∧
    pads.here.trkFull = false ∧ (tile0 { aq := List.replicate 8 { kind := 0, ctx := 0, td := 0 } }).here.aq.length = 8 ∧
    (let l : LdOp := { ctx := 0, addr := 0, fmt := 1, set := 0, fzi := false }
     (tile0 { lq := [l, l] }).here.lq.length = 2) := by
  and_intros <;> first | decide | (unfold State.mayUse; decide) | (constructor <;> decide)

/-- A nest of one INT8 operation through c1; a running nest of another context; the slots' states; the direct words done and not. -/
theorem witness_nests :
    (let w1 : W64 := w64 (1 * 2 ^ 9 + 0xF * 2 ^ 22 + 1 * 2 ^ 29)
     let s := tile0 { ctxs := [(0, { regs := capRegs })], creg := [(0x411, w1)] }
     s.here.nestBad 0 false = false ∧ fld (s.here.nw 0 1) 29 4 = 1 ∧ s.here.nestAligned 0 (capAddr (s.c 1)) = true ∧ s.here.aq.length < 8 ∧
      s.here.trkFull = false ∧ PadAllows s 1 (s.here.nestRange 0).1 ((s.here.nestRange 0).2 - (s.here.nestRange 0).1).toNat 9 1 false false) ∧
    (∃ o, (tile0 { aq := [{ kind := 3, ctx := 2, td := 0, begun := true }], creg := [(0x411, w64 (2 * 2 ^ 33 + 2 * 2 ^ 35))] }).here.runningNest = some o ∧
      o.ctx ≠ 0) ∧
    (tile0 { paused := some 3 }).here.paused = some 3 ∧ State.reset.me.run.pend = 0 ∧ State.reset.me.matPend = [] ∧
    (ctx0 { matPend := [{ cause := 0x0B#8, info := 8 }] }).me.matPend ≠ [] ∧ (ctx0 { mwaits := true }).me.mwaits = true ∧ State.reset.me.mwaits = false ∧
    (tile0 { lq := [{ ctx := 0, addr := 0, fmt := 1, set := 0, fzi := false }] }).here.lq ≠ [] ∧
    State.reset.here.nestState 3 = 0 ∧ (tile0 { creg := [(0x411, w64 (2 ^ 33))] }).here.nestState 0 = 1 ∧
    (let T : Tile := { creg := [(0x429, w64 (3 * 2 ^ 33))] }
     T.nestState 3 = 3 ∧ T.nestOwner 3 = 0 ∧ (T.nest 3).run.pend = 0 ∧ (T.nest 3).pend = []) ∧
    (tile0 { creg := [(0x429, w64 (3 * 2 ^ 33 + 3 * 2 ^ 35))] }).here.nestOwner 3 = 3 := by
  and_intros <;> first | decide | (constructor <;> decide)

/-! ### Witnesses: channels, the engine, synchronisation -/

/-- A sending channel of 64 lines with a full window and with none, with and without pkwin; a receiving one with a payload, with none,
with one that is lost; an armed one. -/
theorem witness_channels :
    (let cfg : W64 := w64 (1 + 6 * 2 ^ 38 + 2 ^ 42)
     let s := tile0 { ctxs := [(0, { regs := [(1, gval 4096 false), (2, gval 4097 false), (cKey 1, padCap 0)] })],
                      creg := [(0x205, cfg), (0x245, w64 (64 * 2 ^ 32 + 16 * 2 ^ 48))] }
     ¬ (fld (s.here.cfg 5) 0 2 ≠ 1 ∨ (s.gv 1).toNat < 1 ∨ 4096 < (s.gv 1).toNat ∨ 2 ^ fld (s.here.cfg 5) 38 4 < ((s.gv 1).toNat + 63) / 64) ∧
      4096 < (s.gv 2).toNat ∧ PadAllows s 1 0 4096 9 1 false false ∧ s.gp 1 = false ∧ s.here.trkFull = false ∧ 64 ≤ fld (s.here.cst 5) 32 16 ∧
      1 ≤ fld (s.here.cst 5) 48 5 ∧ s.here.passOpen = false ∧ fld (s.here.cst 6) 32 16 < 1 ∧ (∀ e ∈ s.here.trk, e.kind ≠ .sendWait 0)) ∧
    (let cfg : W64 := w64 (2 + 6 * 2 ^ 38)
     let p : Payload := ⟨0, 0x40, 64, 1, { own := none, deps := [], vint := 0 }, none, 1⟩
     let s := tile0 { creg := [(0x205, cfg), (0x206, cfg), (0x207, cfg)], chans := [(5, { ready := [p] }), (6, { ready := [{ p with lost := some ⟨1, 2⟩ }] })] }
     (fld (s.here.cfg 5) 0 2 = 2 ∧ (s.here.arm 5).getLsbD 16 = false ∧ s.here.queued 5 = 0 ∧ (s.here.chan 5).ready = [p] ∧ p.lost = none ∧
      s.quiet (gKey 63) ∧ (s.here.chan 7).ready = [] ∧ fld (s.here.cfg 7) 0 2 = 2) ∧
      (∃ q l, (s.here.chan 6).ready = q :: l ∧ q.lost = some ⟨1, 2⟩) ∧ fld (s.here.cfg 8) 0 2 ≠ 1 ∧ fld (s.here.cfg 8) 0 2 ≠ 2) ∧
    (let s := tile0 { creg := [(0x205, w64 1)], emitq := [{ seq := 0, ctx := 0, ch := 5 }] }
     fld (s.here.cfg 5) 0 2 = 1 ∧ ¬ ∀ e ∈ s.here.emitq, e.ctx = 0 → e.ch = 5 → e.place = false → e.data ≠ none) ∧
    (let s := tile0 { trk := [{ n := 0, kind := .sendWait 0, writes := false, lo := 0, hi := 64 }] }
     ¬ ∀ e ∈ s.here.trk, e.kind ≠ .sendWait 0) ∧
    (let p : Payload := ⟨0, 0x40, 64, 1, { own := none, deps := [], vint := 0 }, none, 1⟩
     let s := tile0 { ctxs := [(0, { regs := [(1, gval (w64 (10921 + 3 * 2 ^ 14 + 2 ^ 16)) false)] })],
                      creg := [(0x205, w64 (2 + 6 * 2 ^ 38 + 2 ^ 42))], chans := [(5, { ready := [p] })] }
     s.gp 1 = false ∧ fld (s.here.cfg 5) 0 2 = 2 ∧ (s.here.cfg 5).getLsbD 42 = true ∧ (s.gv 1).getLsbD 16 = true ∧ fld (s.gv 1) 14 2 ≠ 0 ∧
      fld (s.gv 1) 0 14 ≤ 10921 ∧ (s.here.chan 5).deferred = none ∧ (s.gv 1).toNat < 2 ^ 17 ∧ (s.here.ctx 3).st = dormant ∧
      (s.here.chan 5).ready = [p]) := by
  and_intros <;> first | decide | (unfold State.quiet; decide) | (constructor <;> decide) | exact ⟨_, _, rfl, rfl⟩

/-- The descriptor of slot 1 for one 64-byte element between the pad (c1) and external memory (c3). -/
def engineState : State :=
  tile0 { ctxs := [(0, { regs := [(cKey 1, padCap 0x100), (cKey 3, rootCap 2 0x7F 0 (2 ^ 30))],
                         creg := [(0x499, w64 (63 + 1 * 2 ^ 12))] })] }

theorem witness_engine_words :
    EngineAllows engineState (engineState.newCmd 0 7 3 1 64 true true 5) 3 1 ∧ EngineAllows engineState (engineState.newCmd 1 0 3 1 0 true true 0) 3 1 ∧
    engineState.here.passOpen = false ∧ 8 ≤ (8#4).toNat ∧
    (let m : Cmd := { ctx := 0, token := 7, op := 0, cnt := [0], elem := 64, xlen := 64, pad := 0, ext := 0, pstride := [0], xstride := [0] }
     let s := tile0 { cmds := [{ m with next := 1 }] }
     let r := tile0 { cmds := [{ m with next := 1, bad := some (0, 0, 2) }] }
     s.here.cmd 0 7 = some { m with next := 1 } ∧ ({ m with next := 1 } : Cmd).complete = true ∧ ({ m with next := 1 } : Cmd).handled s.here = false ∧
      m.complete = false ∧ r.here.cmd 0 7 = some { m with next := 1, bad := some (0, 0, 2) } ∧ s.here.cmd 0 6 = none ∧ s.quiet (gKey 63) ∧
      s.flushed 0 (fun x _ => x == 0) = true ∧
      (tile0 { hostLinks := [⟨3, 0, 1⟩] }).flushed 0 (fun x _ => x == 0) = false ∧
      (tile0 { hostLinks := [⟨3, 1, 1⟩] }).flushed 0 (fun x _ => x == 0) = true) := by
  and_intros <;> first | decide | (unfold State.quiet; decide) | (constructor <;> decide)

/-- Tile 0 is the one member of group 1 of plot 0, whose phase is 5. -/
def groupState (arrived : List Nat) (c : Ctx) : State :=
  { tile0 { ctxs := [(0, c)], plot := some 0, groups := [1] } with plots := [(0, { state := 2, created := true, w := 1, h := 1, groups := [(1, { members := [0], phase := 5, arrived := arrived })] })] }

/-- A phase equal to the token, one past it by 1, 32,767 and 32,768; an invalid slot. -/
theorem witness_barriers :
    (let s := groupState [] { regs := [(1, gval 5 false), (2, gval 4 false), (3, gval (w64 32774) false), (4, gval (w64 32773) false)] }
     s.groupOf 0 0 = some (1, { members := [0], phase := 5 }) ∧ s.mayArrive = true ∧ s.groupOf 0 1 = none ∧ s.quiet (gKey 1) ∧ s.quiet (pKey 1) ∧
      s.gp 1 = false ∧ s.here.passOpen = false ∧ (5 + 2 ^ 16 - (s.gv 1).toNat % 2 ^ 16) % 2 ^ 16 = 0 ∧
      (5 + 2 ^ 16 - (s.gv 2).toNat % 2 ^ 16) % 2 ^ 16 = 1 ∧ (5 + 2 ^ 16 - (s.gv 3).toNat % 2 ^ 16) % 2 ^ 16 = 32767 ∧
      (5 + 2 ^ 16 - (s.gv 4).toNat % 2 ^ 16) % 2 ^ 16 = 32768 ∧ s.me.bwait = none) ∧
    (0 ∈ ({ members := [0], phase := 5, arrived := [0] } : Group).arrived ∧
      (groupState [0] {}).groupOf 0 0 = some (1, { members := [0], phase := 5, arrived := [0] })) ∧
    ((groupState [] { bwait := some (0, 4) }).me.bwait = some (0, BitVec.ofNat 16 4)) := by
  and_intros <;> first | decide | (unfold State.quiet; decide)

/-- A descriptor of one iteration in the pad; a hand-over, an exhaustion, a walker that goes on. -/
theorem witness_walkers :
    (let s : State := groupState [] { regs := [(cKey 1, padCap 0)] }
     let s := s.modTile 0 (fun T => { T with pad := writeBytes (writeBytes [] 8 8 (0o543210 * 2 ^ 32)) 16 8 10921 })
     PadAllows s 1 0 32 9 32 false true ∧ (∀ j, j < 4 → mget false s.here.padPoison (0 / 8 + j) = false) ∧
      (∀ j, j < 6 → j ∈ (List.range 6).map (fun j => readBytes s.here.pad 8 8 / 2 ^ (32 + 3 * j) % 2 ^ 3)) ∧
      readBytes s.here.pad 16 8 = 10921 ∧ readBytes s.here.pad 24 8 = 0 ∧ s.groupOf 0 0 = some (1, { members := [0], phase := 5 }) ∧
      (mget {} (s.plot s.myPlot).walkers 2 : Walker).state ≠ 1 ∧ s.released 0 0 3 s.here.opSeq = true) ∧
    (let s := ctx0 { handed := some (10921, [1, 2, 3, 4, 5, 6]) }
     s.me.handed = some (10921, [1, 2, 3, 4, 5, 6]) ∧ s.quiet (pKey 1) ∧ s.quiet (gKey 63)) ∧
    ((ctx0 { exhausted := true }).me.handed = none ∧ (ctx0 { exhausted := true }).me.exhausted = true) ∧
    (State.reset.me.handed = none ∧ State.reset.me.exhausted = false ∧ (mget {} (State.reset.plot State.reset.myPlot).walkers 0 : Walker).state ≠ 2) := by
  and_intros <;> first | decide | (unfold State.quiet; decide) | (constructor <;> decide)

/-- An ingress entry; passes off, on and on with something outstanding; a class held, one below it, one above it, a grant. -/
theorem witness_host_window_swap_power :
    (let s := tile0 { ingress := [⟨65535, [(63, 7)], false⟩] }
     s.quiet (gKey 1) ∧ (∀ e ∈ s.rivals, e.hi ≤ s.here.hwinRange.1 ∨ s.here.hwinRange.2 ≤ e.lo) ∧ s.here.trkFull = false ∧
      s.here.ingress = [] ++ [⟨65535, [(63, 7)], false⟩] ∧ (([(63, 7)] : List (Nat × Byte)).map (·.1)).Nodup) ∧
    (let s := tile0 { ingress := [⟨1, [], false⟩], trk := [{ n := 0, kind := .send 0 5, writes := false, lo := 64, hi := 128 }] }
     ∃ e ∈ s.rivals, s.here.hwinRange.1 < e.hi ∧ e.lo < s.here.hwinRange.2 ∧ s.here.ingress ≠ []) ∧
    (let s := tile0 { ingress := [⟨1, [], false⟩], trk := (List.range 28).map (fun n => { n := n, kind := .receive 0, writes := false, lo := 0, hi := 0 }) }
     (∀ e ∈ s.rivals, e.hi ≤ s.here.hwinRange.1 ∨ s.here.hwinRange.2 ≤ e.lo) ∧ s.here.trkFull = true) ∧
    (State.reset.cur.ctx = 0 ∧ (State.reset.here.cr 0x580).getLsbD 0 = false) ∧
    (let s := tile0 { creg := [(0x580, 1)] }
     (s.here.cr 0x580).getLsbD 0 = true ∧ s.here.quiet0 = true) ∧
    (let s := tile0 { creg := [(0x580, 1)], cmds := [{ ctx := 0, token := 0, op := 0, cnt := [0], elem := 1, xlen := 1, pad := 0, ext := 0, pstride := [], xstride := [] }] }
     s.here.quiet0 = false) ∧
    (State.reset.me.granted = false ∧ State.reset.here.pwrOut = none ∧ State.reset.here.pwrq = [] ∧ 1 ≤ fld (State.reset.here.cr 0x501) 0 4 ∧
      fld (State.reset.here.cr 0x501) 0 4 < 15) ∧ (ctx0 { granted := true }).me.granted = true := by
  and_intros <;> first | decide | (unfold State.quiet; decide)

/-- An open pass whose outbox holds one line: room, none; a protected write of PASS_CFG; poison before and after a rollback. -/
theorem witness_passes :
    (let s := tile0 { creg := [(0x205, w64 (1 + 6 * 2 ^ 38)), (0x245, w64 (64 * 2 ^ 32)), (0x580, w64 (1 + 1 * 2 ^ 17)), (0x582, 1)] }
     s.cur.ctx = 0 ∧ (s.here.cr 0x582).getLsbD 0 = true ∧ (s.here.cr 0x582).getLsbD 1 = false ∧ fld (s.here.cfg 5) 0 2 = 1 ∧
      1 ≤ fld (s.here.cst 5) 32 16 ∧ (s.here.cfg 5).getLsbD 42 = false ∧ fld (s.here.cr 0x582) 7 13 + 1 ≤ fld (s.here.cr 0x580) 17 13 ∧
      (1#64).getLsbD 0 = true ∧ (s.here.cr 0x580).getLsbD 0 = true ∧ s.here.passOpen = true ∧ (s.here.cr 0x582).getLsbD 23 = false) ∧
    (let s := tile0 { creg := [(0x580, w64 (1 + 1 * 2 ^ 17)), (0x582, w64 (1 + 1 * 2 ^ 7 + 2 ^ 23))] }
     fld (s.here.cr 0x580) 17 13 < fld (s.here.cr 0x582) 7 13 + 1 ∧ s.here.passOpen = true ∧ (s.here.cr 0x582).getLsbD 23 = true) ∧
    (PadAllows pads 1 0 8 2 8 true false ∧ pads.released 0 0 5 pads.here.opSeq = true) := by
  and_intros <;> first | decide | (constructor <;> decide)

/-! ### Witnesses: events -/

/-- The highest tile of the wafer; a running context, a pending cause, a timer at 1, the end of a loop body, fetches past the end and into
the supervisor region, an unassigned word, a rollback. -/
theorem witness_core_events :
    (15359#14).toNat < 15360 ∧ (ctx0 { creg := [(0x010, 1)] }).me.st = ready ∧
    (let c : Ctx := { creg := [(0x010, 1), (0x015, 0x28)] }
     c.midPacket = false ∧ c.sMode = false ∧ (c.cr 0x015).getLsbD 3 = true ∧ (c.cr 0x015).getLsbD 5 = true ∧ ∀ b, 3 ≤ b → b < 3 → (c.cr 0x015).getLsbD b = false) ∧
    (let c : Ctx := { creg := [(0x010, 1), (0x016, 1)] }
     fld (c.cr 0x016) 0 32 = 1 ∧ c.st ≠ dormant ∧ c.st ≠ halted) ∧
    (let c : Ctx := { pc := 7, creg := [(0x102, w64 (5 + 2 * 2 ^ 14 + 2 ^ 20))] }
     (c.cr 0x102).getLsbD 20 = true ∧ (c.cr 0x102).getLsbD 21 = c.sMode ∧ c.pc = fld (c.cr 0x102) 0 14 + fld (c.cr 0x102) 14 6) ∧
    10921 < ({ pc := 10922 } : Ctx).pc ∧
    (let s := tile0 { ctxs := [(0, { pc := 10880, creg := [(0x010, 1)] })], creg := [(0x003, w64 10880)], imem := [] }
     (s.ctx 0 0).pc ≤ 10921 ∧ (s.ctx 0 0).sMode = false ∧ fld ((s.tile 0).cr 0x003) 0 14 ≤ (s.ctx 0 0).pc) ∧
    (let s := tile0 { ctxs := [(0, { pc := 0, creg := [(0x010, 1)] })], creg := [(0x003, w64 10880)], imem := writeBytes [] 8 4 0x60000000 }
     (s.ctx 0 0).pc < fld ((s.tile 0).cr 0x003) 0 14 ∧ decodeAt ((s.tile 0).imemWord 0 2) 2 = none ∧
      ∀ i, i < 2 → decodeAt ((s.tile 0).imemWord 0 i) i ≠ none) ∧
    ((1#64).getLsbD 0 = true ∧ (State.reset.here.cr 0x580).getLsbD 0 = false ∧ State.reset.here.passOpen = false ∧ State.reset.here.emitq = []) ∧
    fld 4#64 2 2 ≠ 3 ∧
    (let T : Tile := { pass := { roll := 1 } }
     T.pass.roll = 1 ∧ T.quiet0 = true ∧ T.pass.log = [] ∧ (∀ e ∈ T.pass.rpOpen, e.1 < 64) ∧ (∀ e ∈ T.pass.taken, e.1 < 64) ∧ (T.pass.snap.map (·.1)).Nodup) ∧
    (let T : Tile := { creg := [(0x502, w64 (2 ^ 14))] }
     T.powerDue 0 = true ∧ T.powerDue 1 = false) := by
  decide

/-- A queued INT8 operation with its band asleep and awake, one in progress, one at its end; a load; a transfer each way. -/
theorem witness_matrix_events :
    (let o : MatOp := { kind := 0, ctx := 0, td := 7, fmt := 1, rows := 32, segs := 8, bands := 8 }
     let T : Tile := { aq := [o] }
     T.frozen = false ∧ T.runningOp = none ∧ T.nextOp = some o ∧ T.mayStart o = true ∧ T.bandsAwake 8 = false ∧
      ({ T with creg := [(0x502, w64 (2 ^ 18))] } : Tile).bandsAwake 8 = true) ∧
    (let o : MatOp := { kind := 0, ctx := 0, td := 7, fmt := 1, rows := 32, segs := 8, bands := 8, begun := true, row := 31 }
     ({ aq := [o] } : Tile).runningOp = some o ∧ o.row < o.rows ∧ ({ creg := [(0x502, w64 (2 ^ 18))] } : Tile).bandsAwake o.bands = true ∧ ({ aq := [{ o with row := 32 }] } : Tile).runningOp = some { o with row := 32 }) ∧
    (let l : LdOp := { ctx := 0, addr := 0, fmt := 1, set := 1, fzi := false }
     ({ lq := [l] } : Tile).loadReady l = true) ∧
    (let o : XferOp := { ctx := 0, store := true, t := 7, addr := 0, rows := 32 }
     ({ tq := [o] } : Tile).blockedRegs o.seq o.reads o.writes = false ∧ ({ tq := [{ o with store := false }] } : Tile).blockedRegs 0 [] [7] = false) := by
  decide

/-- No firmware at all, one that the signature check accepts (the check is opaque), the second failed converter and the sixth. -/
theorem witness_module_events :
    (State.reset.module.step = 0 ∧ State.reset.host.accepts State.reset.host.bank0 = false ∧ State.reset.host.accepts State.reset.host.bank1 = false) ∧
    (let conv := fun (k : Nat) => if k ≤ 1 then 3600 else 3600 - 240 * (k - 1)
     2640 < conv 4 ∧ conv 5 ≤ 2640 ∧ conv 15 ≤ 2640) ∧
    State.reset.module.flowLow = false ∧ ({ flowLow := true } : Module).flowLow = true ∧ (2#2) ≠ 3#2 ∧
    (let l : List WlSample := List.replicate 9 ⟨2, 0, 0, 20, 0, 0, false⟩
     l.length = 9 ∧ ∀ w, w < 9 → State.reset.wlDue 95 w (l.getD w ⟨0, 0, 0, 0, 0, 0, false⟩) = false) ∧
    (State.reset.field 63).railFault.getLsbD 2 = false ∧ ({ railFault := 4 } : Field).railFault.getLsbD 2 = true ∧ (95#7).toNat < 96 ∧ (8#4).toNat < 9 := by
  decide

/-- The firmware check of R160 is opaque: an image that it accepts boots. -/
theorem witness_bootable : ∀ image : List Byte, image ≠ [] → firmwareSigned image = true →
    ({ bank0 := image } : HostSide).bootable = some 0 := by
  intro image h hs
  simp [HostSide.bootable, HostSide.accepts, HostSide.bank, hs, h]

/-- A request that fits and is in the window, one that is not in it, one that does not fit; a grant on its way; an overrun; bands. -/
theorem witness_power_events :
    (let F : Field := { pwrQ := [(0, ⟨0, 15⟩)] }
     let s : State := { State.reset with fields := [(0, F)] }
     F.pwrQ = (0, ⟨0, 15⟩) :: [] ∧ (15 - (s.tile 0).grant) ≤ s.pool 0 ∧ 0 + (15 - (s.tile 0).grant) ≤ 100 ∧
      ¬ ({ F with ramp := 87 } : Field).ramp + (15 - (s.tile 0).grant) ≤ 100 ∧ ¬ (s.pool 0 + 1 + (15 - (s.tile 0).grant) ≤ s.pool 0) ∧
      (1 : Nat) ≠ 4) ∧
    (let s : State := { State.reset with fields := [(0, { pwrSent := [(0, ⟨3, 15⟩)] })] }
     (s.field (s.tileField 0)).pwrSent = (0, ⟨3, 15⟩) :: [] ∧ s.grafting 0 = false) ∧
    ({ State.reset with fields := [(0, { graft := some ⟨0, 2, 1⟩ })] } : State).grafting 0 = true ∧
    ((State.reset.tile 0).grant < (15#4).toNat ∧ (State.reset.tile 0).powerCtx = some 0 ∧ (0#4).toNat ≤ (State.reset.tile 0).grant) ∧
    (let T : Tile := { creg := [(0x502, w64 (2 ^ 18))], bandRan := 8 }
     (T.cr 0x502).getLsbD (15 + 3) = true ∧ T.cr 0x402 ≠ 0#64 ∧ T.bandRan.getLsbD 3 = true ∧ (∀ o ∈ T.aq, o.begun = false) ∧
      (T.cr 0x502).getLsbD 23 = false) ∧
    (({ creg := [(0x502, w64 (2 ^ 23))] } : Tile).cr 0x502).getLsbD 23 = true ∧
    (let T : Tile := { creg := [(0x502, w64 (2 ^ 22))] }
     (T.cr 0x502).getLsbD (19 + 3) = true ∧ ∀ e ∈ State.reset.fields, (0, 3) ∉ e.2.wakeQ) ∧
    (32 ≤ ({ wakesIn := 32 } : Field).wakesIn ∧ ¬ 32 ≤ ({ wakesIn := 31 } : Field).wakesIn) := by decide

/-- Tile 0 stands at site 0; site 1, of the same field, is a usable spare. -/
def spareState (T : Tile) (F : Field) : State :=
  { tile0 T with map := [(0, { site := some 0 })], sites := [(0, { usable := true }), (1, { usable := true })], fields := [(0, F)] }

set_option maxRecDepth 100000 in
/-- Tiles 0 and 1 at sites 0 and 1; site 2 passes the tests of R77 as a spare for tile 0. -/
theorem witness_graft_choice :
    (let s : State := { State.reset with map := [(0, { site := some 0 }), (1, { site := some 1 })],
                                         sites := [(0, { usable := true }), (1, { usable := true }), (2, { usable := true })] }
     s.spareOrder 0 ≠ [] ∧ s.chooseSpare 0 = some 2 ∧ s.anchorsOk 0 2 = true) ∧
    ({ State.reset with choices := [(970, 1)] } : State).strikes 970 = true := by decide

set_option maxRecDepth 100000 in
/-- Tiles 1 and 2 are displaced to sites 64 and 72 rows below; without the site of tile 0 the path from one to the other takes 304
cycles. -/
theorem witness_graft_anchors :
    (let s : State := { State.reset with
       map := [(0, { site := some 0 }), (1, { site := some (siteAt 0 64), moved := true }), (2, { site := some (siteAt 0 72), moved := true }),
               (5, { site := some (siteAt 0 1) })],
       sites := (List.range 73).map (fun y => (siteAt 0 y, { usable := true })) }
     s.chooseSpare 0 = some (siteAt 0 2) ∧ s.anchorsOk 0 (siteAt 0 2) = false) := by decide

theorem witness_grafts :
    (let s := spareState { greq := true } {}
     (s.tile 0).greq = true ∧ (s.field (s.tileField 0)).graftQ = [] ∧ (s.field (s.tileField 0)).graft = none ∧
      s.spareOrder (s.tileField 0) = [1] ∧ s.chooseSpare 0 = none) ∧
    (let s := spareState { greq := true } { graftQ := [0] }
     (s.tile 0).greq = true ∧ 0 ∈ (s.field (s.tileField 0)).graftQ) ∧
    (State.reset.tile 0).greq = false ∧ State.reset.chooseSpare 0 = none ∧ (State.reset.tile 0).imemBad = [] ∧
    (let s := spareState { greq := true } { graft := some ⟨1, 1, 1⟩ }
     (s.field (s.tileField 0)).graft = some ⟨1, 1, 1⟩ ∧ (1 : Nat) ≠ 0) ∧
    (let s := spareState {} { graftQ := [0] }
     (s.field 0).graft = none ∧ (s.field 0).graftQ = 0 :: [] ∧ s.tileField 0 = 0) ∧
    (let s := spareState {} { graft := some ⟨0, 1, 1⟩ }
     (s.tile 0).atBoundary = true ∧ (s.tile 0).quiet = true ∧ (s.tile 0).goes = [] ∧ s.net = [] ∧ s.strikes 970 = false ∧
      (s.tile 0).heldG = none ∧ (s.tile 0).heldBlocks = [] ∧ (∀ x, x < 4 → (s.ctx 0 x).arrivals = []) ∧ (s.mapEntry 0).site.isSome = true) ∧
    (let T : Tile := { ctxs := [(0, { creg := [(0x010, 1)] })], plot := some 1 }
     T.plot = some 1 ∧ T.fetches 0 0 = true ∧ (0 : Nat) ∉ T.imemBad ∧ (0 : Nat) ∉ T.imemFixed) := by decide

/-- A packet in flight to tile 1 of its row. -/
def pkt (dst src : Agent) (body : Body) : Packet :=
  { dst := dst, src := src, dx := 1, dy := 0, sx := 0, sy := 0, cls := 2, stamp := none, body := body, px := 0, py := 0 }

theorem witness_map_events :
    (let s : State := { State.reset with remapDue := true, resyncDue := true, sites := [(0, { usable := true }), (16383, {})] }
     s.remapDue = true ∧ s.resyncDue = true ∧ (∀ e ∈ s.plots, e.2.granting = false ∧ e.2.state ≠ 2) ∧ (s.sites.map (·.1)).Nodup ∧
      (∀ e ∈ s.fields, e.2.graft = none) ∧ s.fabricDrained = true ∧ ({ s with net := [pkt (.tile 1) (.tile 0) (.other 4)] } : State).fabricDrained = false) ∧
    (State.reset.remapDue = false ∧ State.reset.resyncDue = false ∧ (State.reset.field 63).removed = false ∧
      (State.reset.reg0 (offFld 63)).getLsbD 51 = false) ∧
    ({ removed := true } : Field).removed = true ∧
    (({ State.reset with bar0 := [(offFld 63, w64 (2 ^ 51))] } : State).reg0 (offFld 63)).getLsbD 51 = true := by decide

/-- Plot 1 on tile 0, in the given state. -/
def plotState (st : Nat) (T : Tile) (P : Plot) : State :=
  { tile0 T with plots := [(1, { P with state := st, created := true, w := 1, h := 1 })], map := [(0, { site := some 0 })] }

theorem witness_plots :
    (let s := plotState 2 { plot := some 1, released := true, ctxs := [(0, { creg := [(0x010, 1)] })] } {}
     (s.plot 1).state = 2 ∧ (s.plot 1).dying = false ∧ (s.plot 1).stopping = false ∧ s.mustStop 1 = false ∧
      (s.modPlot 1 (fun P => { P with stopping := true })).mustStop 1 = true ∧ (s.tile 0).goes = [] ∧
      (s.plot 1).tiles = [0] ∧ s.grafting 0 = false ∧ (s.tile 0).stopped = false ∧
      (s.tile 0).atBoundary = true ∧ (s.tile 0).pass.roll = 0 ∧ (s.ctx 0 0).sMode = false ∧ (s.ctx 0 0).st = ready ∧ (s.ctx 0 1).st = dormant ∧
      (s.modPlot 1 (fun P => { P with served := true })).rival 1 = false) ∧
    (let s := plotState 3 {} {}
     (s.endRound.plot 1).state = 3 ∧ (s.endRound.plot 1).granting = false ∧ s.module.held = false ∧ (s.endRound.plot 1).served = false ∧
      s.endRound.earlier 1 = false ∧ s.endRound.standAside (s.endRound.plot 1) = some [] ∧ s.endRound.lostImage (s.endRound.plot 1) = false) ∧
    (let s := plotState 3 {} { saved := [(0, { rest := {} })] }
     s.endRound.standAside (s.endRound.plot 1) = some [] ∧ s.endRound.lostImage (s.endRound.plot 1) = true) ∧
    (let s := plotState 6 { plot := some 1, stopped := true } {}
     (s.plot 1).state = 6 ∧ s.finished (s.plot 1).tiles = true) ∧
    (let G : Group := { members := [0], arrived := [0] }
     G.members ≠ [] ∧ (∀ t ∈ G.members, t ∈ G.arrived)) ∧
    (let s := plotState 2 { plot := some 1, released := true, ctxs := [(0, { creg := [(0x010, w64 (3 + 4 * 8))] })] }
      { groups := [(1, { members := [0] })], walkers := [(2, { state := 1, group := 1, waiting := [0] })] }
     let W : Walker := mget {} (s.plot 1).walkers 2
     s.nextEligible 1 2 = some 0 ∧ W.take.isSome = true ∧ s.mayTake 1 0 W = true ∧ W.ctx = 0) ∧
    (let s := plotState 2 { plot := some 1, released := true }
      { groups := [(1, { members := [0] })], walkers := [(2, { state := 1, group := 1, ctx := 3, idle := [0] })], stopping := true }
     let s : State := { s with choices := [(955, 1)] }
     let W : Walker := mget {} (s.plot 1).walkers 2
     s.nextEligible 1 2 = some 0 ∧ s.mayTake 1 0 W = false) ∧
    (let s := plotState 2 { plot := some 1, released := true }
      { groups := [(1, { members := [0] })], walkers := [(2, { state := 1, group := 1, ctx := 3, idle := [0] })] }
     let W : Walker := mget {} (s.plot 1).walkers 2
     s.nextEligible 1 2 = some 0 ∧ s.mayTake 1 0 W = true ∧ W.ctx ≠ 0) := by decide

/-- Link 3 owns the wafer and mailbox 3 holds a begun command with the given code. -/
def mailState (code : Nat) (s : State) : State :=
  { s with bar0 := (offMbx 3, 2#64) :: s.bar0, host := { s.host with owner := some 3, goQ := [3], mbx := writeBytes [] (offMbxBuf 3) 2 code } }

theorem witness_mailbox_ownership :
    (mailState 0x2D State.reset).runs 3 0x2D = true ∧ State.reset.runs 3 0x02 = false ∧ (mailState 0x02 State.reset).host.owner = some 3 ∧
    (let s := mailState 0x01 State.reset
     let s : State := { s with host := { s.host with owner := none } }
     s.runs 3 0x01 = true ∧ s.host.owner = none) ∧
    (let s := mailState 0x02 State.reset
     let s : State := { s with host := { s.host with owner := some 0 } }
     s.runs 3 0x02 = true ∧ s.host.owner ≠ some 3) ∧
    (mailState 0x14 State.reset).plot 7 = {} ∧ ((plotState 5 {} {}).plot 1).state = 5 ∧ (119#7).toNat < 120 ∧ 120 ≤ (120#7).toNat ∧
    agentCode 4 63 = some 1087 ∧ agentCode 4 64 = none ∧ (0xFFFF#16).toNat ∉ mailCodes ∧ (mailState 0xFFFF State.reset).runs 3 0xFFFF = true := by
  decide

/-- Each state of a plot that a command distinguishes, a good and a bad set, the last and the first refused index of each table. -/
theorem witness_mailbox_commands :
    (let s := mailState 0x10 (spareState {} {})
     s.fitsAt 1 1 false false 0 0 = true ∧ s.chooseBase 1 1 false false 0 0 = some (0, 0) ∧ s.freeNumber s.host.plotsMade 65535 = some 1 ∧
      s.host.handles.length < 2 ^ 63 ∧ ∀ e ∈ s.plots, e.2.made ≤ s.host.plotsMade) ∧
    ((plotState 0 {} {}).plot 1).created = true ∧ ((plotState 0 {} {}).plot 1).state ≠ 7 ∧ ((plotState 1 {} {}).plot 1).granting = false ∧
    (plotState 1 {} {}).poolsOk ((plotState 1 {} {}).plot 1) = true ∧
    (plotState 1 {} {}).standAside ((plotState 1 {} {}).plot 1) = some [] ∧
    (plotState 1 { plot := some 2 } {}).standAside ((plotState 1 { plot := some 2 } {}).plot 1) = none ∧
    (let img : ImageSet := { w := 1, h := 1, slice := 0, seed := 0, tiles := [], groups := [], ext0 := none, ext1 := none, host := none, peer := none, svh := none }
     imageOk ((plotState 0 {} {}).plot 1) img false = true ∧ imageOk ((plotState 0 {} {}).plot 1) { img with w := 2 } false = false) ∧
    (let ms := (List.range 48).filter (fun k => ((2 ^ 47 + 1 : Nat) : BitVec 48).getLsbD k)
     ms = [0, 47] ∧ (({ State.reset with cellars := [(0, { disabled := false }), (47, { disabled := false })] } : State).stack 47).disabled = false ∧
      (2 ^ 19 : Nat) % 2 ^ 19 = 0 ∧ (2 ^ 19 : Nat) < 48 * 2 ^ 30) ∧
    (State.reset.reg0 (offSet 11)).getLsbD 60 = false ∧
    (let s : State := { State.reset with bar0 := [(offSet 11, w64 (2 ^ 60 + 2 ^ 47 + 1))] }
     (s.reg0 (offSet 11)).getLsbD 60 = true ∧ s.leaves (48 + 11) = []) ∧
    fld (w64 (16 + 4 * 2 ^ 44)) 0 44 % 2 ^ fld (w64 (16 + 4 * 2 ^ 44)) 44 4 = 0 ∧ State.reset.stackDead 47 = true ∧
    (({ State.reset with cellars := [(47, { disabled := false })] } : State).stackDead 47 = false) ∧
    (({ State.reset with bar0 := [(offLink 3, 4#64)] } : State).linkUp 3 = true) ∧
    (let c : PhysCopy := ⟨true, 0, 47, 0, 64⟩
     (({ State.reset with host := { copies := [(3, c)] } } : State).copy 3 = some c)) ∧
    (State.reset.reg0 (offFld 63)).getLsbD 51 = false ∧ ({ version := 0 } : HostSide).accepts [] = false := by
  decide

theorem witness_port_commands :
    (mailState 0x21 State.reset).runs 3 0x21 = true ∧ 96 ≤ (96#7).toNat ∧ (State.reset.port 95).disabled = false ∧
    (({ State.reset with ports := [(95, { disabled := true })] } : State).port 95).disabled = true ∧
    ([95#7, 0#7].map BitVec.toNat).Nodup ∧ (∀ q ∈ [95#7, 0#7].map BitVec.toNat, q < 96) ∧ (State.reset.port 95).down = false ∧
    (State.reset.port 95).reconf ≠ 2 ∧ (({ State.reset with ports := [(95, { reconf := 2 })] } : State).port 95).reconf = 2 ∧
    (∀ q, q < 96 → State.reset.laser q = dark) ∧ State.reset.host.reconfOpen = false ∧
    ({ reconfOpen := true } : HostSide).reconfOpen = true ∧
    (let s : State := { State.reset with bar0 := [(offState 95, 0xE#64)] }
     (s.port 95).down = false ∧ s.laser 95 ≠ dark) := by decide

set_option maxRecDepth 10000 in
theorem witness_router :
    (let s : State := { State.reset with map := [(0, { site := some 0 }), (1, { site := some 1 }), (119, { site := some 119 }), (120, { site := some 128 }), (15240, { site := some 16256 })] }
     s.detours = [] ∧ s.grounded (tileAt ((0 + 1) % 120) 0) = true ∧ (60 + 120 - 0) % 120 ≤ 60 ∧ 60 < (61 + 120 - 0) % 120 ∧
      s.grounded (tileAt ((0 + 119) % 120) 0) = true ∧ (64 + 128 - 0) % 128 ≤ 64 ∧ 64 < (65 + 128 - 0) % 128 ∧ s.grounded (tileAt 0 1) = true ∧
      s.grounded (tileAt 0 127) = true ∧ s.hop 0 0 1 0 = .move 1 0 1 ∧ s.grafting 1 = false ∧ s.linkDown 0 1 1 = false ∧
      (let f : State := { s with sites := [(0, { links := 2 })] }
       f.linkDown 0 1 1 = true ∧ f.hop 0 0 1 0 = .blocked ∧ (0, 1) ∉ f.detours ∧ ({ f with detours := [(0, 1)] } : State).hop 0 0 1 0 = .escape)) ∧
    (let p : Packet := { pkt (.tile 1) (.tile 0) (.other 4) with inDir := some 3 }
     let s : State := { State.reset with net := [p, { p with px := 1 }], map := [(0, { site := some 0 }), (1, { site := some 1 })] }
     s.behind 0 p = false ∧ s.behind 1 p = true ∧ s.hasCredit 0 { p with px := 1 } = true ∧ s.tileOn (s.standsAt p) = some 0 ∧
      ({ s with net := p :: List.replicate 8 { p with px := 1 } } : State).hasCredit 0 { p with px := 1 } = false) ∧
    (let st : Stamp := ⟨some ⟨0, 1⟩, [⟨0, 1⟩, ⟨0, 1⟩, ⟨0, 1⟩], 0, true, ⟨0, 0⟩⟩
     let h : ReqHead := ⟨5 * 2 ^ 50, 2, 3, true, 0, 0, 0, 5, 0, 1, 0⟩
     let p : Packet := { pkt (.cellar 5) (.tile 0) (.request h [] 0 7 0 0) with stamp := some st }
     let q : Packet := { p with body := .request { h with va := 5 * 2 ^ 50 + 4 } [] 0 7 1 0 }
     let s : State := { State.reset with net := [p, q], cellars := [(5, { mem := writeBytes [] 0 8 0x103 })],
                                         bar0 := [(offRedw 0, w64 (5 * 2 ^ 38 + 2 ^ 54))], choices := [(963, 1)] }
     s.redPage p = true ∧ s.partner 0 p = some (1, q) ∧ s.mergeable p q = true ∧ s.strikes 963 = true ∧ p.malformed = false ∧ s.behind 0 p = false) ∧
    (let p := pkt (.tile 1) (.tile 0) (.other 4)
     p.arrived = false ∧ p.malformed = false ∧ p.inDir = none ∧ p.esc = false ∧ p.at_ ≠ p.to_ ∧ ({ p with px := 1 } : Packet).at_ = ({ p with px := 1 } : Packet).to_ ∧
      ({ p with dx := 120 } : Packet).malformed = true ∧ ({ p with arrived := true } : Packet).arrived = true) ∧
    State.reset.net[(0 : Nat)]? = none ∧ State.reset.strikes 961 = false ∧ ({ State.reset with choices := [(963, 1)] } : State).strikes 963 = true ∧
    neighbour 0 0 0 = none ∧ neighbour 127 127 3 = some (126, 127) ∧ State.reset.holding 95 = false ∧
    ({ State.reset with bar0 := [(offState 95, 0x2C#64)] } : State).holding 95 = true := by decide

theorem witness_causal :
    (State.reset.field 63).blockQ = [] ∧
    (let F : Field := { blockQ := [.tile 0], next := 0x7FC0 }
     F.blockQ = .tile 0 :: [] ∧ 32767 < (F.next + 63#16 - F.stable).toNat ∧
      ¬ 32767 < (({ F with next := 0x7FBF } : Field).next + 63#16 - F.stable).toNat) ∧
    (Agent.tile 0 ∈ ({ recalled := [.tile 0, .port 95, .pcie 3] } : Field).recalled ∧ Agent.port 95 ∈ ({ recalled := [.tile 0, .port 95, .pcie 3] } : Field).recalled ∧
      Agent.tile 0 ∉ (State.reset.field 0).recalled) ∧ State.reset.grafting 0 = false ∧
    (let q : Packet := { pkt (.tile 1) (.tile 0) (.other 4) with stamp := some ⟨none, [⟨3, 5⟩], 0, false, ⟨0, 0⟩⟩ }
     let s : State := { State.reset with fields := [(0, { ovf := [q] })] }
     (s.heldPackets 0).length = 1 ∧ unmetPair (s.field 0).gAt q.stamp = some ⟨3, 5⟩ ∧ unmetPair (s.field 0).gAt none = none ∧ s.heldPackets 1 = []) ∧
    (State.reset.acksOf (.tile 0) = [] ∧ (tile0 { acks := [⟨63, 5⟩] }).acksOf (.tile 0) = ⟨63, 5⟩ :: []) ∧
    (({ ackIn := [[5]] } : Field).ackIn = [5] :: [] ∧ (State.reset.field 0).ackIn = []) ∧
    (State.reset.gcasts = [] ∧ ({ State.reset with gcasts := [[]] } : State).gcasts ≠ []) ∧
    (firstMet (State.reset.field 0).gAt [] 0 = none ∧ firstMet (State.reset.field 0).gAt [pkt (.tile 1) (.tile 0) (.other 4)] 0 = some (0, pkt (.tile 1) (.tile 0) (.other 4), none)) ∧
    ({ ovf := [pkt (.tile 1) (.tile 0) (.other 4)] } : Field).ovf ≠ [] := by decide

/-- A payload of 64 bytes for channel 5 of tile 0, which accepts it, whose dependence is met, and not. -/
theorem witness_channel_events :
    (let p : Packet := { pkt (.tile 0) (.tile 1) (.payload 5 (List.replicate 64 (7, false))) with arrived := true, sx := 1, cls := 1 }
     let T : Tile := { plot := some 1, released := true, creg := [(0x205, w64 (2 + 1 * 2 ^ 2 + 6 * 2 ^ 38))] }
     let s : State := { tile0 T with net := [p] }
     s.net[(0 : Nat)]? = some p ∧ s.fresh p = true ∧ T.ebuf = [] ∧ judge T.gAt p.stamp = .met ∧ T.accepts 5 2 p.sx p.sy = true ∧
      T.rxFree = true ∧ T.accepts 6 2 p.sx p.sy = false ∧ s.fresh { p with stamp := some ⟨none, [], 1, false, ⟨0, 0⟩⟩ } = false ∧
      judge T.gAt (some ⟨none, [⟨3, 5⟩], 0, false, ⟨0, 0⟩⟩) = .unmet ∧ roomFor [] { p with stamp := some ⟨none, [⟨3, 5⟩], 0, false, ⟨0, 0⟩⟩ } 32 128 = true) ∧
    (let s := tile0 { plot := some 1, released := false }
     s.here.plot.isSome = true ∧ s.here.released = false ∧ s.here.stopped = false) ∧
    (let q : Payload := ⟨1, 0x40, 64, 1, { own := none, deps := [], vint := 0 }, none, 1⟩
     let T : Tile := { chans := [(5, { writing := [q], ret := some (64, 1) })] }
     (T.chan 5).writing = q :: [] ∧ (T.arm 5).getLsbD 16 = false ∧ (T.chan 5).ret = some (64, 1) ∧ (T.chan 6).writing = [] ∧ (T.chan 6).ret = none ∧
      State.reset.grafting 0 = false ∧ (({ T with creg := [(0x285, w64 (2 ^ 16 + 3 * 2 ^ 14))] } : Tile).arm 5).getLsbD 16 = true ∧
      fld (({ T with creg := [(0x285, w64 (2 ^ 16 + 3 * 2 ^ 14))] } : Tile).arm 5) 14 2 = 3) ∧
    (let T : Tile := { creg := [(0x205, w64 (1 + 1 * 2 ^ 2 + 6 * 2 ^ 38))] }
     T.accepts 5 1 1 0 = true ∧ T.accepts 5 1 0 0 = false) := by decide

theorem witness_engine_events :
    (let m : Cmd := { ctx := 0, token := 7, op := 0, cnt := [0], elem := 64, xlen := 64, pad := 0, ext := 0, pstride := [0], xstride := [0], begun := true }
     let s := tile0 { cmds := [m] }
     (s.tile 0).frozen = false ∧ (s.tile 0).cmds = [m] ∧ m.out < 256 ∧ m.next ≠ m.elems ∧ m.ghost = false ∧ (s.tile 0).pending.length ≤ 4 ∧
      s.addressee 0 m.setDefs m.piece.va = .inr (.cellar 0) ∧ (s.tile 0).cmd 0 7 = some m ∧ (∀ e ∈ (s.tile 0).cmds, e.swait = false) ∧
      ({ m with swait := true } : Cmd).swait = true ∧ ({ m with out := 256 } : Cmd).out = 256) ∧
    (let T : Tile := { emitq := [{ seq := 0, ctx := 0, ch := 63, dst := 1, pch := 5, addr := 0, len := 64 }] }
     T.pending.length ≤ 3 ∧ T.frozen = false ∧ (tile0 T).tileField 0 < 64) ∧
    (let p : Packet := { pkt (.tile 0) (.cellar 0) (.response 0 0 (List.replicate 64 (7, false)) none 0 7 0 0) with arrived := true, cls := 3 }
     p.arrived = true ∧ State.reset.fresh p = true ∧ p.dst = .tile 0) ∧
    (let T : Tile := { creg := [(0x481, w64 (1 * 2 ^ 20))] }
     T.cq.length < T.cqSize ∧ fld (T.cr 0x481) 20 2 ≠ 0 ∧ fld (State.reset.here.cr 0x481) 20 2 = 0) := by decide

theorem witness_ticket_blocks : ∃ T : Tile, T.pending.length ≤ 3 ∧ 16 < T.blockLeft ∧ T.staleTickets 0 = 0 := by
  refine ⟨{ creg := [(0x640, w64 (17 * 2 ^ 30))] }, ?_⟩; decide

/-- The flits of a link: bad, of another type, the expected one, one of before, one of the future; working and failed wavelengths. -/
theorem witness_links :
    (∀ seq ack crc, flitBad ⟨seq, ack, 7, 2, true, crc, 0, 0⟩ = true) ∧
    (∀ seq kind, (kind = 0#3 ∨ kind = 1#3 ∨ kind = 3#3) → ∃ crc, flitBad ⟨seq, 0, kind, 2, true, crc, 0, 0⟩ = false) ∧
    (0#13 = (State.reset.port 95).rxNext ∧ ((State.reset.port 95).rxNext - (8191#13)).toNat ≤ 4096 ∧ 4096 < ((State.reset.port 95).rxNext - (1#13)).toNat) ∧
    (State.reset.wlFailed 95 8 = false ∧ State.reset.laser 95 ≠ bloom ∧ State.reset.spareFor 95 = 15) ∧
    (let s : State := { State.reset with bar0 := [(offState 95, 2#64)] }
     s.laser 95 = bloom ∧ s.spareFor 95 = 15 ∧ s.wlFailed 95 8 = false) ∧
    ((widthOf ((State.reset.laneMask 95) &&& 0)).1 = 3 ∧ (widthOf ((State.reset.laneMask 95) &&& 15)).1 ≠ 3) ∧
    (State.reset.newlyFailed 95 0 = [] ∧ State.reset.newlyFailed 95 256 = [8] ∧ State.reset.newlyFailed 95 8 = [3] ∧
      State.reset.newlyFailed 95 3 = [0, 1]) ∧
    (let s : State := { State.reset with bar0 := [(offState 95, 2#64)] }
     s.canSend 95 = true ∧ State.reset.canSend 95 = false) ∧
    (State.reset.port 95).down = false ∧ ({ down := true } : Port).down = true ∧
    (let P : Port := { narrowing := true, farMask := some 15 }
     P.narrowing = true ∧ P.farMask ≠ none ∧ P.resumed = false ∧ P.farResumed = false ∧ { P with farMask := none }.farMask = none ∧
      { P with resumed := true }.resumed = true ∧ { P with farResumed := true }.farResumed = true) ∧
    ({ training := true } : Port).training = true ∧ (State.reset.port 0).narrowing = false := by
  refine ⟨fun _ _ _ => rfl, fun seq kind hk => ⟨crc32 (crcBytes ⟨seq, 0, kind, 2, true, 0, 0, 0⟩), ?_⟩, ?_⟩
  · have h : ∀ c, crcBytes ⟨seq, 0, kind, 2, true, c, 0, 0⟩ = crcBytes ⟨seq, 0, kind, 2, true, 0, 0, 0⟩ := fun _ => rfl
    rcases hk with rfl | rfl | rfl <;> simp only [flitBad, h, bne_self_eq_false] <;> decide
  · decide

/-- The laser states with a window over and under the thresholds, and the stages of a reconfiguration. -/
theorem witness_ports :
    (let s : State := { State.reset with bar0 := [(offState 95, 2#64)] }
     s.laser 95 = bloom ∧ (9#8).toNat < fld (s.reg0 (offPolicy 95)) 0 8 ∧ ¬ (10#8).toNat < fld (s.reg0 (offPolicy 95)) 0 8 ∧
      max 1 (fld (s.reg0 (offPolicy 95)) 16 8) ≤ ({ below := 15 } : Port).below + 1 ∧ (s.port 95).below + 1 < max 1 (fld (s.reg0 (offPolicy 95)) 16 8)) ∧
    (let s : State := { State.reset with bar0 := [(offState 95, 1#64), (offPolicy 95, bar0Reset (offPolicy 95))] }
     s.laser 95 = bud ∧ s.holding 95 = false ∧ fld (s.reg0 (offPolicy 95)) 8 8 < (41#8).toNat ∧ (40#8).toNat ≤ fld (s.reg0 (offPolicy 95)) 8 8 ∧
      (∀ w, w < 8 → s.wlWorks 95 w = true)) ∧
    ((State.reset.port 95).queue = [] ∧ (State.reset.port 95).owed = [] ∧ ({ owed := [(0, 0, [])] } : Port).owed ≠ [] ∧ State.reset.laser 95 = dark) ∧
    (let s : State := { State.reset with bar0 := [(offState 95, 3#64)] }
     s.laser 95 = changing ∧ (0#9) ||| (s.port 95).wlBad = 0) ∧
    (let h : ReqHead := ⟨61 * 2 ^ 50, 0, 0, false, 0, 0, 0, 5, 0, 0, 0⟩
     let s : State := { State.reset with bar0 := [(offPeer 1, 1#64), (offPeerwin 0, 3#64)] }
     h.va.toNat / 2 ^ 42 % 256 = fld (s.reg0 offSelf) 0 8 ∧ (s.port 95).entered = [] ∧ s.peerWindow (h.va.toNat % 2 ^ 42) 0 = .inr 0 ∧
      s.portOf 0 = some 0 ∧ State.reset.peerWindow 0 0 = .inl 2 ∧ s.peerPort 1 = some 0 ∧ State.reset.peerPort 1 = none ∧
      (1 : Nat) ≠ fld (s.reg0 offSelf) 0 8 ∧ h.hops ≠ 7#3) ∧
    (let h : ReqHead := ⟨0, 0, 0, false, 0, 0, 0, 5, 0, 0, 0⟩
     let q : PeerPkt := ⟨h, [], 5, some (3, 9), none⟩
     let P : Port := { unanswered := [q] }
     P.unanswered.find? (fun q => q.tag == 5) = some q ∧ P.unanswered.find? (fun q => q.tag == 6) = none) ∧
    (State.reset.port 0).down = false ∧ (State.reset.port 0).disabled = false ∧
    (let P : Port := { reconf := 1, drained := true, farDrain := true }
     P.drained = true ∧ P.farDrain = true ∧ P.allow2 = 2048 ∧ P.allow3 = 2048 ∧ P.replay = [] ∧ P.unanswered = [] ∧ P.serving = [] ∧ P.ingress = [] ∧
      P.narrowing = false ∧ P.training = false ∧ P.dimming = false ∧ P.lostInBud = 0) ∧
    ({ reconf := 1 } : Port).replay = [] ∧ ({ reconf := 3 } : Port).reconf = 3 ∧ (∀ e ∈ State.reset.host.peerTable, e.1 < 256) := by decide

/-- A request of one flit in the ingress buffer, and none. -/
theorem witness_packets_of_ports :
    ({ ingress := [⟨0, 2, true, 0, 0⟩] } : Port).takePacket 2 = some ([⟨0, 2, true, 0, 0⟩], {}) ∧ ({} : Port).takePacket 2 = none := by
  simp [Port.takePacket, Port.packetOf]

set_option maxRecDepth 20000 in
set_option exponentiation.threshold 600 in
/-- The answer with tag 5 and status 2 in a flit, and one that is none. -/
theorem witness_answers_of_ports :
    let w := leNat ((([⟨0, 2, true, 0x805, 0⟩] : List DataFlit).flatMap DataFlit.bytes).take 4)
    w % 1024 = (5#10).toNat ∧ w / 1024 % 16 = (2#4).toNat ∧ w % 1024 ≠ (6#10).toNat := by decide

set_option maxRecDepth 10000 in
/-- A read and a write of stack 5, its page in the first level; a miss; a walk with and without a leaf; a forwarded response. -/
theorem witness_cellars :
    (let h : ReqHead := ⟨5 * 2 ^ 50 + 0x40, 1, 63, false, 0, 0, 0, 5, 0, 0, 0⟩
     let p : Packet := { pkt (.cellar 5) (.tile 0) (.request h (List.replicate 64 (7, false)) 0 7 0 0) with arrived := true }
     let e : TlbEntry := ⟨5, 0, 16, w64 (1 + 2 ^ 4 + 2 ^ 5), 0, none⟩
     let K : Stack := { disabled := false, ready := [p], tlb := [e] }
     let s : State := { State.reset with cellars := [(5, K)], net := [p] }
     s.net[(0 : Nat)]? = some p ∧ p.isRequest = true ∧ s.fresh p = true ∧ judge K.gAt p.stamp = .met ∧ s.missq 5 < 4096 ∧ K.pendingP.length ≤ 4 ∧
      s.stackDead 5 = false ∧ badHead h p.red = false ∧ h.op.toNat < 5 ∧ 5 ∈ s.membersOf (ownerOf h.va.toNat) ∧ K.homeQ = [] ∧ K.walkQ = [] ∧
      tlbFind K.tlb (ownerOf h.va.toNat) (h.va.toNat % 2 ^ 50) = some e ∧ tlbFind K.tlb 5 (2 ^ 16) = none ∧ s.homeOf 5 (2 ^ 16) = 5 ∧
      tlbFind K.slice 5 0 = none ∧ (s.rackOf 5 0x40).isNone = true ∧ 6 ∉ s.membersOf 5 ∧ s.stackDead 6 = true ∧ badHead { h with op := 9 } false = true ∧
      s.hasElder 5 p = false ∧ s.parked 5 p = false ∧ p.copyOf = none ∧ s.heldBy p = none ∧ K.counts.length < 256 ∧ K.poison.length ≤ 512 ∧ p.red = false ∧
      leafAllows e.leaf 1 = true ∧ leafAllows 0#64 1 = false ∧ s.locate 5 e.leaf 0x40 = .sector 5 0x40 ∧ e.leaf.getLsbD 7 = false ∧
      e.leaf.getLsbD 9 = false ∧ (0x40 / 64) ∉ K.poison ∧ s.strikes 600 = false) ∧
    (State.reset.homeWaiter 5 = none ∧ State.reset.walk 5 0 = none) ∧
    (let s : State := { State.reset with bar0 := [(offSet 0, w64 (2 ^ 60 + 2 ^ 49 + 5 * 2 ^ 54 + 2 ^ 5 + 2 ^ 6))] }
     let p : Packet := pkt (.cellar 5) (.tile 0) (.request ⟨48 * 2 ^ 50 + 2 ^ 16, 0, 63, false, 0, 0, 0, 5, 0, 0, 0⟩ [] 0 7 0 0)
     let e : TlbEntry := ⟨48, 2 ^ 16, 16, 3, 0, none⟩
     let s' : State := { s with cellars := [(5, { homeQ := [p] }), (6, { slice := [e] })] }
     5 ∈ s.membersOf 48 ∧ s.homeOf 48 (2 ^ 16) ≠ 5 ∧ s'.homeWaiter 6 = some (5, p) ∧ s'.homeEntry 6 5 48 (2 ^ 16) = some e ∧ s'.shotFor 5 48 (2 ^ 16) = false) ∧
    (let h : ReqHead := ⟨5 * 2 ^ 50 + 0x40, 0, 63, false, 0, 0, 0, 5, 0, 0, 0⟩
     let p : Packet := { pkt (.cellar 5) (.tile 0) (.request h [] 0 7 0 0) with arrived := true }
     let e : TlbEntry := ⟨5, 0, 34, w64 3, 0, none⟩
     let s : State := { State.reset with cellars := [(5, { disabled := false, walkQ := [p], mem := writeBytes [] 0 8 3 })] }
     s.walk 5 0x40 = some e) ∧
    (let r : Packet := { pkt (.cellar 5) (.cellar 6) (.response 0 0 [] none 0 9 0 0) with arrived := true }
     let K : Stack := { fwd := [(9, r)] }
     r.isResponse = true ∧ State.reset.fresh r = true ∧ K.fwd.find? (fun f => f.1 == 9) = some (9, r)) := by decide

set_option maxRecDepth 10000 in
/-- Leaves of the four kinds; a checked sector that another tile wrote in the phase; a forwarded request; a page of stack 9. -/
theorem witness_cellar_forms :
    (let rw : W64 := w64 (1 + 2 ^ 4 + 2 ^ 5 + 2 ^ 6)
     let s : State := { State.reset with bar0 := [(offPeer 17, w64 (1 + 3 * 2 ^ 1))] }
     s.locate 5 rw 0x40 = .sector 5 0x40 ∧ s.locate 5 (rw ||| w64 (4 + 9 * 2 ^ 58)) 0x40 = .sector 9 0x40 ∧
      s.locate 5 (rw ||| w64 (8 + 2 * 2 ^ 58)) 0x40 = .host 2 0x40 ∧ s.locate 5 (rw ||| w64 (12 + 17 * 2 ^ 42)) 0x40 = .peer 17 0x40 ∧
      17 ≠ fld (s.reg0 offSelf) 0 8 ∧ s.peerPort 17 ≠ none ∧ s.peerPort 18 = none ∧ s.hostAtomOk 2 72 = false) ∧
    (let K : Stack := { tags := [(1, 0x4006#16)], poison := [2] }
     let tag := (K.tag 1).toNat
     (5#14) ≠ 0x3FFF#14 ∧ tag % 2 ^ 14 ≠ (5#14).toNat ∧ tag % 2 ^ 14 ≠ 0x3FFF ∧ tag / 2 ^ 14 = (1#2).toNat ∧ K.poison.contains 2 = true ∧
      K.poison.contains 1 = false ∧ K.nextKey = some 0) ∧
    (48 * 2 ^ 30 ≤ (48 * 2 ^ 30) % 2 ^ 36 ∧ (48 * 2 ^ 30 - 1) % 2 ^ 36 < 48 * 2 ^ 30) := by decide

theorem witness_stacks :
    State.reset.rackTarget 0 16 = none ∧ (State.reset.stack 47).rackQ.length < 64 ∧ State.reset.rackAt 47 0 = none ∧
    (let r : Racking := ⟨5 * 2 ^ 50, 16, 1, 1, 0, true, [], false⟩
     let s : State := { State.reset with cellars := [(47, { racks := [r], rackDone := [1], shootWait := [5], counts := [(47, 0, 5, 1)] })] }
     s.rackAt 47 (5 * 2 ^ 50) = some r ∧ r.switch = true ∧ (∀ i ∈ s.membersOf (ownerOf r.va), s.forwarding i 5 0 16 = false) ∧
      s.frameDead 5 1#64 = true ∧ State.reset.frameDead 5 (w64 (4 + 5 * 2 ^ 58)) = true ∧
      ({ State.reset with cellars := [(5, { disabled := false })] } : State).frameDead 5 1#64 = false ∧ r.quar = false ∧ { r with leaf := 3 }.leaf ≠ r.old ∧ (s.stack 47).rackDone = 1 :: [] ∧ 5 ∈ (s.stack 47).shootWait ∧ 5 ∉ (s.stack 47).shootInval) ∧
    (5 ∈ ({ shootInval := [5] } : Stack).shootInval ∧ State.reset.forwarding 5 0 0 16 = false) ∧ (State.reset.reg0 (offShoot 47)).getLsbD 58 = false ∧
    (({ State.reset with bar0 := [(offShoot 47, w64 (2 ^ 58))] } : State).reg0 (offShoot 47)).getLsbD 58 = true ∧ (State.reset.stack 47).counts = [] ∧
    fld (State.reset.reg0 (offStk 47)) 0 2 = 0 ∧ State.reset.tableOfSet 47 = false ∧
    (({ State.reset with bar0 := [(offSet 11, w64 (2 ^ 60 + 47 * 2 ^ 54))] } : State).tableOfSet 47 = true) ∧
    (({ State.reset with bar0 := [(offLink 3, 4#64)] } : State).linkUp 3 = true) ∧ fld (({ State.reset with bar0 := [(offStk 47, 3#64)] } : State).reg0 (offStk 47)) 0 2 ≠ 0 := by decide

theorem witness_registers :
    ((4#22).toNat % 8 ≠ 0 ∧ (4#22).toNat % 4 = 0) ∧ (privateOff 0x11000 = true ∧ bufferOff 0x11000 = false) ∧ bufferOff 0x17FF8 = false ∧
    bufferOff 0x16FF8 = true ∧ (0x30000 + 0x100 * 95 + 0x10 : Nat) = offPolicy 95 ∧ offPolicy 95 < 2 ^ 22 ∧
    ((1#64).getLsbD 0 = true ∧ (State.reset.reg0 (offMbx 3)).getLsbD 1 = false ∧
      (({ State.reset with bar0 := [(offMbx 3, 2#64)] } : State).reg0 (offMbx 3)).getLsbD 1 = true) ∧
    (let h : ReqHead := ⟨60 * 2 ^ 50 + 8, 0, 7, false, 0, 0, 0, 5, 0, 0, 0⟩
     let p : Packet := { pkt .ctrl (.tile 0) (.request h [] 0 7 0 0) with arrived := true }
     State.reset.fresh p = true ∧ h.va.toNat % 2 ^ 50 % 8 = 0 ∧ h.va.toNat % 2 ^ 50 < 2 ^ 22 ∧ privateOff 8 = false ∧ h.len = 7#6 ∧
      { h with len := 3 }.len ≠ 7#6) ∧
    (let s : State := { State.reset with bar0 := [(offLink 3, 4#64)] }
     s.linkUp 3 = true ∧ (∀ e ∈ s.host.posted, e.1 ≠ 3) ∧ (∀ j, j < 48 → (0 : Nat) ≠ offRackdone j) ∧ privateOff 0 = false) ∧
    ((fld (State.reset.reg0 offEvt) 0 8 + 1) % 256 ≠ fld (State.reset.reg0 offEvt) 8 8 ∧ (255 + 1) % 256 = fld (State.reset.reg0 offEvt) 8 8) := by decide

set_option maxRecDepth 10000 in
theorem witness_hosts :
    State.reset.linkUp 3 = false ∧
    (let s : State := { spareState { plot := some 1, released := true } {} with bar0 := [(offLink 3, 4#64)] }
     s.linkUp 3 = true ∧ (s.mapEntry 0).site.isSome = true ∧ s.resides 0 = true ∧ s.takesEntry 0 = true ∧ s.takesEntry 1 = false ∧
      (s.mapEntry 1).site.isSome = false ∧ s.bar4Dst 0 = some (.cellar 0) ∧ s.bar4Dst (60 * 2 ^ 50) = none) ∧
    (let e : Ingress := ⟨0, [], false⟩
     let s : State := { State.reset with host := { posted := [(3, .entry 0 e)] } }
     s.firstPosted 3 = some (.entry 0 e) ∧ s.entryArrived 3 = none ∧ s.entryFlies 3 0 = false ∧
      (s.host.posted.filter (fun e => e.1 == 3)).length < 256 ∧
      (let p : Packet := { pkt (.tile 0) (.pcie 3) (.ingress e) with arrived := true }
       ({ s with net := [p] } : State).entryArrived 3 = some 0 ∧ ({ s with net := [p] } : State).entryFlies 3 0 = true)) ∧
    State.reset.firstPosted 3 = none ∧ State.reset.freeTag 3 = some 0 ∧
    (let p := pkt (.pcie 3) (.tile 0) (.other 4)
     (∀ r : HostReq, r ∈ [HostReq.request 3 p, .flush 3 0, .copy 3] → [r].find? (fun r => r.link == 3) = some r) ∧ p.isAtomic = false) ∧
    (let h : ReqHead := ⟨56 * 2 ^ 50, 1, 63, false, 0, 0, 0, 5, 0, 0, 0⟩
     State.reset.fresh (pkt (.pcie 3) (.tile 0) (.request h [] 0 7 0 0)) = true) ∧
    (let s : State := { State.reset with fields := [(56, { b4 := { left := 17 } }), (63, { b4 := { left := 17 } }), (0, { b4 := { left := 17 } }), (7, { b4 := { left := 17 } })] }
     16 < (s.field (linkField 3)).b4.left ∧ (s.field (linkField 3)).b4.staleTickets = 0) ∧ (63#34).toNat % 64 + (0#6).toNat + 1 ≤ 64 ∧ (1#34).toNat % 8 ≠ 0 := by decide

theorem witness_spdm : State.reset.module.step = 0 ∧ ({ step := 2 } : Module).step = 2 ∧ ({ step := 7 } : Module).step ≠ 2 ∧
    (State.reset.conn 4).stage < 3 ∧ 3 ≤ (({ State.reset with host := { spdm := [(4, { stage := 3 })] } } : State).conn 4).stage ∧ (4#3).toNat < 5 ∧
    (0xE3#8).toNat ∈ spdmRequests ∧ (0xFF#8).toNat ∉ spdmRequests := by decide

/-- The sizes of the items of a saved image add up to the size that R231 prints. -/
theorem test_image_size : imageItems.sum = 4816448 := by decide

/-! ### Witnesses: steps -/

/-- Tile 0, context 0 at a word of a packet whose words are given. -/
def packetState (a b c first : Nat) : State :=
  tile0 { ctxs := [(0, { creg := [(0x010, 2)], first := first, midPacket := true })], creg := [(0x003, w64 10880)], released := true, active := some 0,
          imem := writeBytes (writeBytes (writeBytes [] 0 4 a) 4 4 b) 8 4 c }

/-- One word at each position, a group of two at each; the last tile and the first that is none. -/
theorem witness_steps :
    (let s := packetState 0x0228C380 0x04411FFF 0x4048A002 2
     s.coreMove ({ s with seed := s.seed + 1, cur := { tile := 0 }, choices := [] }.storageErrors 0) 0 ∧ s.atWord 0 0 2 ∧ s.wordAt 0 0 2 = some (.ldS32 9 1 2) ∧
      chained ((s.tile 0).imemWord (s.ctx 0 0).pc 2) = false) ∧
    (let s := packetState 0x8228C380 0x04411FFF 0x4048A002 0
     s.atWord 0 0 0 ∧ s.wordAt 0 0 0 = some (.add 5 6 7) ∧ s.wordAt 0 0 1 = some (.addi 8 8 0x1FFF) ∧ isCall (.add 5 6 7) = false ∧
      chained ((s.tile 0).imemWord (s.ctx 0 0).pc 0) = true ∧ chained ((s.tile 0).imemWord (s.ctx 0 0).pc 1) = false) ∧
    (isCall (.syscall 5) = true ∧ encode 0#1 .powerUp = none) ∧ 15360 ≤ (15360#14).toNat ∧ 96 ≤ (96#7).toNat ∧ 48 ≤ (48#6).toNat := by
  and_intros <;> first | decide | (left; decide) | (constructor <;> decide)

theorem witness_encoding : wellFormed (.ldS32 9 1 2) = true ∧ encode 1#1 (.add 5 6 7) = some 0x8228C380#32 ∧
    decodeWord 0x8228C380#32 = some (true, .add 5 6 7) := by decide

/-- A state whose memories are canonical and from which a step answers a next state. -/
theorem witness_invariant : State.reset.memoriesWf ∧ ∃ t, step State.reset = .next t :=
  ⟨⟨fun _ => ⟨rfl, rfl⟩, fun _ _ h => (List.not_mem_nil h).elim, fun _ => rfl, rfl, rfl, rfl⟩, _, rfl⟩

end Sys2Proof.Tests
end

section
/-! The words of the scalar unit as numbers: each function of R327 to R331 in the terms of its rule. -/

namespace Sys2Proof.Machine

open Host Sys2Proof

/-! ### Sums, products and shifts of words -/

theorem add_eq_ofNat (x y : W64) : x + y = BitVec.ofNat 64 (x.toNat + y.toNat) := by simp [BitVec.ofNat_add]

theorem sub_eq_ofInt (x y : W64) : x - y = BitVec.ofInt 64 (x.toInt - y.toInt) :=
  BitVec.eq_of_toInt_eq (by rw [BitVec.toInt_sub, BitVec.toInt_ofInt])

theorem mul_eq_ofNat (x y : W64) : x * y = BitVec.ofNat 64 (x.toNat * y.toNat) := by simp [BitVec.ofNat_mul]

theorem shiftLeft_eq_ofNat (x : W64) (n : Nat) : x <<< n = BitVec.ofNat 64 (x.toNat * 2 ^ n) :=
  BitVec.eq_of_toNat_eq (by rw [BitVec.toNat_shiftLeft, Nat.shiftLeft_eq, BitVec.toNat_ofNat])

theorem ushiftRight_eq_ofNat (x : W64) (n : Nat) : x >>> n = BitVec.ofNat 64 (x.toNat / 2 ^ n) := by
  rw [← Nat.shiftRight_eq_div_pow, ← BitVec.toNat_ushiftRight, BitVec.ofNat_toNat, BitVec.setWidth_eq]

theorem sshiftRight_eq_ofInt (x : W64) (n : Nat) : x.sshiftRight n = BitVec.ofInt 64 (x.toInt / 2 ^ n) := by
  rw [BitVec.sshiftRight, Int.shiftRight_eq_div_pow]; rfl

theorem rotateLeft_eq_or (x : W64) {n : Nat} (h : n < 64) : x.rotateLeft n = x <<< n ||| x >>> (64 - n) := by
  rw [BitVec.rotateLeft_def, Nat.mod_eq_of_lt h]

/-! ### The lesser and the greater of two words -/

/-- Choosing by `<` and by `≤` is the same where equal keys mean equal words. -/
theorem choose_lt_eq_choose_le {β : Type} [LinearOrder β] {key : W64 → β} (hkey : Function.Injective key) {x y : W64}
    {lt : Bool} (hlt : lt = true ↔ key x < key y) :
    (if lt then x else y) = (if key x ≤ key y then x else y) ∧ (if lt then y else x) = (if key x ≤ key y then y else x) := by
  rcases lt_trichotomy (key x) (key y) with h | h | h
  · simp [hlt.2 h, h.le]
  · simp [hkey h]
  · simp [hlt.not.2 h.asymm, h.not_ge]

theorem toInt_injective : Function.Injective (BitVec.toInt : W64 → Int) := fun _ _ => BitVec.eq_of_toInt_eq

theorem toNat_injective : Function.Injective (BitVec.toNat : W64 → Nat) := fun _ _ => BitVec.eq_of_toNat_eq

/-- MIN and MAX of words as two's-complement numbers. -/
theorem signed_choice (x y : W64) : (if x.slt y then x else y) = (if x.toInt ≤ y.toInt then x else y) ∧
    (if x.slt y then y else x) = (if x.toInt ≤ y.toInt then y else x) :=
  choose_lt_eq_choose_le toInt_injective BitVec.slt_iff_toInt_lt

/-- MINZ and MAXZ of words as natural numbers. -/
theorem unsigned_choice (x y : W64) : (if x.ult y then x else y) = (if x.toNat ≤ y.toNat then x else y) ∧
    (if x.ult y then y else x) = (if x.toNat ≤ y.toNat then y else x) :=
  choose_lt_eq_choose_le toNat_injective BitVec.ult_iff_toNat_lt

/-! ### Division (R328) -/

theorem divS_eq (x y : W64) :
    divS x y = if y = 0 then 0xFFFFFFFFFFFFFFFF#64 else BitVec.ofInt 64 (x.toInt.tdiv y.toInt) :=
  if_congr Iff.rfl rfl (BitVec.eq_of_toInt_eq (by rw [BitVec.toInt_sdiv, BitVec.toInt_ofInt]))

theorem divU_eq (x y : W64) :
    divU x y = if y = 0 then 0xFFFFFFFFFFFFFFFF#64 else BitVec.ofNat 64 (x.toNat / y.toNat) :=
  if_congr Iff.rfl rfl BitVec.udiv_def

theorem remS_eq (x y : W64) : remS x y = if y = 0 then x else BitVec.ofInt 64 (x.toInt.tmod y.toInt) :=
  if_congr Iff.rfl rfl (by rw [← BitVec.toInt_srem, BitVec.ofInt_toInt])

theorem remU_eq (x y : W64) : remU x y = if y = 0 then x else BitVec.ofNat 64 (x.toNat % y.toNat) :=
  if_congr Iff.rfl rfl BitVec.umod_def

/-! ### The forms with two and with one general operand -/

/-- A word of the two-operand form puts its function of g[a] and g[b] into g[d]. -/
theorem writes_alu2 {i : Instr} {d a b : BitVec 6} {lat : Nat} (f : W64 → W64 → W64) {s : State} {v : W64}
    (hq : s.quiet (gKey d.toNat)) (hx : exec i s = alu2 d a b lat f s) (hv : f (s.gv a.toNat) (s.gv b.toNat) = v) :
    Writes i s [(gKey d.toNat, gval v (s.gp a.toNat || s.gp b.toNat))] lat := by
  subst hv; exact writes_of_land hq hx

/-- A word of the one-operand form puts its function of g[a] into g[d], L = 1. -/
theorem writes_alu1 {i : Instr} {d a : BitVec 6} (f : W64 → W64) {s : State} {v : W64}
    (hq : s.quiet (gKey d.toNat)) (hx : exec i s = alu1 d a f s) (hv : f (s.gv a.toNat) = v) :
    Writes i s [(gKey d.toNat, gval v (s.gp a.toNat))] 1 := by
  subst hv; exact writes_of_land hq hx

end Sys2Proof.Machine
end

section
/-! R327 and R328: the register-register words. -/

namespace Sys2Proof.Machine

open Host Sys2Proof

/-- Settles O1: each word is one result of the two-operand form, and its function is the number that the rule names. -/
theorem arithmeticWordsWriteTheirResult : Obligations.ArithmeticWordsWriteTheirResult := by
  refine ⟨fun s d a b hq => ?_, fun s d a b hq => ?_⟩
  · have hn : (s.gv b.toNat).toNat % 64 < 64 := Nat.mod_lt _ (by decide)
    exact
      ⟨writes_alu2 (· + ·) hq rfl (add_eq_ofNat _ _),
        writes_alu2 (· - ·) hq rfl (sub_eq_ofInt _ _),
        writes_alu2 (· &&& ·) hq rfl rfl,
        writes_alu2 (· ||| ·) hq rfl rfl,
        writes_alu2 (· ^^^ ·) hq rfl rfl,
        writes_alu2 (fun x y => x &&& ~~~y) hq rfl rfl,
        writes_alu2 (fun x y => x ||| ~~~y) hq rfl rfl,
        writes_alu2 (fun x y => x <<< shamt y) hq rfl (shiftLeft_eq_ofNat _ _),
        writes_alu2 (fun x y => x >>> shamt y) hq rfl (ushiftRight_eq_ofNat _ _),
        writes_alu2 (fun x y => x.sshiftRight (shamt y)) hq rfl (sshiftRight_eq_ofInt _ _),
        writes_alu2 (fun x y => x.rotateLeft (shamt y)) hq rfl (rotateLeft_eq_or _ hn),
        writes_alu2 (fun x y => if x.slt y then x else y) hq rfl (signed_choice _ _).1,
        writes_alu2 (fun x y => if x.slt y then y else x) hq rfl (signed_choice _ _).2,
        writes_alu2 (fun x y => if x.ult y then x else y) hq rfl (unsigned_choice _ _).1,
        writes_alu2 (fun x y => if x.ult y then y else x) hq rfl (unsigned_choice _ _).2⟩
  · exact
      ⟨writes_alu2 (· * ·) hq rfl (mul_eq_ofNat _ _),
        writes_alu2 mulHigh hq rfl rfl,
        writes_alu2 mulHighZ hq rfl rfl,
        writes_alu2 divS hq rfl (divS_eq _ _),
        writes_alu2 divU hq rfl (divU_eq _ _),
        writes_alu2 remS hq rfl (remS_eq _ _),
        writes_alu2 remU hq rfl (remU_eq _ _)⟩

end Sys2Proof.Machine
end

section
/-! R327 and R329 to R331: the one-operand words, the bit-field words and the immediate forms. -/

namespace Sys2Proof.Machine

open Host Sys2Proof

/-! ### Counts of bits (R327) -/

theorem toNat_eq_zero_iff (x : W64) : x.toNat = 0 ↔ x = 0 := ⟨fun h => BitVec.eq_of_toNat_eq h, fun h => by rw [h]; rfl⟩

/-- The leading zeros of a word bound it from both sides. -/
theorem leadingZeros_spec (x : W64) :
    let z := leadingZeros 64 x.toNat
    z ≤ 64 ∧ x.toNat < 2 ^ (64 - z) ∧ (x ≠ 0 → 2 ^ (63 - z) ≤ x.toNat ∧ z < 64) ∧ (x = 0 → z = 64) := by
  rw [← toNat_eq_zero_iff, ne_eq, ← toNat_eq_zero_iff]
  by_cases h0 : x.toNat = 0
  · simp [leadingZeros, h0]
  · have hlog : x.toNat.log2 < 64 := (Nat.log2_lt h0).2 x.isLt
    rw [leadingZeros, if_neg h0]
    refine ⟨by omega, ?_, fun _ => ⟨?_, by omega⟩, fun h => absurd h h0⟩
    · rw [show 64 - (64 - 1 - x.toNat.log2) = x.toNat.log2 + 1 by omega]; exact Nat.lt_log2_self
    · rw [show 63 - (64 - 1 - x.toNat.log2) = x.toNat.log2 by omega]; exact Nat.log2_self_le h0

/-- A number with its low z bits clear is a multiple of 2 ^ z. -/
theorem mod_two_pow_eq_zero {x z : Nat} (h : ∀ i < z, x.testBit i = false) : x % 2 ^ z = 0 :=
  Nat.eq_of_testBit_eq fun i => by
    rw [Nat.testBit_mod_two_pow, Nat.zero_testBit]
    by_cases hi : i < z
    · rw [h i hi, Bool.and_false]
    · rw [decide_eq_false hi, Bool.false_and]

/-- The trailing zeros of a word are clear, and a one follows them. -/
theorem trailingZeros_spec (x : W64) :
    let z := trailingZeros 64 x.toNat
    z ≤ 64 ∧ x.toNat % 2 ^ z = 0 ∧ (x ≠ 0 → x.toNat.testBit z = true) ∧ (x = 0 → z = 64) := by
  rw [ne_eq, ← toNat_eq_zero_iff]
  cases h : (List.range 64).find? (fun i => x.toNat.testBit i) with
  | none =>
    have hz : x.toNat % 2 ^ 64 = 0 := mod_two_pow_eq_zero fun i hi => by simpa using List.find?_range_eq_none.1 h i hi
    have h0 : x.toNat = 0 := by rwa [Nat.mod_eq_of_lt x.isLt] at hz
    rw [trailingZeros, h, Option.getD_none]
    exact ⟨le_refl _, hz, fun hne => absurd h0 hne, fun _ => rfl⟩
  | some z =>
    obtain ⟨hone, hz, hlow⟩ := List.find?_range_eq_some.1 h
    rw [trailingZeros, h, Option.getD_some]
    exact ⟨(List.mem_range.1 hz).le, mod_two_pow_eq_zero fun i hi => by simpa using hlow i hi, fun _ => hone,
      fun h0 => by simp [h0] at hone⟩

/-- Counting by a fold is counting the members that pass. -/
theorem foldl_count (p : Nat → Bool) (l : List Nat) :
    ∀ k, l.foldl (fun k i => if p i then k + 1 else k) k = k + (l.filter p).length := by
  induction l with
  | nil => intro k; rfl
  | cons i l ih =>
    intro k
    rw [List.foldl_cons, ih, List.filter_cons]
    split
    · rw [List.length_cons]; omega
    · rfl

theorem popCount_eq (x : W64) : popCount x.toNat 64 = ((List.range 64).filter (fun i => x.getLsbD i)).length := by
  rw [popCount, foldl_count, Nat.zero_add]; rfl

/-! ### Extensions and bit fields (R327, R329) -/

theorem zextTo_eq {n : Nat} (x : W64) : zextTo n x = BitVec.ofNat 64 (x.toNat % 2 ^ n) := by
  rw [zextTo, ← BitVec.ofNat_toNat, BitVec.toNat_setWidth]

theorem bext_eq (x y : W64) :
    bext x y = BitVec.ofNat 64 (x.toNat / 2 ^ (y.toNat % 64) % 2 ^ Nat.min (y.toNat / 64 % 128) (64 - y.toNat % 64)) := by
  rw [← Nat.shiftRight_eq_div_pow]; rfl

theorem bins_eq (old x y : W64) :
    let pos := y.toNat % 64
    let m := BitVec.ofNat 64 ((2 ^ Nat.min (y.toNat / 64 % 128) (64 - pos) - 1) * 2 ^ pos)
    bins old x y = (old &&& ~~~m) ||| (BitVec.ofNat 64 (x.toNat * 2 ^ pos) &&& m) := by
  intro pos m
  have hm : m = w64 ((2 ^ min (y.toNat / 64 % 128) (64 - pos) - 1) <<< pos) := by rw [Nat.shiftLeft_eq]; rfl
  rw [hm, ← shiftLeft_eq_ofNat]; rfl

/-! ### Immediates (R330, R331) -/

theorem add_simm_eq {n : Nat} (x : W64) (i : BitVec n) : x + simm i = BitVec.ofInt 64 (x.toInt + i.toInt) := by
  rw [BitVec.ofInt_add, BitVec.ofInt_toInt]; rfl

/-- An immediate of n bits below a word that was shifted by n is added to it. -/
theorem shiftLeft_or_setWidth_eq {n : Nat} (x : W64) (i : BitVec n) :
    (x <<< n ||| i.setWidth 64) = BitVec.ofNat 64 (x.toNat * 2 ^ n + i.toNat) := by
  rw [← Nat.shiftLeft_eq, Nat.shiftLeft_add_eq_or_of_lt i.isLt, BitVec.ofNat_or, BitVec.ofNat_toNat, Nat.shiftLeft_eq,
    ← shiftLeft_eq_ofNat]

/-! ### The words -/

/-- Settles O2: each word is one result of the one-operand or the two-operand form, or, where it reads g[d], one result of
its own. -/
theorem bitAndImmediateWordsWriteTheirResult : Obligations.BitAndImmediateWordsWriteTheirResult := by
  refine ⟨fun s d a b hq => ?_, fun s d a imm sh imm19 hq => ?_⟩
  · exact
      ⟨⟨_, writes_alu1 (fun x => w64 (leadingZeros 64 x.toNat)) hq rfl rfl, leadingZeros_spec _⟩,
        ⟨_, writes_alu1 (fun x => w64 (trailingZeros 64 x.toNat)) hq rfl rfl, trailingZeros_spec _⟩,
        writes_alu1 (fun x => w64 (popCount x.toNat 64)) hq rfl (congrArg w64 (popCount_eq _)),
        writes_alu1 (sextTo 8) hq rfl rfl,
        writes_alu1 (sextTo 16) hq rfl rfl,
        writes_alu1 (sextTo 32) hq rfl rfl,
        writes_alu1 (zextTo 8) hq rfl (zextTo_eq _),
        writes_alu1 (zextTo 16) hq rfl (zextTo_eq _),
        writes_alu1 (zextTo 32) hq rfl (zextTo_eq _),
        writes_alu2 bext hq rfl (bext_eq _ _),
        bins_eq (s.gv d.toNat) _ _ ▸ writes_of_land hq rfl⟩
  · exact
      ⟨writes_alu1 (· + simm imm) hq rfl (add_simm_eq _ _),
        writes_alu1 (· &&& simm imm) hq rfl rfl,
        writes_alu1 (· ||| simm imm) hq rfl rfl,
        writes_alu1 (· ^^^ simm imm) hq rfl rfl,
        writes_alu1 (· <<< sh.toNat) hq rfl (shiftLeft_eq_ofNat _ _),
        writes_alu1 (· >>> sh.toNat) hq rfl (ushiftRight_eq_ofNat _ _),
        writes_alu1 (·.sshiftRight sh.toNat) hq rfl (sshiftRight_eq_ofInt _ _),
        writes_alu1 (·.rotateLeft sh.toNat) hq rfl (rotateLeft_eq_or _ sh.isLt),
        writes_of_land hq rfl,
        shiftLeft_or_setWidth_eq (s.gv d.toNat) imm19 ▸ writes_of_land hq rfl⟩

end Sys2Proof.Machine
end

section
/-! How a word that checks and then traps, or passes its checks, ends: `lowest` and `orTrap` in the terms of `Traps`. -/

namespace Sys2Proof.Machine

open Host Sys2Proof

@[simp] theorem cond_true (c : Nat) (w : W64) : cond true c w = some (c, w) := rfl
@[simp] theorem cond_false (c : Nat) (w : W64) : cond false c w = none := rfl
theorem poisonIf_true (s : State) : poisonIf s true = some (0x0B, w64 s.cur.word) := rfl

@[simp] theorem lowest_none_cons (l : List (Option (Nat × W64))) : lowest (none :: l) = lowest l := rfl

/-- A check that does not hold may be left out behind another. -/
theorem orTrap_skip_none (o : Option (Nat × W64)) (l : List (Option (Nat × W64))) (s : State) (k : State → Res) :
    orTrap (o :: none :: l) s k = orTrap (o :: l) s k := by
  have h : lowest (o :: none :: l) = lowest (o :: l) := by cases o <;> rfl
  rw [orTrap, orTrap, h]

/-- A condition stands before every poison, whose code is higher than those of the other checks of a transfer. -/
theorem lowest_before_poison {c : Nat} (w : W64) (s : State) (b : Bool) (hc : c ≤ 0x0B) :
    lowest [some (c, w), poisonIf s b] = some (c, w) := by
  cases b
  · rfl
  · simp [poisonIf_true, lowest, Nat.not_lt.2 hc]

/-- Taking a trap changes no part of the issue record. -/
@[simp] theorem raiseAt_cur (s : State) (t x pc resume cause : Nat) (info : W64) :
    (s.raiseAt t x pc resume cause info).cur = s.cur := by
  unfold State.raiseAt
  split
  · split <;> rfl
  · rfl

/-- A word whose checks report a condition raises it. -/
theorem traps_of_lowest {i : Instr} {s : State} {l : List (Option (Nat × W64))} {k : State → Res} {c : Nat} {w : W64}
    (hx : exec i s = orTrap l s k) (hl : lowest l = some (c, w)) : Traps i s c w := fun ht =>
  ⟨_, hx.trans (orTrap_some hl ht k), by simp [State.raise]⟩

end Sys2Proof.Machine
end

section
/-! R334 to R339: the transfers. -/

namespace Sys2Proof.Machine

open Host Sys2Proof

/-! ### A taken transfer at the end of its packet -/

@[simp] theorem Ctx.idle_pc (c : Ctx) : c.idle.pc = c.pc := by
  unfold Ctx.idle; dsimp only; split <;> rfl

@[simp] theorem Ctx.jumpTo_pc (c : Ctx) (target : Nat) : (c.jumpTo target).pc = target := rfl

@[simp] theorem Ctx.land_atEnd (c : Ctx) (cyc seed key : Nat) (v : RVal) (lat : Nat) (e : Bool) :
    (c.land cyc seed key v lat e).atEnd = c.atEnd := by
  unfold Ctx.land; split <;> rfl

/-- The packet of the issuing context of `t` leads to packet `target` once its words have issued. -/
def State.leadsTo (t : State) (target : Nat) : Prop :=
  ((t.endPacket t.cur.tile t.cur.ctx).ctx t.cur.tile t.cur.ctx).pc = target ∧ t.me.atEnd = .jump target

/-- The end of a packet whose word 0 was a taken transfer leads to its target. -/
theorem leadsTo_of_atEnd {t : State} {target : Nat} (h : t.me.atEnd = .jump target) : t.leadsTo target := by
  refine ⟨?_, h⟩
  have hend : ((t.modTile t.cur.tile fun T => { T with active := none }).ctx t.cur.tile t.cur.ctx).atEnd = .jump target := by
    rw [State.ctx, State.tile_modTile_same]; exact h
  simp only [State.endPacket, hend]
  rw [State.ctx, State.modCtx, State.tile_modTile_same, Tile.ctx_modCtx_same, Ctx.idle_pc, Ctx.jumpTo_pc]

/-- Instruction `i` completes in `s` as a taken transfer to `target`, and changes nothing else. -/
def Jumps (i : Instr) (s : State) (target : Nat) : Prop :=
  ∃ t, exec i s = .next t ∧ t.leadsTo target ∧ t.modMe (fun c => { c with atEnd := s.me.atEnd }) = s.modMe id

/-- Instruction `i` completes in `s` as a taken transfer to `target` with pc + 1 in g[d], L = 1, and changes nothing else. -/
def JumpsLinked (i : Instr) (s : State) (target : Nat) (d : BitVec 6) : Prop :=
  ∃ t, exec i s = .next t ∧ t.leadsTo target ∧
    (s.modMe (fun c => { c with atEnd := .jump target })).onlyRegs t [gKey d.toNat] ∧
    ∀ n, 1 ≤ n → t.later n (gKey d.toNat) = heldBy (gKey d.toNat) (gval (BitVec.ofNat 64 (s.me.pc + 1)) false)

theorem transfer_me (s : State) (t : Int) : (s.transfer t).me = { s.me with atEnd := .jump t.toNat } := me_modMe _ _

theorem quiet_transfer {s : State} {key : Nat} (t : Int) (h : s.quiet key) : (s.transfer t).quiet key := by
  intro f hf; rw [transfer_me] at hf; exact h f hf

/-! ### The shared form of the transfers (R334) -/

/-- A target lies outside 0 to 10,921. -/
theorem badTarget_iff (t : Int) : badTarget t = true ↔ t < 0 ∨ 10921 < t := by simp [badTarget]

/-- Only a taken transfer has its target checked. -/
theorem taken_and_badTarget_eq_false {taken : Bool} {t : Int} (ht : taken = true → ¬ (t < 0 ∨ 10921 < t)) :
    (taken && badTarget t) = false := by
  cases taken
  · rfl
  · simpa [← badTarget_iff] using ht rfl

/-- A transfer that is not taken, or whose target is in range, goes on when its deciding register is clean. -/
theorem branch_next {s : State} {taken poison : Bool} {t : Int} (k : State → State)
    (ht : taken = true → ¬ (t < 0 ∨ 10921 < t)) (hp : poison = false) :
    branch s taken poison t k = .next (k (if taken then s.transfer t else s)) := by
  rw [branch, taken_and_badTarget_eq_false ht, hp]
  exact orTrap_none rfl _ _

/-- A transfer that is not taken changes nothing, wherever it would lead. -/
theorem branch_not_taken {s : State} {taken poison : Bool} {t : Int} (ht : taken = false) (hp : poison = false) :
    branch s taken poison t id = .next s := by
  subst ht; exact branch_next id (fun h => absurd h (by decide)) hp

theorem jumps_of_branch {i : Instr} {s : State} {taken poison : Bool} {t : Int} {target : Nat} (hr : target ≤ 10921)
    (hx : exec i s = branch s taken poison t id) (ht : taken = true) (hp : poison = false) (htar : t = target) :
    Jumps i s target := by
  subst ht htar
  refine ⟨_, hx.trans (branch_next id (fun _ => by omega) hp), leadsTo_of_atEnd ?_, ?_⟩
  · exact congrArg Ctx.atEnd (transfer_me s target)
  · exact (modMe_modMe _ _ _).trans (modMe_congr s rfl)

theorem jumpsLinked_of_branch {i : Instr} {s : State} {d : BitVec 6} {poison : Bool} {t : Int} {target : Nat}
    (hr : target ≤ 10921) (hq : s.quiet (gKey d.toNat)) (hx : exec i s = branch s true poison t (·.link d))
    (hp : poison = false) (htar : t = target) : JumpsLinked i s target d := by
  subst htar
  refine ⟨_, hx.trans (branch_next _ (fun _ => by omega) hp), leadsTo_of_atEnd ?_, land_onlyRegs _ _ _ _ _, fun n hn => ?_⟩
  · simp [State.link, State.landG, State.landAs, transfer_me]
  · have hpc : (s.transfer target).me.pc = s.me.pc := by rw [transfer_me]
    rw [← hpc]
    exact land_later_same _ _ _ _ _ _ (quiet_transfer _ hq) hn

/-- A taken transfer out of range is ILLEGAL, whatever its deciding register. -/
theorem branch_traps_illegal {i : Instr} {s : State} {taken poison : Bool} {t : Int} {k : State → State}
    (hx : exec i s = branch s taken poison t k) (ht : taken = true) (hout : t < 0 ∨ 10921 < t) :
    Traps i s 0x01 s.illegalInfo :=
  traps_of_lowest hx (by rw [ht, (badTarget_iff t).2 hout]; exact lowest_before_poison _ s poison (by decide))

/-- A poisoned deciding register raises POISON where the target does not raise ILLEGAL. -/
theorem branch_traps_poison {i : Instr} {s : State} {taken poison : Bool} {t : Int} {k : State → State}
    (hx : exec i s = branch s taken poison t k) (ht : taken = true → ¬ (t < 0 ∨ 10921 < t)) (hp : poison = true) :
    Traps i s 0x0B (w64 s.cur.word) :=
  traps_of_lowest hx (by rw [taken_and_badTarget_eq_false ht, hp]; rfl)

/-- R339: the target in a register is out of range above 10,921 alone. -/
theorem regTarget_out_iff (s : State) (a : BitVec 6) :
    s.regTarget a < 0 ∨ 10921 < s.regTarget a ↔ 10921 < (s.gv a.toNat).toNat := by
  unfold State.regTarget; omega

/-! ### BR, BRM and BRG -/

/-- R335: BR is taken when its predicate differs from neg. -/
theorem br_taken_iff (b : Bool) (neg : BitVec 1) : xor b (neg == 1#1) = true ↔ (b = true ↔ neg = 0) := by
  revert b neg; decide

/-- The mask of which every bit is `b`. -/
def uniformMask (b : Bool) : W32 := if b then 0xFFFFFFFF#32 else 0#32

/-- Inverting a uniform mask inverts its bit. -/
theorem uniformMask_inverted (b : Bool) (neg : BitVec 1) :
    (if neg = 1#1 then ~~~uniformMask b else uniformMask b) = uniformMask (xor b (neg == 1#1)) := by
  revert b neg; decide

theorem eq_uniformMask {m : W32} (h : m = 0 ∨ m = 0xFFFFFFFF#32) : ∃ b, m = uniformMask b := by
  rcases h with rfl | rfl
  · exact ⟨false, rfl⟩
  · exact ⟨true, rfl⟩

/-- The uniform mask on which BRM is taken, and the one on which it is not. -/
theorem mask_taken (neg : BitVec 1) : (if neg = 0 then 0xFFFFFFFF#32 else 0#32) = uniformMask (neg == 0) := by
  revert neg; decide
theorem mask_not_taken (neg : BitVec 1) : (if neg = 0 then 0#32 else 0xFFFFFFFF#32) = uniformMask (neg == 1#1) := by
  revert neg; decide
theorem eq_mask_taken {b : Bool} {neg : BitVec 1} (h : xor b (neg == 1#1) = true) :
    uniformMask b = (if neg = 0 then 0xFFFFFFFF#32 else 0#32) := by
  revert b neg; decide

theorem uniformMask_getLsbD_zero (b : Bool) : (uniformMask b).getLsbD 0 = b := by revert b; decide
theorem uniformMask_eq_ones (b : Bool) : (uniformMask b == 0xFFFFFFFF#32) = b := by revert b; decide
theorem uniformMask_uniform (b : Bool) : (uniformMask b != 0xFFFFFFFF#32 && uniformMask b != 0#32) = false := by
  revert b; decide

/-- R336: on a uniform mask BRM has the shared form, and the poison of a mask that has not landed tells nothing. -/
theorem exec_brm_uniform (s : State) (k : BitVec 3) (neg : BitVec 1) (o : BitVec 21) {b : Bool}
    (h : (s.k k.toNat).lo32 = uniformMask b) :
    exec (.brm k neg o) s = branch s (xor b (neg == 1#1)) (!s.early (kKey k.toNat) && (s.k k.toNat).poison)
      (s.target o) id := by
  show execBrm k neg o s = _
  simp only [execBrm, h, uniformMask_inverted, uniformMask_getLsbD_zero, uniformMask_eq_ones, uniformMask_uniform]
  cases s.early (kKey k.toNat) with
  | true => rfl
  | false =>
    simp only [← beq_iff_eq (a := uniformMask _), uniformMask_eq_ones, cond_false, orTrap_skip_none]
    rfl

/-- R336: a mask of mixed bits is UNIFORM. -/
theorem brm_traps_uniform (s : State) (k : BitVec 3) (neg : BitVec 1) (o : BitVec 21) (he : s.early (kKey k.toNat) = false)
    (h0 : (s.k k.toNat).lo32 ≠ 0#32) (h1 : (s.k k.toNat).lo32 ≠ 0xFFFFFFFF#32) :
    Traps (.brm k neg o) s 0x07 (BitVec.ofNat 64 ((s.k k.toNat).lo32.toNat + k.toNat * 2 ^ 32)) := by
  refine traps_of_lowest (if_neg (by simp [he])) ?_
  generalize (s.k k.toNat).lo32 = v at h0 h1 ⊢
  have hm : (if neg = 1#1 then ~~~v else v) ≠ 0xFFFFFFFF#32 ∧ (if neg = 1#1 then ~~~v else v) ≠ 0#32 := by
    split
    · exact ⟨fun h => h0 (by simpa using congrArg (~~~·) h), fun h => h1 (by simpa using congrArg (~~~·) h)⟩
    · exact ⟨h1, h0⟩
  simp only [beq_false_of_ne hm.1, bne_iff_ne.2 hm.1, bne_iff_ne.2 hm.2, Bool.false_and, Bool.and_self, cond_false, cond_true,
    lowest_none_cons]
  exact lowest_before_poison _ s _ (by decide)

/-- R337: on equal predicates BRG has the shared form. -/
theorem exec_brg_equal (s : State) (p q : BitVec 3) (o : BitVec 19) (h : (s.p p.toNat).isTrue = (s.p q.toNat).isTrue) :
    exec (.brg p q o) s = branch s (s.p p.toNat).isTrue ((s.p p.toNat).poison || (s.p q.toNat).poison) (s.target o) id := by
  show execBrg p q o s = _
  simp only [execBrg, ← h, ite_self, beq_self_eq_true, Bool.true_and, bne_self_eq_false, cond_false, orTrap_skip_none]
  split <;> rfl

/-- R337: on predicates that have landed and differ BRG raises CHECK. -/
theorem brg_traps_check (s : State) (p q : BitVec 3) (o : BitVec 19) (hp : s.early (pKey p.toNat) = false)
    (hq : s.early (pKey q.toNat) = false) (h : (s.p p.toNat).isTrue ≠ (s.p q.toNat).isTrue) :
    Traps (.brg p q o) s 0x08 (BitVec.ofNat 64 (s.cur.word + 2 * 4)) := by
  have hne : ((s.p p.toNat).isTrue == (s.p q.toNat).isTrue) = false := by simpa using h
  refine traps_of_lowest (if_neg (by simp [hp, hq])) ?_
  simp only [hne, bne, Bool.false_and, Bool.not_false, cond_false, cond_true, lowest_none_cons]
  exact lowest_before_poison _ s _ (by decide)

/-- R336: the mask on which BRM is taken. -/
theorem exec_brm_taken (s : State) (k : BitVec 3) (neg : BitVec 1) (o : BitVec 21)
    (h : (s.k k.toNat).lo32 = (if neg = 0 then 0xFFFFFFFF#32 else 0#32)) :
    exec (.brm k neg o) s = branch s true (!s.early (kKey k.toNat) && (s.k k.toNat).poison) (s.target o) id := by
  rw [exec_brm_uniform s k neg o (h.trans (mask_taken neg)), (br_taken_iff _ neg).2 beq_iff_eq]

/-- R336: the mask on which BRM is not taken. -/
theorem exec_brm_not_taken (s : State) (k : BitVec 3) (neg : BitVec 1) (o : BitVec 21)
    (h : (s.k k.toNat).lo32 = (if neg = 0 then 0#32 else 0xFFFFFFFF#32)) :
    exec (.brm k neg o) s = branch s false (!s.early (kKey k.toNat) && (s.k k.toNat).poison) (s.target o) id := by
  rw [exec_brm_uniform s k neg o (h.trans (mask_not_taken neg)), Bool.xor_self]

/-- R336: a landed uniform mask that is poisoned raises POISON, where the target of a taken BRM does not raise ILLEGAL. -/
theorem brm_traps_poison (s : State) (k : BitVec 3) (neg : BitVec 1) (o : BitVec 21) (he : s.early (kKey k.toNat) = false)
    (hm : (s.k k.toNat).lo32 = 0 ∨ (s.k k.toNat).lo32 = 0xFFFFFFFF#32)
    (hin : (s.k k.toNat).lo32 = (if neg = 0 then 0xFFFFFFFF#32 else 0#32) → ¬ (s.target o < 0 ∨ 10921 < s.target o))
    (hp : (s.k k.toNat).poison = true) : Traps (.brm k neg o) s 0x0B (w64 s.cur.word) := by
  obtain ⟨b, hb⟩ := eq_uniformMask hm
  exact branch_traps_poison (exec_brm_uniform s k neg o hb) (fun ht => hin (hb.trans (eq_mask_taken ht))) (by rw [he, hp]; rfl)

/-! ### The statement -/

/-- Settles O4: every transfer has the shared form `branch`, on uniform masks and equal predicates BRM and BRG too; what
they raise on the others are the conditions of their own. -/
theorem transfersLeadToTheirTarget : Obligations.TransfersLeadToTheirTarget := by
  refine ⟨fun s p k neg o21 o19 d a pb target hr => ?_, fun s p k neg o21 o19 a d pb => ?_⟩
  · intro leads far linked at21 at19 atReg
    refine ⟨fun ht hp htaken => ?_, fun ht hp hm => ?_, fun ht hx hy hp hq => ?_, fun ht => ?_, fun ht hq => ?_,
      fun ⟨hg, hp⟩ => ⟨?_, ?_⟩, fun ⟨hg, hp⟩ hq => ?_⟩
    · exact jumps_of_branch hr rfl ((br_taken_iff _ neg).2 htaken) hp ht
    · exact jumps_of_branch hr (exec_brm_taken s k neg o21 hm) rfl (by rw [hp, Bool.and_false]) ht
    · exact jumps_of_branch hr (exec_brg_equal s p pb o19 (hx.trans hy.symm)) hx (by rw [hp, hq]; rfl) ht
    · exact jumps_of_branch hr rfl rfl rfl ht
    · exact jumpsLinked_of_branch hr hq rfl rfl ht
    · exact jumps_of_branch hr rfl rfl hp (congrArg Nat.cast hg)
    · exact jumps_of_branch hr rfl rfl hp (congrArg Nat.cast hg)
    · exact jumpsLinked_of_branch hr hq rfl hp (congrArg Nat.cast hg)
  · intro illegal word out t21 t19 m taken
    refine ⟨fun hnot hp => ?_, fun htaken hout => ?_, fun hin hp => ?_, fun hm hp => ?_, fun hm hout => ?_,
      fun he => ⟨fun h0 h1 => ?_, fun hm hin hp => ?_⟩, fun hx hy hp hq => ?_, fun hx hy hout => ?_,
      fun hep heq => ⟨fun hne => ?_, fun heq hin hp => ?_⟩, fun hout => ⟨?_, ?_⟩, fun hout => ⟨?_, ?_, ?_⟩,
      fun hin hp => ⟨?_, ?_, ?_⟩⟩
    · exact branch_not_taken (Bool.eq_false_iff.2 fun h => hnot ((br_taken_iff _ neg).1 h)) hp
    · exact branch_traps_illegal rfl ((br_taken_iff _ neg).2 htaken) hout
    · exact branch_traps_poison rfl (fun h => hin.resolve_left (not_not.2 ((br_taken_iff _ neg).1 h))) hp
    · exact (exec_brm_not_taken s k neg o21 hm).trans (branch_not_taken rfl (by rw [hp, Bool.and_false]))
    · exact branch_traps_illegal (exec_brm_taken s k neg o21 hm) rfl hout
    · exact brm_traps_uniform s k neg o21 he h0 h1
    · exact brm_traps_poison s k neg o21 he hm hin hp
    · exact (exec_brg_equal s p pb o19 (hx.trans hy.symm)).trans (branch_not_taken hx (by rw [hp, hq]; rfl))
    · exact branch_traps_illegal (exec_brg_equal s p pb o19 (hx.trans hy.symm)) hx hout
    · exact brg_traps_check s p pb o19 hep heq hne
    · exact branch_traps_poison (exec_brg_equal s p pb o19 heq) hin (by simpa using hp)
    · exact branch_traps_illegal rfl rfl hout
    · exact branch_traps_illegal (k := (·.link d)) rfl rfl hout
    · exact branch_traps_illegal rfl rfl ((regTarget_out_iff s a).2 hout)
    · exact branch_traps_illegal rfl rfl ((regTarget_out_iff s a).2 hout)
    · exact branch_traps_illegal (k := (·.link d)) rfl rfl ((regTarget_out_iff s a).2 hout)
    · exact branch_traps_poison rfl (fun _ => (regTarget_out_iff s a).not.2 hin.not_gt) hp
    · exact branch_traps_poison rfl (fun _ => (regTarget_out_iff s a).not.2 hin.not_gt) hp
    · exact branch_traps_poison (k := (·.link d)) rfl (fun _ => (regTarget_out_iff s a).not.2 hin.not_gt) hp

end Sys2Proof.Machine
end
